-- ==== Sys2Proof/Word.lean ====
section
/-! DEFINITION. Word.lean: the widths of the module's values and the one shape sparse data has. -/

namespace Sys2Proof

/-- One byte of memory, pad or vault (R5). -/
abbrev Byte := BitVec 8
/-- A 32-bit lane value, instruction word or register (R57, R98). -/
abbrev Word := BitVec 32
/-- A 64-bit scalar register or address (R57, R109). -/
abbrev DWord := BitVec 64
/-- One bit for each of the 96 lanes of a wave, bit i for lane i (R29). -/
abbrev Mask := BitVec 96
/-- Sparse data by key: key and value pairs, keys strictly rising. -/
abbrev Map (α : Type) := List (Nat × α)

end Sys2Proof
end

