-- ==== Sys2Proof/Machine/Flags.lean ====
section
/-! DEFINITION. Machine/Flags.lean: the sticky flags word (R92) and results that carry flags. -/

namespace Sys2Proof.Machine

/-- The flags word of a wave (R92): NV, DZ, OF, UF, NX, SA from bit 0. -/
abbrev Flags := BitVec 6

def flNV : Flags := 1
def flDZ : Flags := 2
def flOF : Flags := 4
def flUF : Flags := 8
def flNX : Flags := 16
def flSA : Flags := 32

/-- The flag when the condition holds. -/
def flIf (b : Bool) (f : Flags) : Flags := if b then f else 0

/-- A value and the flags its computation raises. -/
structure Res (α : Type) where
  val : α
  fl : Flags
  deriving DecidableEq, Repr

end Sys2Proof.Machine
end

