-- ==== Sys2Proof/Machine/Maps.lean ====
section
/-! DEFINITION. Machine/Maps.lean: sparse data by key, lanes and masks, as lists. -/

namespace Sys2Proof.Machine

/-- The value at a key. -/
def mget : Map α → Nat → Option α
  | [], _ => none
  | (j, a) :: m, k => if j = k then some a else mget m k

/-- The value at a key, or a default. -/
def mgetD (m : Map α) (k : Nat) (d : α) : α := (mget m k).getD d

/-- Write at a key; the list stays strictly rising. -/
def mput : Map α → Nat → α → Map α
  | [], k, a => [(k, a)]
  | (j, b) :: m, k, a =>
    if k < j then (k, a) :: (j, b) :: m
    else if k = j then (k, a) :: m
    else (j, b) :: mput m k a

/-- Remove a key. -/
def mdel (m : Map α) (k : Nat) : Map α := m.filter fun e => e.1 ≠ k

/-- Change every value. -/
def meach (m : Map α) (f : α → α) : Map α := m.map fun e => (e.1, f e.2)
/-- Keep the entries whose value passes. -/
def mkeep (m : Map α) (f : α → Bool) : Map α := m.filter fun e => f e.2

/-- Keys strictly rising. -/
def mwf : Map α → Bool
  | [] => true
  | [_] => true
  | (j, _) :: (k, b) :: m => j < k && mwf ((k, b) :: m)

/-- Write at a key of a map whose absent entries hold a default: writing the default removes the entry. -/
def mset [DecidableEq α] (m : Map α) (k : Nat) (a d : α) : Map α := if a = d then mdel m k else mput m k a

/-- Bit i of a mask. -/
def mbit (m : Mask) (i : Nat) : Bool := m.toNat.testBit i
/-- The lanes of a mask, ascending. -/
def lanesOf (m : Mask) : List Nat := (List.range 96).filter (mbit m)
/-- The mask of the lanes that satisfy a test. -/
def maskOf (f : Nat → Bool) : Mask :=
  BitVec.ofNat 96 ((List.range 96).foldr (fun i n => 2 * n + if f i then 1 else 0) 0)
def oneLane (i : Nat) : Mask := maskOf (· = i)
def allLanes : Mask := maskOf fun _ => true
/-- The lowest lane of a mask. -/
def lowest (m : Mask) : Option Nat := (lanesOf m).head?
/-- a is within b. -/
def subMask (a b : Mask) : Bool := a &&& ~~~b == 0

/-- Lane t of a lane file entry. -/
def laneAt (l : List Word) (t : Nat) : Word := l.getD t 0
/-- The lane file entry with f t in lane t. -/
def ofLanes (f : Nat → Word) : List Word := (List.range 96).map f
/-- f in the lanes of the mask, the old value in the others. -/
def mergeLanes (m : Mask) (f : Nat → Word) (old : List Word) : List Word :=
  ofLanes fun t => if mbit m t then f t else laneAt old t

/-- Bits hi down to lo of a number (R4). -/
def fieldOf (n hi lo : Nat) : Nat := n / 2 ^ lo % 2 ^ (hi + 1 - lo)

/-- n as len bytes, little-endian (R5). -/
def bytesOfNat : Nat → Nat → List Byte
  | 0, _ => []
  | len + 1, n => BitVec.ofNat 8 n :: bytesOfNat len (n / 256)
/-- The number that bytes hold, little-endian (R5). -/
def natOfBytes : List Byte → Nat
  | [] => 0
  | b :: r => b.toNat + 256 * natOfBytes r

end Sys2Proof.Machine
end

