-- ==== Sys2Proof/Machine/Arith.lean ====
section
/-! DEFINITION. Machine/Arith.lean: number formats (R80 to R87), exact values, rounding (R88), NaN (R89),
conversion (R91), special functions (R93), quantisation (R94). -/

namespace Sys2Proof.Machine

/-- A floating-point format (R81): fraction bits, exponent bits, bias, and whether it has infinities. -/
structure FFmt where
  m : Nat
  e : Nat
  bias : Nat
  hasInf : Bool
  deriving DecidableEq, Repr

def f32 : FFmt := ⟨23, 8, 127, true⟩
def f16 : FFmt := ⟨10, 5, 15, true⟩
def fb16 : FFmt := ⟨7, 8, 127, true⟩
def fe4m3 : FFmt := ⟨3, 4, 7, false⟩
def fe5m2 : FFmt := ⟨2, 5, 15, true⟩

/-- Bits of a format's sign position. -/
def FFmt.sbit (f : FFmt) : Nat := 2 ^ (f.m + f.e)
/-- The magnitude pattern of an infinity. -/
def FFmt.infBits (f : FFmt) : Nat := (2 ^ f.e - 1) * 2 ^ f.m
/-- The magnitude pattern of the largest finite value (R81). -/
def FFmt.maxBits (f : FFmt) : Nat := if f.hasInf then f.infBits - 1 else 2 ^ (f.m + f.e) - 2
/-- The canonical quiet NaN (R89). -/
def FFmt.qnan (f : FFmt) : Nat := if f.hasInf then f.infBits + 2 ^ (f.m - 1) else 2 ^ (f.m + f.e) - 1
/-- Exponent of the unit of the subnormals. -/
def FFmt.ulp0 (f : FFmt) : Int := 1 - (f.bias : Int) - f.m

/-- What an operand is: a NaN, signalling or not, an infinity, or an exact magnitude n / d with its sign. -/
inductive Num where
  | nan (sig : Bool)
  | inf (neg : Bool)
  | fin (neg : Bool) (n d : Nat)
  deriving DecidableEq, Repr

/-- n · 2^e as a fraction. -/
def scaled (n : Nat) (e : Int) : Nat × Nat :=
  if 0 ≤ e then (n * 2 ^ e.toNat, 1) else (n, 2 ^ (-e).toNat)

/-- The value of a pattern of a format (R81). -/
def FFmt.read (f : FFmt) (bits : Nat) : Num :=
  let neg := bits / f.sbit % 2 == 1
  let mag := bits % f.sbit
  let fr := mag % 2 ^ f.m
  let ex := mag / 2 ^ f.m
  if f.hasInf && ex == 2 ^ f.e - 1 then
    if fr = 0 then .inf neg else .nan (decide (fr < 2 ^ (f.m - 1)))
  else if !f.hasInf && mag == f.qnan then .nan false
  else
    let p := if ex = 0 then scaled fr f.ulp0 else scaled (2 ^ f.m + fr) (f.ulp0 + (ex - 1 : Nat))
    .fin neg p.1 p.2

def Num.isNan : Num → Bool
  | .nan _ => true
  | _ => false
def Num.isSig : Num → Bool
  | .nan s => s
  | _ => false
def Num.isInf : Num → Bool
  | .inf _ => true
  | _ => false
def Num.isZero : Num → Bool
  | .fin _ n _ => n == 0
  | _ => false
/-- Sign, of every value that has one. -/
def Num.neg? : Num → Bool
  | .nan _ => false
  | .inf s => s
  | .fin s _ _ => s
def Num.flip : Num → Num
  | .nan s => .nan s
  | .inf s => .inf !s
  | .fin s n d => .fin (!s) n d

/-- The exact product (R164), with NV for 0 · inf and for a signalling NaN. -/
def Num.mul (a b : Num) : Res Num :=
  if a.isNan || b.isNan then ⟨.nan false, flIf (a.isSig || b.isSig) flNV⟩
  else
    let s := a.neg? != b.neg?
    match a, b with
    | .fin _ n d, .fin _ n' d' => ⟨.fin s (n * n') (d * d'), 0⟩
    | x, y => if x.isZero || y.isZero then ⟨.nan false, flNV⟩ else ⟨.inf s, 0⟩

/-- The exact sum of finite values as a signed fraction. -/
def sumFin : List Num → Int × Nat
  | [] => (0, 1)
  | .fin s n d :: r =>
    let t := sumFin r
    (t.1 * d + (if s then -(n : Int) else n) * t.2, t.2 * d)
  | _ :: r => sumFin r

/-- Rounding modes (R88). -/
inductive Rnd where
  | rne | rtz | rdn | rup
  deriving DecidableEq, Repr
def Rnd.of (b : BitVec 2) : Rnd :=
  if b = 0 then .rne else if b = 1 then .rtz else if b = 2 then .rdn else .rup

/-- The exact sum of a list of terms (R88, R164): a NaN term gives NaN, infinities of both signs give NaN with NV,
an exact zero takes the sign R88 gives. -/
def sumNums (l : List Num) (r : Rnd) : Res Num :=
  if l.any Num.isNan then ⟨.nan false, flIf (l.any Num.isSig) flNV⟩
  else if l.any Num.isInf then
    if l.any (fun x => x.isInf && x.neg?) && l.any (fun x => x.isInf && !x.neg?) then ⟨.nan false, flNV⟩
    else ⟨.inf (l.any fun x => x.isInf && x.neg?), 0⟩
  else
    let t := sumFin l
    if t.1 = 0 then
      let allNeg := l.all Num.neg?
      let allPos := l.all fun x => !x.neg?
      if l.all Num.isZero && (allNeg || allPos) then ⟨.fin allNeg 0 1, 0⟩
      else ⟨.fin (r == .rdn) 0 1, 0⟩
    else ⟨.fin (t.1 < 0) t.1.natAbs t.2, 0⟩

/-- floor(log2(n / d)) for n above 0. -/
def ilog2 (n d : Nat) : Int :=
  let e : Int := (Nat.log2 n : Int) - Nat.log2 d
  let p := scaled d e
  if n * p.2 < p.1 then e - 1 else e

/-- Round the non-negative fraction n / d to an integer under a mode, for a value of the given sign. -/
def rintFrac (n d : Nat) (neg : Bool) (r : Rnd) : Nat :=
  let k := n / d
  let rem := n % d
  let up := match r with
    | .rne => d < 2 * rem || (2 * rem == d && k % 2 == 1)
    | .rtz => false
    | .rdn => neg && rem != 0
    | .rup => !neg && rem != 0
  if up then k + 1 else k

/-- round(x, fmt, mode) of R88 for a finite nonzero magnitude n / d. -/
def roundFin (f : FFmt) (r : Rnd) (neg : Bool) (n d : Nat) : Res Nat :=
  let sgn := if neg then f.sbit else 0
  let u : Int := max (ilog2 n d) (1 - (f.bias : Int)) - f.m
  let p := if 0 ≤ u then (n, d * 2 ^ u.toNat) else (n * 2 ^ (-u).toNat, d)
  let k := rintFrac p.1 p.2 neg r
  let inexact := p.1 % p.2 != 0
  let bits := (u - f.ulp0).toNat * 2 ^ f.m + k
  if f.maxBits < bits then
    let toInf := r == .rne || (r == .rup && !neg) || (r == .rdn && neg)
    ⟨if toInf then (if f.hasInf then sgn + f.infBits else f.qnan) else sgn + f.maxBits, flOF ||| flNX⟩
  else ⟨sgn + bits, flIf inexact flNX ||| flIf (inexact && bits < 2 ^ f.m) flUF⟩

/-- round(x, fmt, mode) of R88; a NaN gives the canonical NaN. -/
def roundNum (f : FFmt) (r : Rnd) (x : Num) : Res Nat :=
  match x with
  | .nan _ => ⟨f.qnan, 0⟩
  | .inf s => ⟨if f.hasInf then (if s then f.sbit else 0) + f.infBits else f.qnan, 0⟩
  | .fin s n d => if n = 0 then ⟨if s then f.sbit else 0, 0⟩ else roundFin f r s n d

/-- fout of R164: rounding, then SAT. -/
def fout (f : FFmt) (r : Rnd) (sat : Bool) (y : Res Num) : Res Nat :=
  if y.val.isNan then ⟨f.qnan, y.fl⟩
  else
    let x := roundNum f r y.val
    if sat && (f.read x.val).isInf || sat && (f.read x.val).isNan then
      ⟨(if y.val.neg? then f.sbit else 0) + f.maxBits, y.fl ||| x.fl ||| flSA⟩
    else ⟨x.val, y.fl ||| x.fl⟩

/-- fin of R164 on a pattern: absolute value, then negation; on a NaN only the sign bit changes. -/
def fmodif (f : FFmt) (ab ng : Bool) (bits : Nat) : Nat :=
  let b := if ab then bits % f.sbit else bits
  if ng then (if b / f.sbit % 2 = 1 then b - f.sbit else b + f.sbit) else b

/-- a + b. -/
def addNum (a b : Num) (r : Rnd) : Res Num := sumNums [a, b] r
/-- Σ products + c, one NaN rule and one exact sum (R164, R172). -/
def dotNum (ps : List (Num × Num)) (c : Num) (r : Rnd) : Res Num :=
  let prods := ps.map fun p => p.1.mul p.2
  let nv := prods.foldl (fun a p => a ||| p.fl) 0 ||| flIf c.isSig flNV
  if prods.any (fun p => p.val.isNan) || c.isNan then ⟨.nan false, nv ||| badInf (prods.map (·.val) ++ [c])⟩
  else
    let y := sumNums (prods.map (·.val) ++ [c]) r
    ⟨y.val, nv ||| y.fl⟩
where
  /-- Infinities of both signs among the products and c raise NV even beside a quiet NaN (R172). -/
  badInf (terms : List Num) : Flags :=
    flIf (terms.any (fun p => p.isInf && p.neg?) && terms.any (fun p => p.isInf && !p.neg?)) flNV

/-- minimumNumber and maximumNumber (R169), on patterns. -/
def cmpKey (f : FFmt) (bits : Nat) : Int :=
  if bits / f.sbit % 2 = 1 then -((bits % f.sbit : Nat) : Int) - 1 else (bits % f.sbit : Nat)
def fminmax (f : FFmt) (mx : Bool) (a b : Nat) : Res Nat :=
  let x := f.read a
  let y := f.read b
  let nv := flIf (x.isSig || y.isSig) flNV
  if x.isNan && y.isNan then ⟨f.qnan, nv⟩
  else if x.isNan then ⟨b, nv⟩
  else if y.isNan then ⟨a, nv⟩
  else if (if mx then cmpKey f b ≤ cmpKey f a else cmpKey f a ≤ cmpKey f b) then ⟨a, nv⟩ else ⟨b, nv⟩

/-- Exact comparison (R158): -0 equals +0. -/
def fless (f : FFmt) (a b : Nat) : Bool :=
  let z (x : Nat) : Int :=
    if x % f.sbit = 0 then 0 else if x / f.sbit % 2 = 1 then -((x % f.sbit : Nat) : Int) else (x % f.sbit : Nat)
  decide (z a < z b)
def fcond (f : FFmt) (cond : BitVec 3) (a b : Nat) : Res Bool :=
  let x := f.read a
  let y := f.read b
  let un := x.isNan || y.isNan
  let lt := !un && fless f a b
  let gt := !un && fless f b a
  let eq := !un && !lt && !gt
  ⟨match cond.toNat with
    | 0 => eq | 1 => !eq | 2 => lt | 3 => lt || eq | 4 => gt | 5 => gt || eq | 6 => un | _ => !un,
   flIf (x.isSig || y.isSig) flNV⟩

/-- FRND (R169). -/
def frndOp (r : Rnd) (a : Nat) : Res Nat :=
  match f32.read a with
  | .nan s => ⟨f32.qnan, flIf s flNV⟩
  | .inf _ => ⟨a, 0⟩
  | .fin s n d => ⟨(roundNum f32 .rne (.fin s (rintFrac n d s r) 1)).val, 0⟩

/-- FFRACT (R169): a − floor(a), toward zero. -/
def ffractOp (a : Nat) : Res Nat :=
  match f32.read a with
  | .nan s => ⟨f32.qnan, flIf s flNV⟩
  | .inf _ => ⟨f32.qnan, flNV⟩
  | .fin s n d =>
    let rem := n % d
    let fr := if s then (if rem = 0 then 0 else d - rem) else rem
    roundNum f32 .rtz (.fin false fr d)

/-- FSCALE (R169): an infinite source gives that infinity. An exponent past ±1,000 rounds as ±1,000 does.
(DEDUCED: log 21) -/
def fscaleOp (r : Rnd) (sat : Bool) (a : Nat) (b : Int) : Res Nat :=
  match f32.read a with
  | .nan s => ⟨f32.qnan, flIf s flNV⟩
  | .inf _ => ⟨a, 0⟩
  | .fin s n d =>
    let e := max (-1000) (min 1000 b)
    let p := scaled n e
    fout f32 r sat ⟨.fin s p.1 (d * p.2), 0⟩

/-- floor(√n), from bit k down. -/
def isqrtAux (n : Nat) : Nat → Nat → Nat
  | 0, r => r
  | k + 1, r => if (r + 2 ^ k) * (r + 2 ^ k) ≤ n then isqrtAux n k (r + 2 ^ k) else isqrtAux n k r
def isqrt (n : Nat) : Nat := isqrtAux n (Nat.log2 n / 2 + 1) 0

/-- trunc28 of R93: a positive fraction toward zero to 28 significant bits. (DEDUCED: log 22) -/
def trunc28 (n d : Nat) : Nat × Nat :=
  let u := ilog2 n d - 27
  let p := if 0 ≤ u then (n, d * 2 ^ u.toNat) else (n * 2 ^ (-u).toNat, d)
  scaled (p.1 / p.2) u

/-- round_sf of R93: n / d is f(x) itself when exact, else a value just below it in magnitude with the same
trunc28; NX and UF are judged against f(x). -/
def roundSf (neg : Bool) (n d : Nat) (exact : Bool) : Res Nat :=
  let t := trunc28 n d
  let y := roundFin f32 .rne neg t.1 t.2
  if exact then y
  else if (y.fl &&& flOF) ≠ 0 then y
  else ⟨y.val, flNX ||| flIf (y.val % f32.sbit < 2 ^ 23) flUF⟩

/-- Working precision of the series below, in bits; the spec fixes only their first 28 significant bits.
(DEDUCED: log 22) -/
def wp : Nat := 512
/-- floor(ln 2 · 2^512). -/
def ln2Fix : Nat := 0xb17217f7d1cf79abc9e3b39803f2f6af40f343267298b62d8a0d175b8baafa2be7b876206debac98559552fb4afa1b10ed2eae35c138214427573b291169b825
/-- floor(π/2 · 2^512). -/
def halfPiFix : Nat := 0x1921fb54442d18469898cc51701b839a252049c1114cf98e804177d4c76273644a29410f31c6809bbdf2a33679a748636605614dbe4be286e9fc26adadaa3848b

/-- Σ z^k / k! in fixed point. (DEDUCED: log 22) -/
def expSeries (z : Nat) : Nat → Nat → Nat → Nat → Nat
  | 0, _, _, acc => acc
  | n + 1, k, t, acc => let t' := t * z / 2 ^ wp / k; expSeries z n (k + 1) t' (acc + t')
/-- Alternating series of sine and cosine in fixed point: t is the first term, k its index. -/
def trigSeries (z2 : Nat) : Nat → Nat → Int → Bool → Int → Int
  | 0, _, _, _, acc => acc
  | n + 1, k, t, s, acc =>
    let t' := t * (z2 : Int) / 2 ^ wp / ((k + 1) * (k + 2) : Nat)
    trigSeries z2 n (k + 2) t' (!s) (if s then acc + t' else acc - t')
/-- sin and cos of π/2 · n / d, 0 ≤ n / d ≤ 1, in fixed point. (DEDUCED: log 22) -/
def sinQ (n d : Nat) : Nat :=
  let th := halfPiFix * n / d
  (trigSeries (th * th / 2 ^ wp) 60 1 th false th).toNat
/-- (DEDUCED: log 22) -/
def cosQ (n d : Nat) : Nat :=
  let th := halfPiFix * n / d
  (trigSeries (th * th / 2 ^ wp) 60 0 (2 ^ wp : Nat) false (2 ^ wp : Nat)).toNat

/-- log2 of y / 2^512 in [1, 2) by repeated squaring: n bits of the fraction. (DEDUCED: log 22) -/
def log2Bits : Nat → Nat → Nat → Nat
  | 0, _, acc => acc
  | n + 1, y, acc =>
    let q := y * y / 2 ^ wp
    if 2 ^ (wp + 1) ≤ q then log2Bits n (q / 2) (2 * acc + 1) else log2Bits n q (2 * acc)

def nanNV : Res Nat := ⟨f32.qnan, flNV⟩
def infOf (s : Bool) : Nat := (if s then f32.sbit else 0) + f32.infBits

/-- (DEDUCED: log 22) -/
def frcpOp (a : Nat) : Res Nat :=
  match f32.read a with
  | .nan s => ⟨f32.qnan, flIf s flNV⟩
  | .inf s => ⟨if s then f32.sbit else 0, 0⟩
  | .fin s n d => if n = 0 then ⟨infOf s, flDZ⟩ else roundFin f32 .rne s d n
/-- (DEDUCED: log 22) -/
def fsqrtOp (a : Nat) : Res Nat :=
  match f32.read a with
  | .nan s => ⟨f32.qnan, flIf s flNV⟩
  | .inf s => if s then nanNV else ⟨a, 0⟩
  | .fin s n d =>
    if n = 0 then ⟨a, 0⟩ else if s then nanNV
    else
      -- 80 extra bits, the last of them sticky
      let q := n * 2 ^ 160 / d * 2 ^ 160
      let r := isqrt q
      let exact := r * r == q && n * 2 ^ 160 % d == 0
      roundFin f32 .rne false (2 * r + if exact then 0 else 1) (2 ^ 161)
/-- (DEDUCED: log 22) -/
def frsqOp (a : Nat) : Res Nat :=
  match f32.read a with
  | .nan s => ⟨f32.qnan, flIf s flNV⟩
  | .inf s => if s then nanNV else ⟨0, 0⟩
  | .fin s n d =>
    if n = 0 then ⟨infOf s, flDZ⟩ else if s then nanNV
    else
      let r := isqrt (d * 2 ^ 320 / n)
      roundSf false r (2 ^ 160) (r * r * n == d * 2 ^ 320)
/-- (DEDUCED: log 22) -/
def fexp2Op (a : Nat) : Res Nat :=
  match f32.read a with
  | .nan s => ⟨f32.qnan, flIf s flNV⟩
  | .inf s => ⟨if s then 0 else infOf false, 0⟩
  | .fin s n d =>
    if n % d = 0 then
      -- an integer exponent: exact, clamped where every result is the same
      let p := scaled 1 (if s then -(min (n / d) 1000 : Nat) else (min (n / d) 1000 : Nat))
      roundFin f32 .rne false p.1 p.2
    else
      -- x = i + g with i = floor(x) and 0 < g < 1
      let i : Int := if s then -((n / d : Nat) : Int) - 1 else (n / d : Nat)
      let gn := if s then d - n % d else n % d
      let i' := max (-1000) (min 1000 i)
      let z := ln2Fix * gn / d
      let y := expSeries z 110 1 (2 ^ wp) (2 ^ wp)
      let y := min y (2 ^ (wp + 1) - 1)
      -- a power just above 2^i whose distance is below the working precision still lies above it
      let p := scaled y (i' - wp)
      roundSf false p.1 p.2 false
/-- (DEDUCED: log 22) -/
def flog2Op (a : Nat) : Res Nat :=
  match f32.read a with
  | .nan s => ⟨f32.qnan, flIf s flNV⟩
  | .inf s => if s then nanNV else ⟨a, 0⟩
  | .fin s n d =>
    if n = 0 then ⟨infOf true, flDZ⟩ else if s then nanNV
    else
      let e := ilog2 n d
      let p := scaled d e
      let y := n * p.2 * 2 ^ wp / p.1
      let fr := log2Bits 128 y 0
      if y = 2 ^ wp then
        if e = 0 then ⟨0, 0⟩ else roundFin f32 .rne (e < 0) e.natAbs 1
      else if 0 ≤ e then roundSf false (e.toNat * 2 ^ 128 + fr) (2 ^ 128) false
      else roundSf true ((-e).toNat * 2 ^ 128 - fr - 1) (2 ^ 128) false

/-- sin(2πx) of a finite x, as quadrant and fraction of a quarter turn. -/
def sinTurns (neg : Bool) (n d : Nat) : Res Nat :=
  let q := 4 * n / d % 4
  let fr := 4 * n % d
  let sg := neg != decide (2 ≤ q)
  if fr = 0 then
    if q % 2 = 0 then ⟨if n = 0 && neg then f32.sbit else 0, 0⟩ else roundFin f32 .rne sg 1 1
  else roundSf sg (if q % 2 = 0 then sinQ fr d else cosQ fr d) (2 ^ wp) false
/-- (DEDUCED: log 22) -/
def fsinOp (a : Nat) : Res Nat :=
  match f32.read a with
  | .nan s => ⟨f32.qnan, flIf s flNV⟩
  | .inf _ => nanNV
  | .fin s n d => sinTurns s n d
/-- cos(2πx) = sin(2π(|x| + 1/4)). (DEDUCED: log 22) -/
def fcosOp (a : Nat) : Res Nat :=
  match f32.read a with
  | .nan s => ⟨f32.qnan, flIf s flNV⟩
  | .inf _ => nanNV
  | .fin _ n d => sinTurns false (4 * n + d) (4 * d)

/-- sat of R90. -/
def satInt (x lo hi : Int) : Int := if x < lo then lo else if hi < x then hi else x

/-- An integer modulo 2^n. -/
def wrapInt (n : Nat) (x : Int) : Nat := (x % (2 ^ n : Nat)).toNat
/-- sext of R119. -/
def sextN (n x : Nat) : Int := if x % 2 ^ n < 2 ^ (n - 1) then (x % 2 ^ n : Nat) else ((x % 2 ^ n : Nat) : Int) - (2 ^ n : Nat)

/-- Element formats of conversion. -/
inductive EFmt where
  | flt (f : FFmt)
  | int (width : Nat) (signed : Bool)
  deriving DecidableEq, Repr

def EFmt.width : EFmt → Nat
  | .flt f => f.m + f.e + 1
  | .int w _ => w

/-- cvt of R91 between elements that are no SE values. (DEDUCED: log 21) -/
def cvtElem (src dst : EFmt) (r : Rnd) (sat : Bool) (x : Nat) : Res Nat :=
  let x := x % 2 ^ src.width
  match src, dst with
  | .flt f, .flt g =>
    match f.read x with
    | .nan s => ⟨g.qnan, flIf s flNV⟩
    | .inf s =>
      if g.hasInf then fout g r sat ⟨.inf s, 0⟩
      else if sat then ⟨(if s then g.sbit else 0) + g.maxBits, flSA⟩ else ⟨g.qnan, flNV⟩
    | .fin s n d => fout g r sat ⟨.fin s n d, 0⟩
  | .flt f, .int w sg =>
    let lo : Int := if sg then -(2 ^ (w - 1) : Nat) else 0
    let hi : Int := if sg then (2 ^ (w - 1) : Nat) - 1 else (2 ^ w : Nat) - 1
    match f.read x with
    | .nan _ => ⟨0, flNV⟩
    | .inf s => ⟨wrapInt w (if s then lo else hi), flNV ||| flNX⟩
    | .fin s n d =>
      let k := rintFrac n d s r
      let v : Int := if s then -(k : Int) else k
      let c := satInt v lo hi
      ⟨wrapInt w c, flIf (c ≠ v) (flNV ||| flNX) ||| flIf (k * d ≠ n) flNX⟩
  | .int w sg, .flt g =>
    let v : Int := if sg then sextN w x else x
    roundNum g r (.fin (v < 0) v.natAbs 1)
  | .int w sg, .int w' sg' =>
    let v : Int := if sg then sextN w x else x
    if sat then
      let lo : Int := if sg' then -(2 ^ (w' - 1) : Nat) else 0
      let hi : Int := if sg' then (2 ^ (w' - 1) : Nat) - 1 else (2 ^ w' : Nat) - 1
      let c := satInt v lo hi
      ⟨wrapInt w' c, flIf (c ≠ v) flSA⟩
    else ⟨wrapInt w' v, 0⟩

/-- The value of an SE element (R84): E, μ, sign, M, with m magnitude bits. -/
def seNum (m e mu : Nat) (s : Bool) (mg : Nat) : Num :=
  if e = 255 then .nan false
  else
    let p := scaled mg ((e : Int) - 127 - mu - (m - 1 : Nat))
    .fin (s && mg != 0) p.1 p.2
/-- An SE lane word (R86, R175): the value of the element it holds. -/
def seLane (m : Nat) (w : Nat) : Num :=
  let e := w / 2 ^ 24 % 256
  let mu := if m = 7 then w / 256 % 2 else w / 64 % 2
  seNum m e mu (w / 128 % 2 == 1) (w % 2 ^ m)
/-- The lane word of an element (R86). -/
def seWord (m e mu : Nat) (s : Bool) (mg : Nat) : Nat :=
  e * 2 ^ 24 + (if m = 7 then mu * 256 else mu * 64) + (if s then 128 else 0) + mg

/-- One block of QNT (R94): shared exponent, μ of each pair, sign and magnitude of each element, flags. -/
structure QBlock where
  e : Nat
  mu : List Nat
  s : List Bool
  mg : List Nat
  fl : Flags
  deriving DecidableEq, Repr

/-- |x| < 2^k for an exact magnitude. -/
def below (n d : Nat) (k : Int) : Bool := let p := scaled d k; decide (n * p.2 < p.1)
def qMu (xs : List (Nat × Nat)) (e : Int) : List Nat :=
  (List.range 24).map fun j =>
    let x := xs.getD (2 * j) (0, 1)
    let y := xs.getD (2 * j + 1) (0, 1)
    if below x.1 x.2 (e - 128) && below y.1 y.2 (e - 128) then 1 else 0
def qStep (e : Int) (mu m : Nat) : Int := e - 127 - mu - (m - 1 : Nat)
def qMag (xs : List (Nat × Nat)) (e : Int) (mu : List Nat) (m : Nat) : List Nat :=
  (List.range 48).map fun i =>
    let x := xs.getD i (0, 1)
    let q := scaled 1 (qStep e (mu.getD (i / 2) 0) m)
    rintFrac (x.1 * q.2) (x.2 * q.1) false .rne
/-- The conversion loop of R94: at most two rescales. -/
def qLoop (xs : List (Nat × Nat)) (m : Nat) : Nat → Nat → Nat × List Nat × List Nat × Bool
  | tries, e =>
    let mu := qMu xs e
    let mg := qMag xs e mu m
    if !(mg.any (· = 2 ^ m)) then (e, mu, mg, false)
    else match tries with
      | 0 => (e, mu, mg.map fun k => if k = 2 ^ m then 2 ^ m - 1 else k, true)
      | t + 1 =>
        if e = 254 then (e, mu, mg.map fun k => if k = 2 ^ m then 2 ^ m - 1 else k, true)
        else qLoop xs m t (e + 1)
def qntBlock (xs : List Num) (m : Nat) : QBlock :=
  if xs.any (fun x => x.isNan || x.isInf) then
    ⟨255, List.replicate 24 0, List.replicate 48 false, List.replicate 48 0, flNV⟩
  else
    let fr := xs.map fun x => match x with
      | .fin _ n d => (n, d)
      | _ => (0, 1)
    let e0 : Int := fr.foldl (fun a x => if x.1 = 0 then a else max a (ilog2 x.1 x.2 + 127)) 0
    let r := qLoop fr m 2 (min 254 e0.toNat)
    let ex := (List.range 48).all fun i =>
      let x := fr.getD i (0, 1)
      let q := scaled (r.2.2.1.getD i 0) (qStep r.1 (r.2.1.getD (i / 2) 0) m)
      q.1 * x.2 == x.1 * q.2
    ⟨r.1, r.2.1, (List.range 48).map fun i => (xs.getD i (.fin false 0 1)).neg? && r.2.2.1.getD i 0 != 0,
      r.2.2.1, flIf r.2.2.2 flSA ||| flIf (!ex) flNX⟩

end Sys2Proof.Machine
end

