-- ==== Sys2Proof/Syntax.lean ====
section
/-! DEFINITION. Syntax.lean: every row of the opcode table as one constructor of Instr.
The instructions of the classes V, U, M and C carry the fields of their words (R99 to R114); the
events carry what their agent or the outside world supplies. -/

namespace Sys2Proof

/-- Instruction class of a clause (R99). -/
inductive Cls where
  | v | u | m | c
  deriving DecidableEq, Repr

/-- The two PC slots of a wave (R30, R31). -/
inductive SlotId where
  | A | B
  deriving DecidableEq, Repr, Inhabited

/-- V-class operand codes that may be read (R113). -/
inductive VSrc where
  | v (n : Fin 160)
  | o (n : Fin 8)
  | b0
  | b1
  | qz
  | qp
  | const (n : Fin 14)
  | lane
  | imm (w : Word)
  | s (n : Fin 64)
  deriving DecidableEq, Repr

/-- V-class operand codes that may be written (R113). -/
inductive VDst where
  | v (n : Fin 160)
  | o (n : Fin 8)
  | qa
  | qg
  | ql
  | qn
  deriving DecidableEq, Repr

/-- M-class operands that are read: V codes without b0, b1 and the queue codes (R113). -/
inductive MOpd where
  | v (n : Fin 160)
  | o (n : Fin 8)
  | const (n : Fin 14)
  | lane
  | imm (w : Word)
  | s (n : Fin 64)
  deriving DecidableEq, Repr

/-- Destinations of loads (R192). -/
inductive MDst where
  | v (n : Fin 160)
  | o (n : Fin 8)
  deriving DecidableEq, Repr

/-- U-class operand codes that may be read (R114). -/
inductive USrc where
  | s (n : BitVec 7)
  | k (n : BitVec 3)
  | lc (n : BitVec 2)
  | rb
  | special (n : BitVec 4)
  | const (n : Fin 14)
  | imm (w : Word)
  deriving DecidableEq, Repr

/-- U-class operand codes that may be written (R114). -/
inductive UDst where
  | s (n : BitVec 7)
  | k (n : BitVec 3)
  deriving DecidableEq, Repr

/-- Format codes 0 to 12 (R80). -/
inductive Fmt where
  | fp32 | fp16 | bf16 | e4m3 | e5m2 | se8 | se5 | se3 | i8 | u8 | i16 | i32 | u32
  deriving DecidableEq, Repr

/-- The shared-exponent formats of QNT and DQNT (R84, R174). -/
inductive SeFmt where
  | se8 | se5 | se3
  deriving DecidableEq, Repr

/-- A guarded V instruction of one source (R105). -/
structure V1 where
  g : Bool
  d : VDst
  a : VSrc
  deriving DecidableEq, Repr

/-- A guarded V instruction of two sources (R105). -/
structure V2 where
  g : Bool
  d : VDst
  a : VSrc
  b : VSrc
  deriving DecidableEq, Repr

/-- A guarded V instruction of two sources whose result is a predicate (R105, R162). -/
structure P2 where
  g : Bool
  pd : BitVec 5
  a : VSrc
  b : VSrc
  deriving DecidableEq, Repr

/-- A guarded U instruction of one source (R105). -/
structure U1 where
  g : Bool
  d : UDst
  a : USrc
  deriving DecidableEq, Repr

/-- A guarded U instruction of two sources (R105). -/
structure U2 where
  g : Bool
  d : UDst
  a : USrc
  b : USrc
  deriving DecidableEq, Repr

/-- Negation and absolute value of A and B (R107, R164). -/
structure NMod where
  na : Bool
  nb : Bool
  absa : Bool
  absb : Bool
  deriving DecidableEq, Repr

/-- Rounding, saturation and sign fields of the float instructions (R107). -/
structure FMod where
  rnd : BitVec 2
  sat : Bool
  n : NMod
  deriving DecidableEq, Repr

/-- Selectors of SREAD (R166). -/
inductive Sel where
  | flags
  | flagsc
  | sendst
  | act (n : Fin 3)
  | special (n : BitVec 4)
  | timehi
  deriving DecidableEq, Repr

/-- The six forms of VOTE, with their destinations (R185). -/
inductive VoteOp where
  | any (pd : BitVec 5)
  | all (pd : BitVec 5)
  | eq (pd : BitVec 5)
  | ballot (n : Fin 3) (d : VDst)
  deriving DecidableEq, Repr

/-- Base, index, shift and offset of an M address (R109). Index constant 0 stands for no index. -/
structure MAddr where
  base : BitVec 7
  x : MOpd
  sh : BitVec 3
  ofs : BitVec 16
  deriving DecidableEq, Repr

/-- The D field of ATOM and ATOMP: returning with its lookahead, or not returning (R199). -/
inductive AtomD where
  | ret (d : MDst) (la : BitVec 4)
  | const (n : Fin 14)
  | imm (w : Word)
  | s (n : Fin 64)
  deriving DecidableEq, Repr

/-- The four status words of QSTAT (R215). -/
inductive QStat where
  | ring
  | done
  | batch (s : BitVec 7)
  | feed
  deriving DecidableEq, Repr

/-- Command id, predecessors, accumulator mode and slot of a matrix command (R218). -/
structure MMod where
  id : BitVec 8
  p0 : BitVec 8
  p1 : BitVec 8
  am : Fin 3
  slot : BitVec 6
  deriving DecidableEq, Repr

/-- Condition of BRA (R111). -/
inductive BCond where
  | k (n : BitVec 3)
  | always
  deriving DecidableEq, Repr

/-- CX fields of LOOP and LOOPI (R112). -/
structure LoopCx where
  nb : Fin 9
  sm1 : BitVec 3
  fin : BitVec 25
  deriving DecidableEq, Repr

/-- The monitor readings that reach a threshold (R396, R397). -/
inductive MonKind where
  | temp (n : Fin 64)
  | droop (n : Fin 32)
  | power
  | softError
  deriving DecidableEq, Repr

/-- A flit as it travels on a link (R383): payload words, sequence, kind, ACK field and whether its CRC is good at the
receiver. -/
structure Flit where
  payload : List Byte
  seq : BitVec 10
  kind : BitVec 6
  ack : BitVec 10
  nak : Bool
  good : Bool
  /-- Where the flit is the first of its group of 8: the group's cipher tag verifies (R364). -/
  tag : Bool
  deriving DecidableEq, Repr

/-- What an IDE_KM message keys (R364): a selective stream of the PCIe port for a function, its link stream, or a direction
of the CXL port. -/
inductive IdeUse where
  | selective (f stream : Nat)
  | link
  | cxl (out : Bool)
  deriving DecidableEq, Repr

/-- What an IEEE 1588 message brings: the clock identity of the grandmaster its sender follows, and the offset measured
over the link, in ns (R385). -/
structure PtpNote where
  master : DWord
  offset : Int
  deriving DecidableEq, Repr

/-- What the module at the other end settles when a link is trained: the key of the SPDM session between the modules
(R364) and the clock identity of the grandmaster it follows (R385). -/
structure LinkTerms where
  key : BitVec 256
  master : DWord
  deriving DecidableEq, Repr

/-- Every row of the opcode table. -/
inductive Instr where
  -- V: moves, selects and predicates (R165 to R167)
  | mov (f : V1)
  | sel (f : V2) (nc : Bool) (p : BitVec 5)
  | sread (g : Bool) (d : VDst) (k : Sel)
  | plop (g : Bool) (pd pa pb : BitVec 5) (op : BitVec 3)
  | pset (g : Bool) (pd : BitVec 5) (a : VSrc)
  | pmov (g : Bool) (d : VDst)
  | pmovPreds (g : Bool) (a : VSrc)
  -- V: FP32 arithmetic (R168, R169)
  | fadd (f : V2) (m : FMod)
  | fsub (f : V2) (m : FMod)
  | fmul (f : V2) (m : FMod)
  | ffma (f : V2) (m : FMod) (nc : Bool)
  | fma3 (f : V2) (m : FMod) (nc : Bool) (c : VSrc)
  | fmin (f : V2) (n : NMod)
  | fmax (f : V2) (n : NMod)
  | fcmp (f : P2) (cond : BitVec 3) (n : NMod)
  | frnd (f : V1) (rnd : BitVec 2) (na absa : Bool)
  | ffract (f : V1) (na absa : Bool)
  | fscale (f : V2) (rnd : BitVec 2) (sat na absa : Bool)
  -- V: special functions (R170)
  | frcp (f : V1) (na absa : Bool)
  | frsq (f : V1) (na absa : Bool)
  | fsqrt (f : V1) (na absa : Bool)
  | fexp2 (f : V1) (na absa : Bool)
  | flog2 (f : V1) (na absa : Bool)
  | fsin (f : V1) (na absa : Bool)
  | fcos (f : V1) (na absa : Bool)
  -- V: packed FP16 and BF16 (R171)
  | hadd2 (f : V2) (m : FMod)
  | hsub2 (f : V2) (m : FMod)
  | hmul2 (f : V2) (m : FMod)
  | hfma2 (f : V2) (m : FMod) (nc : Bool)
  | hmin2 (f : V2) (n : NMod)
  | hmax2 (f : V2) (n : NMod)
  | hcmp2 (f : V2) (cond : BitVec 3) (n : NMod)
  | badd2 (f : V2) (m : FMod)
  | bmul2 (f : V2) (m : FMod)
  | bfma2 (f : V2) (m : FMod) (nc : Bool)
  -- V: dot products (R172), conversion and quantisation (R173 to R175)
  | dot4i (f : V2) (sat : Bool) (c : VSrc)
  | dot4u (f : V2) (sat : Bool) (c : VSrc)
  | dot2h (f : V2) (m : FMod) (nc : Bool) (c : VSrc)
  | dot2b (f : V2) (m : FMod) (nc : Bool) (c : VSrc)
  | cvt (f : V1) (rnd : BitVec 2) (sat : Bool) (fmt src : Fmt)
  | qnt (f : V1) (fmt : SeFmt)
  | dqnt (f : V1) (fmt : SeFmt)
  -- V: integer arithmetic (R176 to R178)
  | iadd (f : V2)
  | isub (f : V2)
  | iaddx (f : V2) (op : BitVec 2)
  | imul (f : V2)
  | imulh (f : V2)
  | umulh (f : V2)
  | imad (f : V2) (sat u : Bool)
  | imad3 (f : V2) (sat u : Bool) (c : VSrc)
  | imin (f : V2)
  | imax (f : V2)
  | umin (f : V2)
  | umax (f : V2)
  | iabs (f : V1)
  | iadds (f : V2) (u : Bool)
  | isubs (f : V2) (u : Bool)
  | icmp (f : P2) (cond : Fin 6)
  | ucmp (f : P2) (cond : Fin 6)
  -- V: logic and bits (R179 to R181)
  | and (f : V2)
  | or (f : V2)
  | xor (f : V2)
  | ltab (f : V2) (tab : BitVec 8) (c : VSrc)
  | shl (f : V2)
  | shr (f : V2)
  | sar (f : V2)
  | rot (f : V2)
  | bfe (f : V2) (sx : Bool)
  | bfi (f : V2) (c : VSrc)
  | popc (f : V1)
  | clz (f : V1)
  | brev (f : V1)
  -- V: lane exchange and collectives (R182 to R186)
  | shfl (f : V2) (seg : Fin 9)
  | shflx (f : V2) (seg : Fin 9)
  | shflup (f : V2) (seg : Fin 9)
  | shfldn (f : V2) (seg : Fin 9)
  | vote (g : Bool) (op : VoteOp) (pa : BitVec 5)
  | rdlane (f : V2)
  | wrlane (f : V2)
  | red (f : V1) (seg : Fin 9) (op : Fin 11) (rnd : BitVec 2)
  | scan (f : V1) (seg : Fin 9) (op : Fin 11) (rnd : BitVec 2)
  -- U (R154 to R159)
  | smov (f : U1)
  | ssel (f : U2) (nc : Bool) (k : BitVec 3)
  | klop (f : U2) (op : BitVec 3)
  | sadd (f : U2)
  | ssub (f : U2)
  | smul (f : U2)
  | smulh (f : U2) (u : Bool)
  | smad (f : U2) (c : USrc)
  | smin (f : U2) (u : Bool)
  | smax (f : U2) (u : Bool)
  | scmp (f : U2) (cond : Fin 10)
  | slea (f : U2) (sh : BitVec 4)
  | sand (f : U2)
  | sor (f : U2)
  | sxor (f : U2)
  | sshl (f : U2)
  | sshr (f : U2)
  | ssar (f : U2)
  | srot (f : U2)
  | sbfe (f : U2) (sx : Bool)
  | sbfi (f : U2) (c : USrc)
  | spopc (f : U1)
  | sclz (f : U1)
  | sfadd (f : U2) (m : FMod)
  | sfmul (f : U2) (m : FMod)
  | sffma (f : U2) (m : FMod) (nc : Bool) (c : USrc)
  | sfcmp (f : U2) (cond : BitVec 3) (n : NMod)
  | scvt (f : U1) (rnd : BitVec 2) (sat : Bool) (fmt src : Fmt)
  -- M: loads, stores, prefetch, atomics, fences (R192 to R201)
  | ld (g : Bool) (d : MDst) (m : MAddr) (la : BitVec 4) (sz : Fin 7) (scope : Fin 6) (pol : Fin 5)
  | st (g : Bool) (d : MOpd) (m : MAddr) (sz : Fin 5) (scope : Fin 6) (pol : Fin 5)
  | sld (g : Bool) (d base : BitVec 7) (ofs : BitVec 16) (la : BitVec 4) (sz : Fin 7) (scope : Fin 6) (pol : Fin 5)
  | sst (g : Bool) (d base : BitVec 7) (ofs : BitVec 16) (sz : Fin 5) (scope : Fin 6) (pol : Fin 5)
  | ldp (g : Bool) (d : MDst) (m : MAddr) (la : BitVec 4) (sz : Fin 7) (acq : Bool)
  | stp (g : Bool) (d : MOpd) (m : MAddr) (sz : Fin 5) (rel : Bool)
  | pref (g : Bool) (m : MAddr) (lvl : Fin 3) (pol : Fin 5)
  | atom (g : Bool) (op : BitVec 4) (d : AtomD) (m : MAddr) (scope : Fin 6)
  | atomp (g : Bool) (op : BitVec 4) (d : AtomD) (m : MAddr)
  | fenceAcq (scope : Fin 6)
  | fenceRel (scope : Fin 6)
  | fenceAr (scope : Fin 6)
  -- M: textures (R202 to R206)
  | tex (g : Bool) (mode : Fin 3) (d x : Fin 160) (base : BitVec 7) (ofs : BitVec 16) (la : BitVec 4) (pol : Fin 5)
  | tld (g : Bool) (d x : Fin 160) (base : BitVec 7) (ofs : BitVec 16) (la : BitVec 4) (pol : Fin 5)
  | tq (g : Bool) (d : Fin 160) (x : Option (Fin 160)) (base : BitVec 7) (ofs : BitVec 16) (la : BitVec 4) (pol : Fin 5)
  -- M: copies and barriers (R207 to R217)
  | cpy (base : BitVec 7) (pol : Fin 5)
  | cpyb (base : BitVec 7)
  | cpyw (base : BitVec 7)
  | qstat (k : QStat) (d : Fin 160)
  | bari (e : MOpd) (base : BitVec 7) (ofs : BitVec 16)
  | bara (c b : MOpd) (base : BitVec 7) (ofs : BitVec 16)
  | barw (ph : MOpd) (base : BitVec 7) (ofs : BitVec 16)
  | bart (pd : BitVec 5) (ph : MOpd) (base : BitVec 7) (ofs : BitVec 16)
  -- M: matrix commands (R218 to R226)
  | mmaMac (m : MMod) (x : Fin 64)
  | mmaZero (m : MMod)
  | mmaDrain (m : MMod)
  | mldb (m : MMod) (x : Fin 64)
  | mrel (m : MMod)
  | mwait (id : BitVec 8)
  | mstat (slot : Option (BitVec 8)) (d : Fin 160)
  -- M: eyelets (R227 to R229)
  | sendv (g : Bool) (pd : BitVec 5) (cap : BitVec 7) (d : MOpd)
  | mkcap (d : BitVec 7) (reg : BitVec 9)
  | dropcap (scalar : Bool)
  | arm (reg : BitVec 9)
  -- M: rendering feed (R230 to R234)
  | pemit (g : Bool) (n : BitVec 4) (d : MOpd) (seq : BitVec 7)
  | segl (g move : Bool) (d : Fin 160)
  | segq (g : Bool) (d : Fin 160)
  | segc (g : Bool) (d : Fin 160)
  | pathend (eo : Bool) (seq tgt : BitVec 7)
  | splat (g : Bool) (n : BitVec 4) (d : MOpd) (seq : BitVec 7)
  | ordb
  | orde
  | blnd (g : Bool) (mode : Fin 3) (d : Fin 160) (tgt : BitVec 7)
  -- C: control, loops, pool, launch, system (R129 to R153)
  | nop
  | bra (cond : BCond) (sense : Bool) (ofs : BitVec 19)
  | brp (p : BitVec 5) (sense : Bool) (ofs : BitVec 19) (join : BitVec 24)
  | join
  | jmpi (s : BitVec 7)
  | call (ofs : BitVec 19)
  | calli (s : BitVec 7)
  | ret
  | exit
  | yield
  | sleep (n : BitVec 20)
  | loop (s : BitVec 7) (cx : LoopCx)
  | loopi (c : BitVec 25) (cx : LoopCx)
  | lbrk (p : BitVec 5) (sense : Bool)
  | regn (live : BitVec 20)
  | claim (n : BitVec 8)
  | release (n : BitVec 8)
  | launch (a d : BitVec 7)
  | tbfull (form : Bool) (s : BitVec 7) (idx : BitVec 3)
  | tbempty (form : Bool) (s : BitVec 7) (idx : BitVec 3)
  | trap (code : BitVec 16)
  | sret (skip : Bool)
  | rdsr (d : BitVec 7) (idx : BitVec 12)
  | wrsr (s : BitVec 7) (idx : BitVec 12)
  | tlbi (s : BitVec 7)
  | tlbiAll
  | mapp (d a t : BitVec 7)
  | cflush (s : BitVec 7)
  | cflushL1
  | cflushMem (s : BitVec 7)
  -- Events of a wave (w: its place die * 3840 + core * 96 + slot)
  | clauseFetch (w : Nat) (x : SlotId)
  | headerWaitEnd (w : Nat) (x : SlotId)
  | backEdge (w : Nat) (x : SlotId)
  | waveRetire (w : Nat)
  | loadLanding (w id : Nat) (lanes : Mask)
  | storeLeavesQueue (w : Nat)
  | storeAck (core ix : Nat)
  | atomicPerform (w id : Nat) (lanes : Mask)
  | sendArrival (w : Nat)
  | sendOutcome (w : Nat)
  | sleepTimeout (w : Nat) (x : SlotId)
  -- Events of the core's engines (core: die * 40 + core)
  | copyJobStart (core id : Nat)
  | copyLanding (core id ofs len : Nat) (late : Bool)
  | copyJobComplete (core id : Nat)
  | matrixCommandStart (core uid : Nat)
  | matrixCommandRetire (core uid : Nat)
  | matrixWatchdog (core : Nat)
  -- Pre-emption (cl: the key of a cluster or of its image)
  | sectionTimeout (w : Nat)
  | preemptRequest (cl : Nat)
  | switchOutCapture (w : Nat)
  | clusterRestore (cl : Nat)
  -- Translation and content addressing (page: 4 KiB intermediate page number)
  | pageReply (fn : Nat)
  | pageMigration (ctx page : Nat)
  | pinExpiry (ctx page : Nat)
  | pagePromotion (ctx page : Nat)
  | pageHash (ctx page : Nat)
  | daymarkMerge (ctx page : Nat)
  -- Scheduling
  | taskDispatch (t : Nat)
  | lightPeriod
  | batchSend (t die : Nat)
  | buoyReport (die : Nat)
  | blockPlacement (die ix : Nat)
  | carveChangeStart (die : Nat)
  | carveChange (core : Nat)
  | donationRequest (die peer : Nat)
  | donationAnswer (die peer : Nat)
  | gangReport (gang : Nat) (remote : List Nat)
  | gangStart (gang : Nat)
  | l2Resend (ix : Nat)
  | taskEnd (t : Nat)
  -- Rendering and engine jobs
  | pixelWaveLaunch (t die core : Nat)
  | pathFill (ix : Nat)
  | blendCommit (ix : Nat)
  | lanternComposite (ix tx ty : Nat)
  | clearJob (t j : Nat)
  | splatJob (t j : Nat)
  | copyClassJob (t j : Nat)
  | encodeJob (t j : Nat)
  -- Host commands: the module takes the command at the head of the ring of function f
  | hostLaunch (f : Nat)
  | frame (f : Nat)
  | seal (f : Nat)
  | fork (f : Nat)
  | migrate (f : Nat)
  | snapshot (f : Nat)
  | snapshotHostCopy (ix : Nat)
  | restore (f : Nat)
  | s2inv (f : Nat)
  | create (f : Nat)
  | destroy (f : Nat)
  | grant (f : Nat)
  | pooladd (f : Nat)
  -- Trust
  | ringKeyRotation (f : Nat) (secured : Bool) (ix : Word)
  | getMeasurements (f block : Nat)
  | challenge (nonce : BitVec 256)
  | lockInterfaceRequest (f : Nat)
  | tdispUnlock (f : Nat)
  | tdispError (f : Nat)
  | ideKm (use : IdeUse) (key : BitVec 256)
  | logKeyRequest (ctx : Nat)
  | lamplighterWalk (f : Nat)
  | tournSwitch
  | thermalTrip (die : Nat)
  | tripClear (die : Nat)
  | monitorEvent (die : Nat) (k : MonKind) (v : BitVec 16)
  -- Host register writes and accesses
  | pwrreq (v : Word)
  | tourn (v : Word)
  | ttrip (v : Word)
  | cmdtail (f : Nat) (v : Word)
  | rpqtail (f : Nat) (v : Word)
  | prqhead (f : Nat) (v : Word)
  | registerWrite (f ofs width : Nat) (v : DWord)
  | hostAccess (pa : Nat) (data : List Byte) (len : Nat)
  -- Links
  | flitSend (link : Nat) (payload : List Byte) (kind : BitVec 6)
  | flitReceive (link : Nat) (fl : Flit)
  | nak (link : Nat) (n : BitVec 10)
  | resendTimeout (link : Nat)
  | ptpMessage (link : Nat) (note : PtpNote)
  -- Snapshots, die loss, start-up
  | snapshotStep (die : Nat)
  | dieLost (die : Nat)
  | coldReset
  | trep (w : Nat) (v : DWord)
  | startInterfaceRequest (f : Nat)
  | linkTraining (link : Nat) (terms : LinkTerms)
  | boostThrottle (die mhz : Nat)
  | snapshotStepComplete (die : Nat)
  | spdmSecuredSession (both : Bool)
  deriving DecidableEq, Repr

end Sys2Proof
end

