-- ==== Sys2Proof/Decode.lean ====
section
/-! DEFINITION. Decode.lean: clause headers, instruction words and extension words (R98 to R117),
the decoder with its rejections in the order of R118, the encoder, and decodeTableWord. -/

namespace Sys2Proof

/-- The kernel-header declaration an instruction group requires (R118, check 3). -/
inductive Need where
  | none | matrix | ordered | mailbox
  deriving DecidableEq, Repr

/-- Why a word is no instruction: unassigned opcode (R118, check 1), a broken field (check 2), a faulting
operand code (check 5, after the declaration it needs by check 3), or missing extension words. -/
inductive Reject where
  | unassigned
  | illegal
  | operand (need : Need)
  | truncated
  deriving DecidableEq, Repr

abbrev Dec := Except Reject Instr

/-- The field of len bits at bit lo. -/
def field (w : BitVec n) (lo len : Nat) : BitVec len := BitVec.ofNat len (w.toNat / 2 ^ lo)
/-- The bit at position lo. -/
def bit (w : BitVec n) (lo : Nat) : Bool := w.toNat / 2 ^ lo % 2 == 1
/-- A bit as a number. -/
def bnat (b : Bool) : Nat := if b then 1 else 0

/-- A V or U word (R105). -/
structure VW where
  op : BitVec 7
  g : Bool
  d : BitVec 8
  a : BitVec 8
  b : BitVec 8
  deriving DecidableEq, Repr

/-- The modifier word VX (R107). -/
structure VXW where
  rnd : BitVec 2 := 0
  sat : Bool := false
  na : Bool := false
  nb : Bool := false
  nc : Bool := false
  absa : Bool := false
  absb : Bool := false
  fmt : BitVec 4 := 0
  sub : BitVec 4 := 0
  c : BitVec 8 := 0
  low : BitVec 8 := 0
  deriving DecidableEq, Repr

/-- The VX fields an instruction names. -/
structure VXUse where
  rnd : Bool := false
  sat : Bool := false
  na : Bool := false
  nb : Bool := false
  nc : Bool := false
  absa : Bool := false
  absb : Bool := false
  fmt : Bool := false
  sub : Bool := false
  c : Bool := false

/-- An M word (R109). -/
structure MW where
  op : BitVec 7
  g : Bool
  d : BitVec 8
  x : BitVec 8
  la : BitVec 4
  sz : BitVec 4
  deriving DecidableEq, Repr

/-- The MX word (R109). -/
structure MXW where
  base : BitVec 7 := 0
  sh : BitVec 3 := 0
  scope : BitVec 3 := 0
  pol : BitVec 3 := 0
  ofs : BitVec 16 := 0
  deriving DecidableEq, Repr

/-- A clause header (R99). -/
structure Header where
  n : BitVec 4
  cls : BitVec 2
  xw : BitVec 4
  lw : BitVec 3
  sw : BitVec 3
  yd : Bool
  pg : BitVec 5
  ps : Bool
  low : BitVec 9
  deriving DecidableEq, Repr

def packV (w : VW) : Word :=
  BitVec.ofNat 32 (w.op.toNat * 33554432 + bnat w.g * 16777216 + w.d.toNat * 65536 + w.a.toNat * 256 + w.b.toNat)
def unpackV (w : Word) : VW := ⟨field w 25 7, bit w 24, field w 16 8, field w 8 8, field w 0 8⟩

def packVX (x : VXW) : Word :=
  BitVec.ofNat 32 (x.rnd.toNat * 1073741824 + bnat x.sat * 536870912 + bnat x.na * 268435456
    + bnat x.nb * 134217728 + bnat x.nc * 67108864 + bnat x.absa * 33554432 + bnat x.absb * 16777216
    + x.fmt.toNat * 1048576 + x.sub.toNat * 65536 + x.c.toNat * 256 + x.low.toNat)
def unpackVX (w : Word) : VXW :=
  ⟨field w 30 2, bit w 29, bit w 28, bit w 27, bit w 26, bit w 25, bit w 24, field w 20 4, field w 16 4,
    field w 8 8, field w 0 8⟩

def packM (w : MW) : Word :=
  BitVec.ofNat 32 (w.op.toNat * 33554432 + bnat w.g * 16777216 + w.d.toNat * 65536 + w.x.toNat * 256
    + w.la.toNat * 16 + w.sz.toNat)
def unpackM (w : Word) : MW := ⟨field w 25 7, bit w 24, field w 16 8, field w 8 8, field w 4 4, field w 0 4⟩

def packMX (x : MXW) : Word :=
  BitVec.ofNat 32 (x.base.toNat * 33554432 + x.sh.toNat * 4194304 + x.scope.toNat * 524288
    + x.pol.toNat * 65536 + x.ofs.toNat)
def unpackMX (w : Word) : MXW := ⟨field w 25 7, field w 22 3, field w 19 3, field w 16 3, field w 0 16⟩

/-- A C word: OP and the fields below it (R111, R129). -/
def packC (op : Nat) (f : BitVec 25) : Word := BitVec.ofNat 32 (op * 33554432 + f.toNat)
def opOf (w : Word) : BitVec 7 := field w 25 7
def restOf (w : Word) : BitVec 25 := field w 0 25

def packHeader (h : Header) : Word :=
  BitVec.ofNat 32 (h.n.toNat * 268435456 + h.cls.toNat * 67108864 + h.xw.toNat * 4194304 + h.lw.toNat * 524288
    + h.sw.toNat * 65536 + bnat h.yd * 32768 + h.pg.toNat * 1024 + bnat h.ps * 512 + h.low.toNat)
def unpackHeader (w : Word) : Header :=
  ⟨field w 28 4, field w 26 2, field w 22 4, field w 19 3, field w 16 3, bit w 15, field w 10 5, bit w 9, field w 0 9⟩

/-- The class a header's CLS field names (R99). -/
def Cls.ofCode (c : BitVec 2) : Cls :=
  if c = 0 then .v else if c = 1 then .u else if c = 2 then .m else .c
def Cls.code : Cls → BitVec 2
  | .v => 0 | .u => 1 | .m => 2 | .c => 3

def VXW.fmod (x : VXW) : FMod := ⟨x.rnd, x.sat, ⟨x.na, x.nb, x.absa, x.absb⟩⟩
def VXW.nmod (x : VXW) : NMod := ⟨x.na, x.nb, x.absa, x.absb⟩

/-- Every field the instruction does not name is zero (R107). -/
def VXW.only (x : VXW) (u : VXUse) : Bool :=
  (u.rnd || x.rnd == 0) && (u.sat || !x.sat) && (u.na || !x.na) && (u.nb || !x.nb) && (u.nc || !x.nc)
    && (u.absa || !x.absa) && (u.absb || !x.absb) && (u.fmt || x.fmt == 0) && (u.sub || x.sub == 0)
    && (u.c || x.c == 0) && x.low == 0

/-- Check 2 of R118: a broken field raises 0x01 before any operand is looked at. -/
def chk (b : Bool) (k : Dec) : Dec := if b then k else .error .illegal
/-- Check 5 of R118: a faulting operand code. -/
def opd (nd : Need) (o : Option α) (k : α → Dec) : Dec :=
  match o with
  | some a => k a
  | none => .error (.operand nd)

/-- A number below a bound. -/
def finOf (k n : Nat) : Option (Fin k) := if h : n < k then some ⟨n, h⟩ else none
def fin6 (n : Nat) : Option (Fin 6) := finOf 6 n
def fin9 (n : Nat) : Option (Fin 9) := finOf 9 n
def fin10 (n : Nat) : Option (Fin 10) := finOf 10 n
def fin11 (n : Nat) : Option (Fin 11) := finOf 11 n

/-- V source codes (R113); imm is the immediate word that stands for 0xBF. -/
def vsrc (c : BitVec 8) (imm : Word) : Option VSrc :=
  let n := c.toNat
  if h : n < 160 then some (.v ⟨n, h⟩)
  else if h : n - 160 < 8 then some (.o ⟨n - 160, h⟩)
  else if n = 168 then some .b0
  else if n = 169 then some .b1
  else if n = 171 then some .qz
  else if n = 175 then some .qp
  else if n < 176 then none
  else if h : n - 176 < 14 then some (.const ⟨n - 176, h⟩)
  else if n = 190 then some .lane
  else if n = 191 then some (.imm imm)
  else if h : n - 192 < 64 then some (.s ⟨n - 192, h⟩)
  else none
def VSrc.code : VSrc → BitVec 8
  | .v n => BitVec.ofNat 8 n | .o n => BitVec.ofNat 8 (160 + n) | .b0 => 168 | .b1 => 169 | .qz => 171
  | .qp => 175 | .const n => BitVec.ofNat 8 (176 + n) | .lane => 190 | .imm _ => 191
  | .s n => BitVec.ofNat 8 (192 + n)
def VSrc.ext : VSrc → List Word
  | .imm w => [w]
  | _ => []

/-- V destination codes (R113). -/
def vdst (c : BitVec 8) : Option VDst :=
  let n := c.toNat
  if h : n < 160 then some (.v ⟨n, h⟩)
  else if h : n - 160 < 8 then some (.o ⟨n - 160, h⟩)
  else if n = 170 then some .qa
  else if n = 172 then some .qg
  else if n = 173 then some .ql
  else if n = 174 then some .qn
  else none
def VDst.code : VDst → BitVec 8
  | .v n => BitVec.ofNat 8 n | .o n => BitVec.ofNat 8 (160 + n) | .qa => 170 | .qg => 172 | .ql => 173 | .qn => 174

/-- The VX C field: an immediate raises 0x03 (R107). -/
def vsrcC (c : BitVec 8) : Option VSrc := if c.toNat = 191 then none else vsrc c 0

/-- M operands that are read (R113, R192). -/
def mopd (c : BitVec 8) (imm : Word) : Option MOpd :=
  let n := c.toNat
  if h : n < 160 then some (.v ⟨n, h⟩)
  else if h : n - 160 < 8 then some (.o ⟨n - 160, h⟩)
  else if n < 176 then none
  else if h : n - 176 < 14 then some (.const ⟨n - 176, h⟩)
  else if n = 190 then some .lane
  else if n = 191 then some (.imm imm)
  else if h : n - 192 < 64 then some (.s ⟨n - 192, h⟩)
  else none
def MOpd.code : MOpd → BitVec 8
  | .v n => BitVec.ofNat 8 n | .o n => BitVec.ofNat 8 (160 + n) | .const n => BitVec.ofNat 8 (176 + n)
  | .lane => 190 | .imm _ => 191 | .s n => BitVec.ofNat 8 (192 + n)
def MOpd.ext : MOpd → List Word
  | .imm w => [w]
  | _ => []

/-- Load destinations: v or o registers (R113, R192). -/
def mdst (c : BitVec 8) : Option MDst :=
  let n := c.toNat
  if h : n < 160 then some (.v ⟨n, h⟩)
  else if h : n - 160 < 8 then some (.o ⟨n - 160, h⟩)
  else none
def MDst.code : MDst → BitVec 8
  | .v n => BitVec.ofNat 8 n | .o n => BitVec.ofNat 8 (160 + n)

/-- A field that names a v register. -/
def vreg (c : BitVec 8) : Option (Fin 160) := finOf 160 c.toNat
def vcode (n : Fin 160) : BitVec 8 := BitVec.ofNat 8 n
/-- A V code 0xC0 to 0xFF names s0 to s63. -/
def sreg6 (c : BitVec 8) : Option (Fin 64) := if c.toNat < 192 then none else finOf 64 (c.toNat - 192)
def scode (n : Fin 64) : BitVec 8 := BitVec.ofNat 8 (192 + n)

/-- U source codes (R114). -/
def usrc (c : BitVec 8) (imm : Word) : Option USrc :=
  let n := c.toNat
  if n < 128 then some (.s (c.setWidth 7))
  else if n < 136 then some (.k (c.setWidth 3))
  else if n < 140 then some (.lc (c.setWidth 2))
  else if n = 140 then some .rb
  else if n < 144 then none
  else if n < 160 then some (.special (c.setWidth 4))
  else if n < 176 then none
  else if h : n - 176 < 14 then some (.const ⟨n - 176, h⟩)
  else if n = 191 then some (.imm imm)
  else none
def USrc.code : USrc → BitVec 8
  | .s n => n.setWidth 8 | .k n => BitVec.ofNat 8 (128 + n.toNat) | .lc n => BitVec.ofNat 8 (136 + n.toNat)
  | .rb => 140 | .special n => BitVec.ofNat 8 (144 + n.toNat) | .const n => BitVec.ofNat 8 (176 + n) | .imm _ => 191
def USrc.ext : USrc → List Word
  | .imm w => [w]
  | _ => []
def udst (c : BitVec 8) : Option UDst :=
  let n := c.toNat
  if n < 128 then some (.s (c.setWidth 7))
  else if n < 136 then some (.k (c.setWidth 3))
  else none
def UDst.code : UDst → BitVec 8
  | .s n => n.setWidth 8 | .k n => BitVec.ofNat 8 (128 + n.toNat)
def usrcC (c : BitVec 8) : Option USrc := if c.toNat = 191 then none else usrc c 0
/-- The C field of SSEL must name k0 to k7 (R155). -/
def kname (c : BitVec 8) : Option (BitVec 3) :=
  if 128 ≤ c.toNat ∧ c.toNat < 136 then some (c.setWidth 3) else none

/-- Format codes (R80). -/
def fmtOf : Nat → Option Fmt
  | 0 => some .fp32 | 1 => some .fp16 | 2 => some .bf16 | 3 => some .e4m3 | 4 => some .e5m2 | 5 => some .se8
  | 6 => some .se5 | 7 => some .se3 | 8 => some .i8 | 9 => some .u8 | 10 => some .i16 | 11 => some .i32
  | 12 => some .u32 | _ => none
def Fmt.code : Fmt → BitVec 4
  | .fp32 => 0 | .fp16 => 1 | .bf16 => 2 | .e4m3 => 3 | .e5m2 => 4 | .se8 => 5 | .se5 => 6 | .se3 => 7
  | .i8 => 8 | .u8 => 9 | .i16 => 10 | .i32 => 11 | .u32 => 12
def isSe (n : Nat) : Bool := n == 5 || n == 6 || n == 7
/-- The codes SCVT allows (R159). -/
def isScalarFmt (n : Nat) : Bool := n == 0 || n == 1 || n == 2 || n == 11 || n == 12
def seOf : Nat → Option SeFmt
  | 5 => some .se8 | 6 => some .se5 | 7 => some .se3 | _ => none
def SeFmt.code : SeFmt → BitVec 4
  | .se8 => 5 | .se5 => 6 | .se3 => 7
/-- FMT of the U float instructions: 0, or a reserved code that raises 0x03 (R158). -/
def fmtZero (c : BitVec 4) : Option Unit := if c = 0 then some () else none

/-- SREAD selectors (R166). -/
def selOf (c : BitVec 8) : Option Sel :=
  match c.toNat with
  | 0 => some .flags | 1 => some .flagsc | 2 => some .sendst
  | 4 => some (.act 0) | 5 => some (.act 1) | 6 => some (.act 2)
  | 160 => some .timehi
  | n => if 144 ≤ n ∧ n < 160 then some (.special (c.setWidth 4)) else none
def Sel.code : Sel → BitVec 8
  | .flags => 0 | .flagsc => 1 | .sendst => 2 | .act n => BitVec.ofNat 8 (4 + n)
  | .special n => BitVec.ofNat 8 (144 + n.toNat) | .timehi => 160

/-- Push codes of a D field. -/
def isPush (c : BitVec 8) : Bool := c.toNat == 170 || c.toNat == 172 || c.toNat == 173 || c.toNat == 174
/-- A D field that names a predicate: [7:5] zero, else 0x01 (R105), but a push code there raises 0x03 (R113). -/
def pdst (c : BitVec 8) (k : BitVec 5 → Dec) : Dec :=
  if isPush c then .error (.operand .none) else chk (decide (c < 32)) (k (c.setWidth 5))
/-- A field that names a predicate (R105). -/
def pidx (c : BitVec 8) (k : BitVec 5 → Dec) : Dec := chk (decide (c < 32)) (k (c.setWidth 5))

def decV1 (w : VW) (ia : Word) (k : V1 → Dec) : Dec :=
  opd .none (vdst w.d) fun d => opd .none (vsrc w.a ia) fun a => k ⟨w.g, d, a⟩
def decV2 (w : VW) (ia ib : Word) (k : V2 → Dec) : Dec :=
  opd .none (vdst w.d) fun d => opd .none (vsrc w.a ia) fun a => opd .none (vsrc w.b ib) fun b => k ⟨w.g, d, a, b⟩
def decP2 (w : VW) (ia ib : Word) (k : P2 → Dec) : Dec :=
  pdst w.d fun p => opd .none (vsrc w.a ia) fun a => opd .none (vsrc w.b ib) fun b => k ⟨w.g, p, a, b⟩
def decU1 (w : VW) (ia : Word) (k : U1 → Dec) : Dec :=
  opd .none (udst w.d) fun d => opd .none (usrc w.a ia) fun a => k ⟨w.g, d, a⟩
def decU2 (w : VW) (ia ib : Word) (k : U2 → Dec) : Dec :=
  opd .none (udst w.d) fun d => opd .none (usrc w.a ia) fun a => opd .none (usrc w.b ib) fun b => k ⟨w.g, d, a, b⟩

def decSread (w : VW) (_ia : Word) : Dec :=
  chk (w.b == 0) <|
    match selOf w.a with
    | none => .error .illegal
    | some k => opd .none (vdst w.d) fun d => .ok (.sread w.g d k)
def decPlop (w : VW) (_ia : Word) (x : VXW) : Dec :=
  chk (x.only { sub := true } && x.sub < 8) <| pidx w.a fun pa => pidx w.b fun pb => pdst w.d fun pd =>
    .ok (.plop w.g pd pa pb (x.sub.setWidth 3))
def decPset (w : VW) (ia : Word) : Dec :=
  chk (w.b == 0) <| pdst w.d fun pd => opd .none (vsrc w.a ia) fun a => .ok (.pset w.g pd a)
def decPmov (w : VW) (ia : Word) : Dec :=
  if w.b = 0 then chk (w.a == 0) <| opd .none (vdst w.d) fun d => .ok (.pmov w.g d)
  else chk (w.b == 1) <| chk (w.d == 0) <| opd .none (vsrc w.a ia) fun a => .ok (.pmovPreds w.g a)
def decVote (w : VW) (_ia : Word) (x : VXW) : Dec :=
  chk (w.b == 0 && x.only { sub := true } && x.sub < 6) <| pidx w.a fun pa =>
    match x.sub.toNat with
    | 0 => pdst w.d fun pd => .ok (.vote w.g (.any pd) pa)
    | 1 => pdst w.d fun pd => .ok (.vote w.g (.all pd) pa)
    | 2 => pdst w.d fun pd => .ok (.vote w.g (.eq pd) pa)
    | 3 => opd .none (vdst w.d) fun d => .ok (.vote w.g (.ballot 0 d) pa)
    | 4 => opd .none (vdst w.d) fun d => .ok (.vote w.g (.ballot 1 d) pa)
    | _ => opd .none (vdst w.d) fun d => .ok (.vote w.g (.ballot 2 d) pa)

def encV1 (op : Nat) (f : V1) : List Word :=
  packV ⟨BitVec.ofNat 7 op, f.g, f.d.code, f.a.code, 0⟩ :: f.a.ext
def encV2 (op : Nat) (f : V2) : List Word :=
  packV ⟨BitVec.ofNat 7 op, f.g, f.d.code, f.a.code, f.b.code⟩ :: (f.a.ext ++ f.b.ext)
def encP2 (op : Nat) (f : P2) : List Word :=
  packV ⟨BitVec.ofNat 7 op, f.g, f.pd.setWidth 8, f.a.code, f.b.code⟩ :: (f.a.ext ++ f.b.ext)
def encU1 (op : Nat) (f : U1) : List Word :=
  packV ⟨BitVec.ofNat 7 op, f.g, f.d.code, f.a.code, 0⟩ :: f.a.ext
def encU2 (op : Nat) (f : U2) : List Word :=
  packV ⟨BitVec.ofNat 7 op, f.g, f.d.code, f.a.code, f.b.code⟩ :: (f.a.ext ++ f.b.ext)

/-- V opcodes that a VX word always follows (R108). -/
def longV (op : Nat) : Bool :=
  [0x01, 0x03, 0x08, 0x09, 0x0A, 0x0B, 0x0C, 0x0D, 0x0E, 0x0F, 0x10, 0x11, 0x12, 0x14, 0x15, 0x16, 0x17, 0x18, 0x19, 0x1A, 0x20, 0x21, 0x22, 0x23, 0x24, 0x25, 0x26, 0x27, 0x28, 0x29, 0x2C, 0x2D, 0x2E, 0x2F, 0x30, 0x31, 0x32, 0x3A, 0x3E, 0x3F, 0x45, 0x46, 0x47, 0x48, 0x53, 0x58, 0x59, 0x60, 0x61, 0x62, 0x63, 0x64, 0x67, 0x68].contains op

/-- U opcodes that a VX word always follows (R108). -/
def longU (op : Nat) : Bool :=
  [0x01, 0x02, 0x0B, 0x0C, 0x0D, 0x0E, 0x0F, 0x10, 0x1F, 0x20, 0x28, 0x29, 0x2A, 0x2B, 0x2C].contains op

/-- The V-class opcode map (R117) with the fields of R161 to R186. -/
def decodeV (w : VW) (ia ib : Word) (x : VXW) : Dec :=
  match w.op.toNat with
  | 0x00 => chk (w.b == 0) <| decV1 w ia fun f => .ok (.mov f)
  | 0x01 => chk (x.only { nc := true, c := true }) <| chk (x.c < 32) <| decV2 w ia ib fun f => .ok (.sel f x.nc (x.c.setWidth 5))
  | 0x02 => decSread w ia
  | 0x03 => decPlop w ia x
  | 0x04 => decPset w ia
  | 0x05 => decPmov w ia
  | 0x08 => chk (x.only { rnd := true, sat := true, na := true, nb := true, absa := true, absb := true }) <| decV2 w ia ib fun f => .ok (.fadd f x.fmod)
  | 0x09 => chk (x.only { rnd := true, sat := true, na := true, nb := true, absa := true, absb := true }) <| decV2 w ia ib fun f => .ok (.fsub f x.fmod)
  | 0x0A => chk (x.only { rnd := true, sat := true, na := true, nb := true, absa := true, absb := true }) <| decV2 w ia ib fun f => .ok (.fmul f x.fmod)
  | 0x0B => chk (x.only { rnd := true, sat := true, na := true, nb := true, absa := true, absb := true, nc := true }) <| decV2 w ia ib fun f => .ok (.ffma f x.fmod x.nc)
  | 0x0C => chk (x.only { rnd := true, sat := true, na := true, nb := true, absa := true, absb := true, nc := true, c := true }) <| decV2 w ia ib fun f => opd .none (vsrcC x.c) fun c => .ok (.fma3 f x.fmod x.nc c)
  | 0x0D => chk (x.only { na := true, nb := true, absa := true, absb := true }) <| decV2 w ia ib fun f => .ok (.fmin f x.nmod)
  | 0x0E => chk (x.only { na := true, nb := true, absa := true, absb := true }) <| decV2 w ia ib fun f => .ok (.fmax f x.nmod)
  | 0x0F => chk (x.only { sub := true, na := true, nb := true, absa := true, absb := true }) <| chk (x.sub < 8) <| decP2 w ia ib fun f => .ok (.fcmp f (x.sub.setWidth 3) x.nmod)
  | 0x10 => chk (w.b == 0) <| chk (x.only { rnd := true, na := true, absa := true }) <| decV1 w ia fun f => .ok (.frnd f x.rnd x.na x.absa)
  | 0x11 => chk (w.b == 0) <| chk (x.only { na := true, absa := true }) <| decV1 w ia fun f => .ok (.ffract f x.na x.absa)
  | 0x12 => chk (x.only { rnd := true, sat := true, na := true, absa := true }) <| decV2 w ia ib fun f => .ok (.fscale f x.rnd x.sat x.na x.absa)
  | 0x14 => chk (w.b == 0) <| chk (x.only { na := true, absa := true }) <| decV1 w ia fun f => .ok (.frcp f x.na x.absa)
  | 0x15 => chk (w.b == 0) <| chk (x.only { na := true, absa := true }) <| decV1 w ia fun f => .ok (.frsq f x.na x.absa)
  | 0x16 => chk (w.b == 0) <| chk (x.only { na := true, absa := true }) <| decV1 w ia fun f => .ok (.fsqrt f x.na x.absa)
  | 0x17 => chk (w.b == 0) <| chk (x.only { na := true, absa := true }) <| decV1 w ia fun f => .ok (.fexp2 f x.na x.absa)
  | 0x18 => chk (w.b == 0) <| chk (x.only { na := true, absa := true }) <| decV1 w ia fun f => .ok (.flog2 f x.na x.absa)
  | 0x19 => chk (w.b == 0) <| chk (x.only { na := true, absa := true }) <| decV1 w ia fun f => .ok (.fsin f x.na x.absa)
  | 0x1A => chk (w.b == 0) <| chk (x.only { na := true, absa := true }) <| decV1 w ia fun f => .ok (.fcos f x.na x.absa)
  | 0x20 => chk (x.only { rnd := true, sat := true, na := true, nb := true, absa := true, absb := true }) <| decV2 w ia ib fun f => .ok (.hadd2 f x.fmod)
  | 0x21 => chk (x.only { rnd := true, sat := true, na := true, nb := true, absa := true, absb := true }) <| decV2 w ia ib fun f => .ok (.hsub2 f x.fmod)
  | 0x22 => chk (x.only { rnd := true, sat := true, na := true, nb := true, absa := true, absb := true }) <| decV2 w ia ib fun f => .ok (.hmul2 f x.fmod)
  | 0x23 => chk (x.only { rnd := true, sat := true, na := true, nb := true, absa := true, absb := true, nc := true }) <| decV2 w ia ib fun f => .ok (.hfma2 f x.fmod x.nc)
  | 0x24 => chk (x.only { na := true, nb := true, absa := true, absb := true }) <| decV2 w ia ib fun f => .ok (.hmin2 f x.nmod)
  | 0x25 => chk (x.only { na := true, nb := true, absa := true, absb := true }) <| decV2 w ia ib fun f => .ok (.hmax2 f x.nmod)
  | 0x26 => chk (x.only { sub := true, na := true, nb := true, absa := true, absb := true }) <| chk (x.sub < 8) <| decV2 w ia ib fun f => .ok (.hcmp2 f (x.sub.setWidth 3) x.nmod)
  | 0x27 => chk (x.only { rnd := true, sat := true, na := true, nb := true, absa := true, absb := true }) <| decV2 w ia ib fun f => .ok (.badd2 f x.fmod)
  | 0x28 => chk (x.only { rnd := true, sat := true, na := true, nb := true, absa := true, absb := true }) <| decV2 w ia ib fun f => .ok (.bmul2 f x.fmod)
  | 0x29 => chk (x.only { rnd := true, sat := true, na := true, nb := true, absa := true, absb := true, nc := true }) <| decV2 w ia ib fun f => .ok (.bfma2 f x.fmod x.nc)
  | 0x2C => chk (x.only { sat := true, c := true }) <| decV2 w ia ib fun f => opd .none (vsrcC x.c) fun c => .ok (.dot4i f x.sat c)
  | 0x2D => chk (x.only { sat := true, c := true }) <| decV2 w ia ib fun f => opd .none (vsrcC x.c) fun c => .ok (.dot4u f x.sat c)
  | 0x2E => chk (x.only { rnd := true, sat := true, na := true, nb := true, absa := true, absb := true, nc := true, c := true }) <| decV2 w ia ib fun f => opd .none (vsrcC x.c) fun c => .ok (.dot2h f x.fmod x.nc c)
  | 0x2F => chk (x.only { rnd := true, sat := true, na := true, nb := true, absa := true, absb := true, nc := true, c := true }) <| decV2 w ia ib fun f => opd .none (vsrcC x.c) fun c => .ok (.dot2b f x.fmod x.nc c)
  | 0x30 => chk (w.b == 0) <| chk (x.only { rnd := true, sat := true, fmt := true, sub := true }) <| chk (!(isSe x.fmt.toNat)) <| chk (!(isSe x.sub.toNat) && x.sub < 13) <| decV1 w ia fun f => opd .none (fmtOf x.fmt.toNat) fun fmt => opd .none (fmtOf x.sub.toNat) fun src => .ok (.cvt f x.rnd x.sat fmt src)
  | 0x31 => chk (w.b == 0) <| chk (x.only { fmt := true }) <| chk ((isSe x.fmt.toNat || x.fmt.toNat > 12)) <| decV1 w ia fun f => opd .none (seOf x.fmt.toNat) fun fmt => .ok (.qnt f fmt)
  | 0x32 => chk (w.b == 0) <| chk (x.only { fmt := true }) <| chk ((isSe x.fmt.toNat || x.fmt.toNat > 12)) <| decV1 w ia fun f => opd .none (seOf x.fmt.toNat) fun fmt => .ok (.dqnt f fmt)
  | 0x38 => decV2 w ia ib fun f => .ok (.iadd f)
  | 0x39 => decV2 w ia ib fun f => .ok (.isub f)
  | 0x3A => chk (x.only { sub := true }) <| chk (x.sub < 4) <| decV2 w ia ib fun f => .ok (.iaddx f (x.sub.setWidth 2))
  | 0x3B => decV2 w ia ib fun f => .ok (.imul f)
  | 0x3C => decV2 w ia ib fun f => .ok (.imulh f)
  | 0x3D => decV2 w ia ib fun f => .ok (.umulh f)
  | 0x3E => chk (x.only { sat := true, sub := true }) <| chk (x.sub < 2) <| decV2 w ia ib fun f => .ok (.imad f x.sat (x.sub == 1))
  | 0x3F => chk (x.only { sat := true, sub := true, c := true }) <| chk (x.sub < 2) <| decV2 w ia ib fun f => opd .none (vsrcC x.c) fun c => .ok (.imad3 f x.sat (x.sub == 1) c)
  | 0x40 => decV2 w ia ib fun f => .ok (.imin f)
  | 0x41 => decV2 w ia ib fun f => .ok (.imax f)
  | 0x42 => decV2 w ia ib fun f => .ok (.umin f)
  | 0x43 => decV2 w ia ib fun f => .ok (.umax f)
  | 0x44 => chk (w.b == 0) <| decV1 w ia fun f => .ok (.iabs f)
  | 0x45 => chk (x.only { sub := true }) <| chk (x.sub < 2) <| decV2 w ia ib fun f => .ok (.iadds f (x.sub == 1))
  | 0x46 => chk (x.only { sub := true }) <| chk (x.sub < 2) <| decV2 w ia ib fun f => .ok (.isubs f (x.sub == 1))
  | 0x47 => chk (x.only { sub := true }) <| chk (x.sub < 6) <| decP2 w ia ib fun f => opd .none (fin6 x.sub.toNat) fun cond => .ok (.icmp f cond)
  | 0x48 => chk (x.only { sub := true }) <| chk (x.sub < 6) <| decP2 w ia ib fun f => opd .none (fin6 x.sub.toNat) fun cond => .ok (.ucmp f cond)
  | 0x50 => decV2 w ia ib fun f => .ok (.and f)
  | 0x51 => decV2 w ia ib fun f => .ok (.or f)
  | 0x52 => decV2 w ia ib fun f => .ok (.xor f)
  | 0x53 => chk (x.only { fmt := true, sub := true, c := true }) <| decV2 w ia ib fun f => opd .none (vsrcC x.c) fun c => .ok (.ltab f (x.fmt ++ x.sub) c)
  | 0x54 => decV2 w ia ib fun f => .ok (.shl f)
  | 0x55 => decV2 w ia ib fun f => .ok (.shr f)
  | 0x56 => decV2 w ia ib fun f => .ok (.sar f)
  | 0x57 => decV2 w ia ib fun f => .ok (.rot f)
  | 0x58 => chk (x.only { sub := true }) <| chk (x.sub < 2) <| decV2 w ia ib fun f => .ok (.bfe f (x.sub == 1))
  | 0x59 => chk (x.only { c := true }) <| decV2 w ia ib fun f => opd .none (vsrcC x.c) fun c => .ok (.bfi f c)
  | 0x5A => chk (w.b == 0) <| decV1 w ia fun f => .ok (.popc f)
  | 0x5B => chk (w.b == 0) <| decV1 w ia fun f => .ok (.clz f)
  | 0x5C => chk (w.b == 0) <| decV1 w ia fun f => .ok (.brev f)
  | 0x60 => chk (x.only { fmt := true }) <| chk (x.fmt < 9) <| decV2 w ia ib fun f => opd .none (fin9 x.fmt.toNat) fun seg => .ok (.shfl f seg)
  | 0x61 => chk (x.only { fmt := true }) <| chk (x.fmt < 9) <| decV2 w ia ib fun f => opd .none (fin9 x.fmt.toNat) fun seg => .ok (.shflx f seg)
  | 0x62 => chk (x.only { fmt := true }) <| chk (x.fmt < 9) <| decV2 w ia ib fun f => opd .none (fin9 x.fmt.toNat) fun seg => .ok (.shflup f seg)
  | 0x63 => chk (x.only { fmt := true }) <| chk (x.fmt < 9) <| decV2 w ia ib fun f => opd .none (fin9 x.fmt.toNat) fun seg => .ok (.shfldn f seg)
  | 0x64 => decVote w ia x
  | 0x65 => decV2 w ia ib fun f => .ok (.rdlane f)
  | 0x66 => decV2 w ia ib fun f => .ok (.wrlane f)
  | 0x67 => chk (w.b == 0) <| chk (x.only { fmt := true, sub := true, rnd := true }) <| chk (x.fmt < 9) <| chk (x.sub < 11) <| chk ((x.sub == 8 || x.rnd == 0)) <| decV1 w ia fun f => opd .none (fin9 x.fmt.toNat) fun seg => opd .none (fin11 x.sub.toNat) fun op => .ok (.red f seg op x.rnd)
  | 0x68 => chk (w.b == 0) <| chk (x.only { fmt := true, sub := true, rnd := true }) <| chk (x.fmt < 9) <| chk (x.sub < 11) <| chk ((x.sub == 8 || x.rnd == 0)) <| decV1 w ia fun f => opd .none (fin9 x.fmt.toNat) fun seg => opd .none (fin11 x.sub.toNat) fun op => .ok (.scan f seg op x.rnd)
  | _ => .error .unassigned

/-- The U-class opcode map (R117) with the fields of R154 to R159. -/
def decodeU (w : VW) (ia ib : Word) (x : VXW) : Dec :=
  match w.op.toNat with
  | 0x00 => chk (w.b == 0) <| decU1 w ia fun f => .ok (.smov f)
  | 0x01 => chk (x.only { nc := true, c := true }) <| decU2 w ia ib fun f => opd .none (kname x.c) fun k => .ok (.ssel f x.nc k)
  | 0x02 => chk (x.only { sub := true }) <| chk (x.sub < 8) <| decU2 w ia ib fun f => .ok (.klop f (x.sub.setWidth 3))
  | 0x08 => decU2 w ia ib fun f => .ok (.sadd f)
  | 0x09 => decU2 w ia ib fun f => .ok (.ssub f)
  | 0x0A => decU2 w ia ib fun f => .ok (.smul f)
  | 0x0B => chk (x.only { sub := true }) <| chk (x.sub < 2) <| decU2 w ia ib fun f => .ok (.smulh f (x.sub == 1))
  | 0x0C => chk (x.only { c := true }) <| decU2 w ia ib fun f => opd .none (usrcC x.c) fun c => .ok (.smad f c)
  | 0x0D => chk (x.only { sub := true }) <| chk (x.sub < 2) <| decU2 w ia ib fun f => .ok (.smin f (x.sub == 1))
  | 0x0E => chk (x.only { sub := true }) <| chk (x.sub < 2) <| decU2 w ia ib fun f => .ok (.smax f (x.sub == 1))
  | 0x0F => chk (x.only { sub := true }) <| chk (x.sub < 10) <| decU2 w ia ib fun f => opd .none (fin10 x.sub.toNat) fun cond => .ok (.scmp f cond)
  | 0x10 => chk (x.only { sub := true }) <| decU2 w ia ib fun f => .ok (.slea f x.sub)
  | 0x18 => decU2 w ia ib fun f => .ok (.sand f)
  | 0x19 => decU2 w ia ib fun f => .ok (.sor f)
  | 0x1A => decU2 w ia ib fun f => .ok (.sxor f)
  | 0x1B => decU2 w ia ib fun f => .ok (.sshl f)
  | 0x1C => decU2 w ia ib fun f => .ok (.sshr f)
  | 0x1D => decU2 w ia ib fun f => .ok (.ssar f)
  | 0x1E => decU2 w ia ib fun f => .ok (.srot f)
  | 0x1F => chk (x.only { sub := true }) <| chk (x.sub < 2) <| decU2 w ia ib fun f => .ok (.sbfe f (x.sub == 1))
  | 0x20 => chk (x.only { c := true }) <| decU2 w ia ib fun f => opd .none (usrcC x.c) fun c => .ok (.sbfi f c)
  | 0x21 => chk (w.b == 0) <| decU1 w ia fun f => .ok (.spopc f)
  | 0x22 => chk (w.b == 0) <| decU1 w ia fun f => .ok (.sclz f)
  | 0x28 => chk (x.only { rnd := true, sat := true, na := true, nb := true, absa := true, absb := true, fmt := true }) <| chk (x.fmt.toNat = 0 || x.fmt.toNat > 12) <| decU2 w ia ib fun f => opd .none (fmtZero x.fmt) fun _ => .ok (.sfadd f x.fmod)
  | 0x29 => chk (x.only { rnd := true, sat := true, na := true, nb := true, absa := true, absb := true, fmt := true }) <| chk (x.fmt.toNat = 0 || x.fmt.toNat > 12) <| decU2 w ia ib fun f => opd .none (fmtZero x.fmt) fun _ => .ok (.sfmul f x.fmod)
  | 0x2A => chk (x.only { rnd := true, sat := true, na := true, nb := true, absa := true, absb := true, nc := true, c := true, fmt := true }) <| chk (x.fmt.toNat = 0 || x.fmt.toNat > 12) <| decU2 w ia ib fun f => opd .none (usrcC x.c) fun c => opd .none (fmtZero x.fmt) fun _ => .ok (.sffma f x.fmod x.nc c)
  | 0x2B => chk (x.only { sub := true, na := true, nb := true, absa := true, absb := true, fmt := true }) <| chk (x.sub < 8) <| chk (x.fmt.toNat = 0 || x.fmt.toNat > 12) <| decU2 w ia ib fun f => opd .none (fmtZero x.fmt) fun _ => .ok (.sfcmp f (x.sub.setWidth 3) x.nmod)
  | 0x2C => chk (w.b == 0) <| chk (x.only { rnd := true, sat := true, fmt := true, sub := true }) <| chk ((isScalarFmt x.fmt.toNat || x.fmt.toNat > 12)) <| chk (isScalarFmt x.sub.toNat) <| decU1 w ia fun f => opd .none (fmtOf x.fmt.toNat) fun fmt => opd .none (fmtOf x.sub.toNat) fun src => .ok (.scvt f x.rnd x.sat fmt src)
  | _ => .error .unassigned

/-- Aligned groups: n a multiple of k. -/
def aligned (n k : Nat) : Bool := n % k == 0

/-- Load destination under SZ (R110, R192): o registers take at most 32 bits, groups are aligned. -/
def ldDst (c : BitVec 8) (sz : Nat) : Option MDst :=
  match mdst c with
  | none => none
  | some (.v n) => if (sz == 3 && !aligned n 2) || (sz == 4 && !aligned n 4) then none else some (.v n)
  | some (.o n) => if sz == 3 || sz == 4 then none else some (.o n)

/-- Store data under SZ (R110, R192): a code that is no v register only for SZ 0 to 2. -/
def stSrc (c : BitVec 8) (imm : Word) (sz : Nat) : Option MOpd :=
  match mopd c imm with
  | none => none
  | some (.v n) => if (sz == 3 && !aligned n 2) || (sz == 4 && !aligned n 4) then none else some (.v n)
  | some o => if sz < 3 then some o else none

/-- The s register of SLD and SST (R110). -/
def sldReg (c : BitVec 8) (sz : Nat) : Option (BitVec 7) :=
  if c.toNat < 128 then (if sz == 4 && !aligned c.toNat 2 then none else some (c.setWidth 7)) else none

/-- The D field of an atomic (R199). (DEDUCED: log 20) -/
def atomD (op : Nat) (c : BitVec 8) (imm : Word) (la : BitVec 4) : Option AtomD :=
  match mopd c imm with
  | some (.v n) =>
    if ((op == 1 || op == 10 || op == 11) && !aligned n 2) || (op == 12 && !aligned n 4) then none
    else some (.ret (.v n) la)
  | some (.o n) => if op == 1 || op == 10 || op == 11 || op == 12 then none else some (.ret (.o n) la)
  | some (.const n) => if op == 11 || op == 12 then none else some (.const n)
  | some (.imm w) => if op == 11 || op == 12 then none else some (.imm w)
  | some (.s n) => if op == 11 || op == 12 then none else some (.s n)
  | _ => none

def maddr (w : MW) (ix : Word) (x : MXW) (k : MAddr → Dec) : Dec :=
  opd .none (mopd w.x ix) fun o => k ⟨x.base, o, x.sh, x.ofs⟩
def scopeOf (x : MXW) (k : Fin 6 → Dec) : Dec := opd .none (finOf 6 x.scope.toNat) k
def MXW.policy (x : MXW) (k : Fin 5 → Dec) : Dec :=
  match finOf 5 x.pol.toNat with
  | some p => k p
  | none => .error .illegal
def MW.size (w : MW) (n : Nat) (k : Fin n → Dec) : Dec :=
  match finOf n w.sz.toNat with
  | some z => k z
  | none => .error .illegal

/-- The fields an instruction with neither D nor X leaves fixed (R188). -/
def MW.bare (w : MW) : Bool := !w.g && w.d == 0 && w.x == 0xB0 && w.la == 0

/-- The MX word of the matrix commands (R218): SLOT is used under AM = 0 only. -/
def matMod (mx : Word) (ok : Nat → Bool) (k : MMod → Dec) : Dec :=
  match finOf 3 (field mx 6 2).toNat with
  | none => .error .illegal
  | some am => chk (ok am && (am == 0 || field mx 0 6 == 0)) <|
      if field mx 24 8 = 255 then .error (.operand .matrix)
      else k ⟨field mx 24 8, field mx 16 8, field mx 8 8, am, field mx 0 6⟩
def packMat (m : MMod) : Word :=
  BitVec.ofNat 32 (m.id.toNat * 16777216 + m.p0.toNat * 65536 + m.p1.toNat * 256 + m.am * 64 + m.slot.toNat)

def atomDec (w : MW) (id ix : Word) (x : MXW) (hasScope : Bool) (k : BitVec 4 → AtomD → MAddr → Fin 6 → Dec) : Dec :=
  chk (x.pol == 0 && (hasScope || x.scope == 0) && (decide (w.d < 168) || w.la == 0)) <|
    opd .none (atomD w.sz.toNat w.d id w.la) fun d => maddr w ix x fun m => scopeOf x fun s => k w.sz d m s

/-- The M-class opcode map (R117) with the fields of R188 to R234. (DEDUCED: log 20) -/
def decodeM (w : MW) (id ix mx : Word) : Dec :=
  let x := unpackMX mx
  match w.op.toNat with
  | 0x00 => w.size 7 fun sz => x.policy fun pol => opd .none (ldDst w.d sz) fun d => maddr w ix x fun m =>
      scopeOf x fun s => .ok (.ld w.g d m w.la sz s pol)
  | 0x01 => chk (w.la == 0) <| w.size 5 fun sz => x.policy fun pol => opd .none (stSrc w.d id sz) fun d =>
      maddr w ix x fun m => scopeOf x fun s => .ok (.st w.g d m sz s pol)
  | 0x02 => chk (w.x == 0xB0 && x.sh == 0) <| w.size 7 fun sz => x.policy fun pol =>
      opd .none (sldReg w.d sz) fun d => scopeOf x fun s => .ok (.sld w.g d x.base x.ofs w.la sz s pol)
  | 0x03 => chk (w.x == 0xB0 && x.sh == 0 && w.la == 0) <| w.size 5 fun sz => x.policy fun pol =>
      opd .none (sldReg w.d sz) fun d => scopeOf x fun s => .ok (.sst w.g d x.base x.ofs sz s pol)
  | 0x04 => chk (x.pol == 0 && (x.scope < 2 || x.scope > 5)) <| w.size 7 fun sz =>
      opd .none (ldDst w.d sz) fun d => maddr w ix x fun m => scopeOf x fun s =>
      .ok (.ldp w.g d m w.la sz (s == 1))
  | 0x05 => chk (x.pol == 0 && (x.scope < 2 || x.scope > 5) && w.la == 0) <| w.size 5 fun sz =>
      opd .none (stSrc w.d id sz) fun d => maddr w ix x fun m => scopeOf x fun s => .ok (.stp w.g d m sz (s == 1))
  | 0x06 => chk (w.d == 0 && w.la == 0 && x.scope == 0) <| w.size 3 fun sz => x.policy fun pol =>
      maddr w ix x fun m => .ok (.pref w.g m sz pol)
  | 0x08 => atomDec w id ix x true fun op d m s => .ok (.atom w.g op d m s)
  | 0x09 => atomDec w id ix x false fun op d m _ => .ok (.atomp w.g op d m)
  | 0x0A => chk (w.bare && x.base == 0 && x.sh == 0 && x.pol == 0 && x.ofs == 0) <| w.size 3 fun sz =>
      scopeOf x fun s => .ok (if sz = 0 then .fenceAcq s else if sz = 1 then .fenceRel s else .fenceAr s)
  | 0x10 => chk (x.sh == 0 && x.scope == 0) <| w.size 3 fun mode => x.policy fun pol =>
      opd .none (vreg w.d) fun d => opd .none (vreg w.x) fun xr =>
      if aligned d 4 then .ok (.tex w.g mode d xr x.base x.ofs w.la pol) else .error (.operand .none)
  | 0x11 => chk (x.sh == 0 && x.scope == 0 && w.sz == 0) <| x.policy fun pol =>
      opd .none (vreg w.d) fun d => opd .none (vreg w.x) fun xr =>
      if aligned d 4 then .ok (.tld w.g d xr x.base x.ofs w.la pol) else .error (.operand .none)
  | 0x12 => chk (x.sh == 0 && x.scope == 0 && w.sz == 0) <| x.policy fun pol =>
      opd .none (vreg w.d) fun d =>
      opd .none (if w.x = 0xB0 then some none else (vreg w.x).map some) fun xr =>
      if aligned d 4 then .ok (.tq w.g d xr x.base x.ofs w.la pol) else .error (.operand .none)
  | 0x18 => chk (w.bare && w.sz == 0 && x.sh == 0 && x.scope == 0 && x.ofs == 0) <| x.policy fun pol =>
      if aligned x.base.toNat 4 then .ok (.cpy x.base pol) else .error (.operand .none)
  | 0x19 => chk (w.bare && w.sz == 0 && x.sh == 0 && x.scope == 0 && x.pol == 0 && x.ofs == 0) <|
      .ok (.cpyb x.base)
  | 0x1A => chk (w.bare && w.sz == 0 && x.sh == 0 && x.scope == 0 && x.pol == 0 && x.ofs == 0) <|
      .ok (.cpyw x.base)
  | 0x1B => chk (!w.g && w.x == 0xB0 && w.la == 0 && x.sh == 0 && x.scope == 0 && x.pol == 0 && x.ofs == 0
        && (w.sz == 2 || x.base == 0)) <| w.size 4 fun sz => opd .none (vreg w.d) fun d =>
      .ok (.qstat (if sz = 0 then .ring else if sz = 1 then .done else if sz = 2 then .batch x.base else .feed) d)
  | 0x20 => chk (!w.g && w.x == 0xB0 && w.la == 0 && w.sz == 0 && x.sh == 0 && x.scope == 0 && x.pol == 0) <|
      opd .none (mopd w.d id) fun e => .ok (.bari e x.base x.ofs)
  | 0x21 => chk (!w.g && w.la == 0 && w.sz == 0 && x.sh == 0 && x.scope == 0 && x.pol == 0) <|
      opd .none (mopd w.d id) fun c => opd .none (mopd w.x ix) fun b => .ok (.bara c b x.base x.ofs)
  | 0x22 => chk (!w.g && w.d == 0 && w.la == 0 && w.sz == 0 && x.sh == 0 && x.scope == 0 && x.pol == 0) <|
      opd .none (mopd w.x ix) fun ph => .ok (.barw ph x.base x.ofs)
  | 0x23 => chk (!w.g && w.la == 0 && w.sz == 0 && x.sh == 0 && x.scope == 0 && x.pol == 0) <|
      pdst w.d fun pd => opd .none (mopd w.x ix) fun ph => .ok (.bart pd ph x.base x.ofs)
  | 0x28 => chk (!w.g && w.d == 0 && w.la == 0 && w.sz < 3 && (w.sz == 0 || w.x == 0xB0)) <|
      if w.sz = 0 then matMod mx (fun _ => true) fun m => opd .matrix (sreg6 w.x) fun s => .ok (.mmaMac m s)
      else if w.sz = 1 then matMod mx (fun _ => true) fun m => .ok (.mmaZero m)
      else matMod mx (fun am => am != 1) fun m => .ok (.mmaDrain m)
  | 0x29 => chk (!w.g && w.d == 0 && w.la == 0 && w.sz == 0 && field mx 0 6 == 0) <|
      matMod mx (fun am => am == 0) fun m => opd .matrix (sreg6 w.x) fun s =>
      if aligned s 2 then .ok (.mldb m s) else .error (.operand .matrix)
  | 0x2A => chk (w.bare && w.sz == 0) <| matMod mx (fun am => am != 1) fun m => .ok (.mrel m)
  | 0x2B => chk (w.bare && w.sz == 0 && field mx 0 24 == 0) <| .ok (.mwait (field mx 24 8))
  | 0x2C => chk (!w.g && w.x == 0xB0 && w.la == 0 && w.sz < 2 && field mx 0 24 == 0
        && (w.sz == 1 || mx == 0)) <| opd .matrix (vreg w.d) fun d =>
      .ok (.mstat (if w.sz = 0 then none else some (field mx 24 8)) d)
  | 0x30 => chk (w.x == 0xB0 && w.la == 0 && w.sz == 0 && field mx 0 20 == 0) <|
      opd .mailbox (mopd w.d id) fun d => .ok (.sendv w.g (field mx 20 5) (field mx 25 7) d)
  | 0x31 => chk (w.bare && w.sz == 0 && field mx 9 16 == 0) <| .ok (.mkcap (field mx 25 7) (field mx 0 9))
  | 0x32 => chk (w.bare && w.sz < 2 && mx == 0) <| .ok (.dropcap (w.sz == 1))
  | 0x33 => chk (w.bare && w.sz == 0 && field mx 9 23 == 0) <| .ok (.arm (field mx 0 9))
  | 0x38 => chk (w.x == 0xB0 && w.la == 0 && w.sz != 0 && field mx 0 25 == 0) <|
      opd .none (mopd w.d id) fun d => .ok (.pemit w.g w.sz d (field mx 25 7))
  | 0x39 => chk (w.x == 0xB0 && w.la == 0 && w.sz < 2 && mx == 0) <|
      opd .none (vreg w.d) fun d => .ok (.segl w.g (w.sz == 1) d)
  | 0x3A => chk (w.x == 0xB0 && w.la == 0 && w.sz == 0 && mx == 0) <|
      opd .none (vreg w.d) fun d => .ok (.segq w.g d)
  | 0x3B => chk (w.x == 0xB0 && w.la == 0 && w.sz == 0 && mx == 0) <|
      opd .none (vreg w.d) fun d => .ok (.segc w.g d)
  | 0x3C => chk (w.bare && w.sz < 2 && field mx 0 18 == 0) <|
      .ok (.pathend (w.sz == 1) (field mx 25 7) (field mx 18 7))
  | 0x3D => chk (w.x == 0xB0 && w.la == 0 && w.sz != 0 && field mx 0 25 == 0) <|
      opd .none (mopd w.d id) fun d => .ok (.splat w.g w.sz d (field mx 25 7))
  | 0x3E => chk (w.bare && w.sz == 0 && mx == 0) <| .ok .ordb
  | 0x3F => chk (w.bare && w.sz == 0 && mx == 0) <| .ok .orde
  | 0x40 => chk (w.x == 0xB0 && w.la == 0 && field mx 0 25 == 0) <| w.size 3 fun mode =>
      opd .none (vreg w.d) fun d =>
      if aligned d 4 then .ok (.blnd w.g mode d (field mx 25 7)) else .error (.operand .none)
  | _ => .error .unassigned

/-- The CX word of LOOP and LOOPI (R112). -/
def loopCx (cx : Word) (k : LoopCx → Dec) : Dec :=
  match finOf 9 (field cx 28 4).toNat with
  | some nb => k ⟨nb, field cx 25 3, field cx 0 25⟩
  | none => .error .illegal
def packLoop (c : LoopCx) : Word :=
  BitVec.ofNat 32 (c.nb * 268435456 + c.sm1.toNat * 33554432 + c.fin.toNat)

/-- The C-class opcode map (R117) with the fields of R111, R112 and R129. (DEDUCED: log 20) -/
def decodeC (op : BitVec 7) (f : BitVec 25) (cx : Word) : Dec :=
  match op.toNat with
  | 0x00 => chk (f == 0) <| .ok .nop
  | 0x01 =>
    let c := (field f 20 5).toNat
    if c = 31 then .ok (.bra .always (bit f 19) (field f 0 19))
    else chk (c < 8) <| .ok (.bra (.k (field f 20 3)) (bit f 19) (field f 0 19))
  | 0x02 => chk (field cx 24 8 == 0) <| .ok (.brp (field f 20 5) (bit f 19) (field f 0 19) (field cx 0 24))
  | 0x03 => chk (f == 0) <| .ok .join
  | 0x04 => chk (field f 0 18 == 0) <| .ok (.jmpi (field f 18 7))
  | 0x05 => chk (field f 19 6 == 0) <| .ok (.call (field f 0 19))
  | 0x06 => chk (field f 0 18 == 0) <| .ok (.calli (field f 18 7))
  | 0x07 => chk (f == 0) <| .ok .ret
  | 0x08 => chk (f == 0) <| .ok .exit
  | 0x09 => chk (f == 0) <| .ok .yield
  | 0x0A => chk (field f 20 5 == 0) <| .ok (.sleep (field f 0 20))
  | 0x10 => chk (field f 0 18 == 0) <| loopCx cx fun c => .ok (.loop (field f 18 7) c)
  | 0x11 => loopCx cx fun c => .ok (.loopi f c)
  | 0x12 => chk (field f 0 19 == 0) <| .ok (.lbrk (field f 20 5) (bit f 19))
  | 0x13 => chk (f == 0 && field cx 20 12 == 0) <| .ok (.regn (field cx 0 20))
  | 0x18 => chk (field f 8 17 == 0) <| .ok (.claim (field f 0 8))
  | 0x19 => chk (field f 8 17 == 0) <| .ok (.release (field f 0 8))
  | 0x1A => chk (field f 0 11 == 0) <| .ok (.launch (field f 18 7) (field f 11 7))
  | 0x1B => chk (field f 3 14 == 0) <| .ok (.tbfull (bit f 17) (field f 18 7) (field f 0 3))
  | 0x1C => chk (field f 3 14 == 0) <| .ok (.tbempty (bit f 17) (field f 18 7) (field f 0 3))
  | 0x20 => chk (field f 16 9 == 0) <| .ok (.trap (field f 0 16))
  | 0x21 => chk (field f 1 24 == 0) <| .ok (.sret (bit f 0))
  | 0x22 => chk (field f 0 6 == 0) <| .ok (.rdsr (field f 18 7) (field f 6 12))
  | 0x23 => chk (field f 0 6 == 0) <| .ok (.wrsr (field f 18 7) (field f 6 12))
  | 0x24 =>
    if field f 0 18 = 0 then .ok (.tlbi (field f 18 7)) else chk (f == 1) <| .ok .tlbiAll
  | 0x25 => chk (field f 0 4 == 0) <| .ok (.mapp (field f 18 7) (field f 11 7) (field f 4 7))
  | 0x26 =>
    if field f 0 18 = 0 then .ok (.cflush (field f 18 7))
    else if field f 0 18 = 2 then .ok (.cflushMem (field f 18 7))
    else chk (f == 1) <| .ok .cflushL1
  | _ => .error .unassigned

/-- The opcodes each class assigns (R117). -/
def assigned (cl : Cls) (op : Nat) : Bool :=
  let within (a b : Nat) : Bool := a ≤ op && op ≤ b
  match cl with
  | .v => within 0 5 || within 0x08 0x12 || within 0x14 0x1A || within 0x20 0x29 || within 0x2C 0x32
      || within 0x38 0x48 || within 0x50 0x5C || within 0x60 0x68
  | .u => within 0 2 || within 0x08 0x10 || within 0x18 0x22 || within 0x28 0x2C
  | .m => within 0 6 || within 0x08 0x0A || within 0x10 0x12 || within 0x18 0x1B || within 0x20 0x23
      || within 0x28 0x2C || within 0x30 0x33 || within 0x38 0x40
  | .c => within 0 0x0A || within 0x10 0x13 || within 0x18 0x1C || within 0x20 0x26

/-- The extension words an instruction word requires (R106, R108); an unassigned opcode requires none (R100). -/
def extCount (cl : Cls) (w : Word) : Nat :=
  let f := unpackV w
  let op := f.op.toNat
  if !assigned cl op then 0 else
  match cl with
  | .v => bnat (f.a == 0xBF) + bnat (f.b == 0xBF) + bnat (longV op)
  | .u => bnat (f.a == 0xBF) + bnat (f.b == 0xBF) + bnat (longU op)
  | .m => bnat (f.d == 0xBF) + bnat (f.a == 0xBF) + 1
  | .c => bnat (op == 2 || op == 0x10 || op == 0x11 || op == 0x13)

/-- The next extension word, where the encoding requires one. -/
def takeExt (b : Bool) (l : List Word) (k : Word → List Word → Dec) : Dec :=
  if b then
    match l with
    | x :: r => k x r
    | [] => .error .truncated
  else k 0 l

/-- The instruction of class c whose word is w and whose extension words begin ext. (DEDUCED: log 19, 77) -/
def decode (cl : Cls) (w : Word) (ext : List Word) : Dec :=
  if !assigned cl (opOf w).toNat then .error .unassigned else
  match cl with
  | .v =>
    let f := unpackV w
    takeExt (f.a == 0xBF) ext fun ia e1 => takeExt (f.b == 0xBF) e1 fun ib e2 =>
      takeExt (longV f.op.toNat) e2 fun x _ => decodeV f ia ib (unpackVX x)
  | .u =>
    let f := unpackV w
    takeExt (f.a == 0xBF) ext fun ia e1 => takeExt (f.b == 0xBF) e1 fun ib e2 =>
      takeExt (longU f.op.toNat) e2 fun x _ => decodeU f ia ib (unpackVX x)
  | .m =>
    let f := unpackM w
    takeExt (f.d == 0xBF) ext fun ia e1 => takeExt (f.x == 0xBF) e1 fun ib e2 =>
      takeExt true e2 fun x _ => decodeM f ia ib x
  | .c => takeExt (extCount .c w == 1) ext fun cx _ => decodeC (opOf w) (restOf w) cx

/-- Decode from the words as they stand: the instruction word, then its extension words. -/
def decodeWords (cl : Cls) : List Word → Dec
  | [] => .error .truncated
  | w :: ext => decode cl w ext

/-- One word from four bytes, little-endian (R5). -/
def wordOfBytes : List Byte → Option (Word × List Byte)
  | b0 :: b1 :: b2 :: b3 :: r =>
    some (BitVec.ofNat 32 (b0.toNat + b1.toNat * 256 + b2.toNat * 65536 + b3.toNat * 16777216), r)
  | _ => none
/-- The four bytes of a word, little-endian (R5). -/
def bytesOfWord (w : Word) : List Byte := [field w 0 8, field w 8 8, field w 16 8, field w 24 8]

/-- Words of whole groups of four bytes. -/
def wordsOfBytes : Nat → List Byte → List Word
  | 0, _ => []
  | n + 1, l =>
    match wordOfBytes l with
    | some (w, r) => w :: wordsOfBytes n r
    | none => []

/-- The instruction of class c at the head of a byte list. -/
def decodeBytes (cl : Cls) (l : List Byte) : Dec := decodeWords cl (wordsOfBytes (l.length / 4) l)


/-- Bits of BRA, BRP and LBRK (R111, R129). -/
def cBits (c : Nat) (sense : Bool) (ofs : BitVec 19) : BitVec 25 :=
  BitVec.ofNat 25 (c * 1048576 + bnat sense * 524288 + ofs.toNat)
/-- An s register in [24:18]. -/
def sBits (s : BitVec 7) : BitVec 25 := BitVec.ofNat 25 (s.toNat * 262144)

def AtomD.code : AtomD → BitVec 8
  | .ret d _ => d.code | .const n => BitVec.ofNat 8 (176 + n) | .imm _ => 191 | .s n => scode n
def AtomD.ext : AtomD → List Word
  | .imm w => [w]
  | _ => []
def AtomD.la : AtomD → BitVec 4
  | .ret _ la => la
  | _ => 0
def encAtom (op : Nat) (g : Bool) (sz : BitVec 4) (d : AtomD) (m : MAddr) (scope : BitVec 3) : List Word :=
  packM ⟨BitVec.ofNat 7 op, g, d.code, m.x.code, d.la, sz⟩ :: (d.ext ++ m.x.ext ++
    [packMX ⟨m.base, m.sh, scope, 0, m.ofs⟩])

/-- The words of an instruction, the inverse of decode; an event has none. (DEDUCED: log 77) -/
def encode (i : Instr) : List Word :=
  match i with
  | .mov f => encV1 0x00 f
  | .sel f nc p => encV2 0x01 f ++ [packVX { nc := nc, c := p.setWidth 8 }]
  | .fadd f m => encV2 0x08 f ++ [packVX { rnd := m.rnd, sat := m.sat, na := m.n.na, nb := m.n.nb, absa := m.n.absa, absb := m.n.absb }]
  | .fsub f m => encV2 0x09 f ++ [packVX { rnd := m.rnd, sat := m.sat, na := m.n.na, nb := m.n.nb, absa := m.n.absa, absb := m.n.absb }]
  | .fmul f m => encV2 0x0A f ++ [packVX { rnd := m.rnd, sat := m.sat, na := m.n.na, nb := m.n.nb, absa := m.n.absa, absb := m.n.absb }]
  | .ffma f m nc => encV2 0x0B f ++ [packVX { rnd := m.rnd, sat := m.sat, na := m.n.na, nb := m.n.nb, absa := m.n.absa, absb := m.n.absb, nc := nc }]
  | .fma3 f m nc c => encV2 0x0C f ++ [packVX { rnd := m.rnd, sat := m.sat, na := m.n.na, nb := m.n.nb, absa := m.n.absa, absb := m.n.absb, nc := nc, c := c.code }]
  | .fmin f n => encV2 0x0D f ++ [packVX { na := n.na, nb := n.nb, absa := n.absa, absb := n.absb }]
  | .fmax f n => encV2 0x0E f ++ [packVX { na := n.na, nb := n.nb, absa := n.absa, absb := n.absb }]
  | .fcmp f cond n => encP2 0x0F f ++ [packVX { sub := cond.setWidth 4, na := n.na, nb := n.nb, absa := n.absa, absb := n.absb }]
  | .frnd f rnd na absa => encV1 0x10 f ++ [packVX { rnd := rnd, na := na, absa := absa }]
  | .ffract f na absa => encV1 0x11 f ++ [packVX { na := na, absa := absa }]
  | .fscale f rnd sat na absa => encV2 0x12 f ++ [packVX { rnd := rnd, sat := sat, na := na, absa := absa }]
  | .frcp f na absa => encV1 0x14 f ++ [packVX { na := na, absa := absa }]
  | .frsq f na absa => encV1 0x15 f ++ [packVX { na := na, absa := absa }]
  | .fsqrt f na absa => encV1 0x16 f ++ [packVX { na := na, absa := absa }]
  | .fexp2 f na absa => encV1 0x17 f ++ [packVX { na := na, absa := absa }]
  | .flog2 f na absa => encV1 0x18 f ++ [packVX { na := na, absa := absa }]
  | .fsin f na absa => encV1 0x19 f ++ [packVX { na := na, absa := absa }]
  | .fcos f na absa => encV1 0x1A f ++ [packVX { na := na, absa := absa }]
  | .hadd2 f m => encV2 0x20 f ++ [packVX { rnd := m.rnd, sat := m.sat, na := m.n.na, nb := m.n.nb, absa := m.n.absa, absb := m.n.absb }]
  | .hsub2 f m => encV2 0x21 f ++ [packVX { rnd := m.rnd, sat := m.sat, na := m.n.na, nb := m.n.nb, absa := m.n.absa, absb := m.n.absb }]
  | .hmul2 f m => encV2 0x22 f ++ [packVX { rnd := m.rnd, sat := m.sat, na := m.n.na, nb := m.n.nb, absa := m.n.absa, absb := m.n.absb }]
  | .hfma2 f m nc => encV2 0x23 f ++ [packVX { rnd := m.rnd, sat := m.sat, na := m.n.na, nb := m.n.nb, absa := m.n.absa, absb := m.n.absb, nc := nc }]
  | .hmin2 f n => encV2 0x24 f ++ [packVX { na := n.na, nb := n.nb, absa := n.absa, absb := n.absb }]
  | .hmax2 f n => encV2 0x25 f ++ [packVX { na := n.na, nb := n.nb, absa := n.absa, absb := n.absb }]
  | .hcmp2 f cond n => encV2 0x26 f ++ [packVX { sub := cond.setWidth 4, na := n.na, nb := n.nb, absa := n.absa, absb := n.absb }]
  | .badd2 f m => encV2 0x27 f ++ [packVX { rnd := m.rnd, sat := m.sat, na := m.n.na, nb := m.n.nb, absa := m.n.absa, absb := m.n.absb }]
  | .bmul2 f m => encV2 0x28 f ++ [packVX { rnd := m.rnd, sat := m.sat, na := m.n.na, nb := m.n.nb, absa := m.n.absa, absb := m.n.absb }]
  | .bfma2 f m nc => encV2 0x29 f ++ [packVX { rnd := m.rnd, sat := m.sat, na := m.n.na, nb := m.n.nb, absa := m.n.absa, absb := m.n.absb, nc := nc }]
  | .dot4i f sat c => encV2 0x2C f ++ [packVX { sat := sat, c := c.code }]
  | .dot4u f sat c => encV2 0x2D f ++ [packVX { sat := sat, c := c.code }]
  | .dot2h f m nc c => encV2 0x2E f ++ [packVX { rnd := m.rnd, sat := m.sat, na := m.n.na, nb := m.n.nb, absa := m.n.absa, absb := m.n.absb, nc := nc, c := c.code }]
  | .dot2b f m nc c => encV2 0x2F f ++ [packVX { rnd := m.rnd, sat := m.sat, na := m.n.na, nb := m.n.nb, absa := m.n.absa, absb := m.n.absb, nc := nc, c := c.code }]
  | .cvt f rnd sat fmt src => encV1 0x30 f ++ [packVX { rnd := rnd, sat := sat, fmt := fmt.code, sub := src.code }]
  | .qnt f fmt => encV1 0x31 f ++ [packVX { fmt := fmt.code }]
  | .dqnt f fmt => encV1 0x32 f ++ [packVX { fmt := fmt.code }]
  | .iadd f => encV2 0x38 f
  | .isub f => encV2 0x39 f
  | .iaddx f op => encV2 0x3A f ++ [packVX { sub := op.setWidth 4 }]
  | .imul f => encV2 0x3B f
  | .imulh f => encV2 0x3C f
  | .umulh f => encV2 0x3D f
  | .imad f sat u => encV2 0x3E f ++ [packVX { sat := sat, sub := if u then 1 else 0 }]
  | .imad3 f sat u c => encV2 0x3F f ++ [packVX { sat := sat, sub := if u then 1 else 0, c := c.code }]
  | .imin f => encV2 0x40 f
  | .imax f => encV2 0x41 f
  | .umin f => encV2 0x42 f
  | .umax f => encV2 0x43 f
  | .iabs f => encV1 0x44 f
  | .iadds f u => encV2 0x45 f ++ [packVX { sub := if u then 1 else 0 }]
  | .isubs f u => encV2 0x46 f ++ [packVX { sub := if u then 1 else 0 }]
  | .icmp f cond => encP2 0x47 f ++ [packVX { sub := BitVec.ofNat 4 cond }]
  | .ucmp f cond => encP2 0x48 f ++ [packVX { sub := BitVec.ofNat 4 cond }]
  | .and f => encV2 0x50 f
  | .or f => encV2 0x51 f
  | .xor f => encV2 0x52 f
  | .ltab f tab c => encV2 0x53 f ++ [packVX { fmt := tab.extractLsb' 4 4, sub := tab.extractLsb' 0 4, c := c.code }]
  | .shl f => encV2 0x54 f
  | .shr f => encV2 0x55 f
  | .sar f => encV2 0x56 f
  | .rot f => encV2 0x57 f
  | .bfe f sx => encV2 0x58 f ++ [packVX { sub := if sx then 1 else 0 }]
  | .bfi f c => encV2 0x59 f ++ [packVX { c := c.code }]
  | .popc f => encV1 0x5A f
  | .clz f => encV1 0x5B f
  | .brev f => encV1 0x5C f
  | .shfl f seg => encV2 0x60 f ++ [packVX { fmt := BitVec.ofNat 4 seg }]
  | .shflx f seg => encV2 0x61 f ++ [packVX { fmt := BitVec.ofNat 4 seg }]
  | .shflup f seg => encV2 0x62 f ++ [packVX { fmt := BitVec.ofNat 4 seg }]
  | .shfldn f seg => encV2 0x63 f ++ [packVX { fmt := BitVec.ofNat 4 seg }]
  | .rdlane f => encV2 0x65 f
  | .wrlane f => encV2 0x66 f
  | .red f seg op rnd => encV1 0x67 f ++ [packVX { fmt := BitVec.ofNat 4 seg, sub := BitVec.ofNat 4 op, rnd := rnd }]
  | .scan f seg op rnd => encV1 0x68 f ++ [packVX { fmt := BitVec.ofNat 4 seg, sub := BitVec.ofNat 4 op, rnd := rnd }]
  | .smov f => encU1 0x00 f
  | .ssel f nc k => encU2 0x01 f ++ [packVX { nc := nc, c := 0x80#8 + k.setWidth 8 }]
  | .klop f op => encU2 0x02 f ++ [packVX { sub := op.setWidth 4 }]
  | .sadd f => encU2 0x08 f
  | .ssub f => encU2 0x09 f
  | .smul f => encU2 0x0A f
  | .smulh f u => encU2 0x0B f ++ [packVX { sub := if u then 1 else 0 }]
  | .smad f c => encU2 0x0C f ++ [packVX { c := c.code }]
  | .smin f u => encU2 0x0D f ++ [packVX { sub := if u then 1 else 0 }]
  | .smax f u => encU2 0x0E f ++ [packVX { sub := if u then 1 else 0 }]
  | .scmp f cond => encU2 0x0F f ++ [packVX { sub := BitVec.ofNat 4 cond }]
  | .slea f sh => encU2 0x10 f ++ [packVX { sub := sh }]
  | .sand f => encU2 0x18 f
  | .sor f => encU2 0x19 f
  | .sxor f => encU2 0x1A f
  | .sshl f => encU2 0x1B f
  | .sshr f => encU2 0x1C f
  | .ssar f => encU2 0x1D f
  | .srot f => encU2 0x1E f
  | .sbfe f sx => encU2 0x1F f ++ [packVX { sub := if sx then 1 else 0 }]
  | .sbfi f c => encU2 0x20 f ++ [packVX { c := c.code }]
  | .spopc f => encU1 0x21 f
  | .sclz f => encU1 0x22 f
  | .sfadd f m => encU2 0x28 f ++ [packVX { rnd := m.rnd, sat := m.sat, na := m.n.na, nb := m.n.nb, absa := m.n.absa, absb := m.n.absb }]
  | .sfmul f m => encU2 0x29 f ++ [packVX { rnd := m.rnd, sat := m.sat, na := m.n.na, nb := m.n.nb, absa := m.n.absa, absb := m.n.absb }]
  | .sffma f m nc c => encU2 0x2A f ++ [packVX { rnd := m.rnd, sat := m.sat, na := m.n.na, nb := m.n.nb, absa := m.n.absa, absb := m.n.absb, nc := nc, c := c.code }]
  | .sfcmp f cond n => encU2 0x2B f ++ [packVX { sub := cond.setWidth 4, na := n.na, nb := n.nb, absa := n.absa, absb := n.absb }]
  | .scvt f rnd sat fmt src => encU1 0x2C f ++ [packVX { rnd := rnd, sat := sat, fmt := fmt.code, sub := src.code }]
  | .sread g d k => [packV ⟨0x02, g, d.code, k.code, 0⟩]
  | .plop g pd pa pb op =>
    [packV ⟨0x03, g, pd.setWidth 8, pa.setWidth 8, pb.setWidth 8⟩, packVX { sub := op.setWidth 4 }]
  | .pset g pd a => packV ⟨0x04, g, pd.setWidth 8, a.code, 0⟩ :: a.ext
  | .pmov g d => [packV ⟨0x05, g, d.code, 0, 0⟩]
  | .pmovPreds g a => packV ⟨0x05, g, 0, a.code, 1⟩ :: a.ext
  | .vote g (.any pd) pa => [packV ⟨0x64, g, pd.setWidth 8, pa.setWidth 8, 0⟩, packVX {}]
  | .vote g (.all pd) pa => [packV ⟨0x64, g, pd.setWidth 8, pa.setWidth 8, 0⟩, packVX { sub := 1 }]
  | .vote g (.eq pd) pa => [packV ⟨0x64, g, pd.setWidth 8, pa.setWidth 8, 0⟩, packVX { sub := 2 }]
  | .vote g (.ballot n d) pa => [packV ⟨0x64, g, d.code, pa.setWidth 8, 0⟩, packVX { sub := BitVec.ofNat 4 (3 + n) }]
  | .ld g d m la sz scope pol =>
    packM ⟨0x00, g, d.code, m.x.code, la, BitVec.ofNat 4 sz⟩ :: (m.x.ext ++
      [packMX ⟨m.base, m.sh, BitVec.ofNat 3 scope, BitVec.ofNat 3 pol, m.ofs⟩])
  | .st g d m sz scope pol =>
    packM ⟨0x01, g, d.code, m.x.code, 0, BitVec.ofNat 4 sz⟩ :: (d.ext ++ m.x.ext ++
      [packMX ⟨m.base, m.sh, BitVec.ofNat 3 scope, BitVec.ofNat 3 pol, m.ofs⟩])
  | .sld g d base ofs la sz scope pol =>
    [packM ⟨0x02, g, d.setWidth 8, 0xB0, la, BitVec.ofNat 4 sz⟩,
      packMX ⟨base, 0, BitVec.ofNat 3 scope, BitVec.ofNat 3 pol, ofs⟩]
  | .sst g d base ofs sz scope pol =>
    [packM ⟨0x03, g, d.setWidth 8, 0xB0, 0, BitVec.ofNat 4 sz⟩,
      packMX ⟨base, 0, BitVec.ofNat 3 scope, BitVec.ofNat 3 pol, ofs⟩]
  | .ldp g d m la sz acq =>
    packM ⟨0x04, g, d.code, m.x.code, la, BitVec.ofNat 4 sz⟩ :: (m.x.ext ++
      [packMX ⟨m.base, m.sh, if acq then 1 else 0, 0, m.ofs⟩])
  | .stp g d m sz rel =>
    packM ⟨0x05, g, d.code, m.x.code, 0, BitVec.ofNat 4 sz⟩ :: (d.ext ++ m.x.ext ++
      [packMX ⟨m.base, m.sh, if rel then 1 else 0, 0, m.ofs⟩])
  | .pref g m lvl pol =>
    packM ⟨0x06, g, 0, m.x.code, 0, BitVec.ofNat 4 lvl⟩ :: (m.x.ext ++
      [packMX ⟨m.base, m.sh, 0, BitVec.ofNat 3 pol, m.ofs⟩])
  | .atom g op d m scope => encAtom 0x08 g op d m (BitVec.ofNat 3 scope)
  | .atomp g op d m => encAtom 0x09 g op d m 0
  | .fenceAcq scope => [packM ⟨0x0A, false, 0, 0xB0, 0, 0⟩, packMX { scope := BitVec.ofNat 3 scope }]
  | .fenceRel scope => [packM ⟨0x0A, false, 0, 0xB0, 0, 1⟩, packMX { scope := BitVec.ofNat 3 scope }]
  | .fenceAr scope => [packM ⟨0x0A, false, 0, 0xB0, 0, 2⟩, packMX { scope := BitVec.ofNat 3 scope }]
  | .tex g mode d x base ofs la pol =>
    [packM ⟨0x10, g, vcode d, vcode x, la, BitVec.ofNat 4 mode⟩, packMX ⟨base, 0, 0, BitVec.ofNat 3 pol, ofs⟩]
  | .tld g d x base ofs la pol =>
    [packM ⟨0x11, g, vcode d, vcode x, la, 0⟩, packMX ⟨base, 0, 0, BitVec.ofNat 3 pol, ofs⟩]
  | .tq g d x base ofs la pol =>
    [packM ⟨0x12, g, vcode d, (match x with | some n => vcode n | none => 0xB0), la, 0⟩,
      packMX ⟨base, 0, 0, BitVec.ofNat 3 pol, ofs⟩]
  | .cpy base pol => [packM ⟨0x18, false, 0, 0xB0, 0, 0⟩, packMX { base := base, pol := BitVec.ofNat 3 pol }]
  | .cpyb base => [packM ⟨0x19, false, 0, 0xB0, 0, 0⟩, packMX { base := base }]
  | .cpyw base => [packM ⟨0x1A, false, 0, 0xB0, 0, 0⟩, packMX { base := base }]
  | .qstat .ring d => [packM ⟨0x1B, false, vcode d, 0xB0, 0, 0⟩, packMX {}]
  | .qstat .done d => [packM ⟨0x1B, false, vcode d, 0xB0, 0, 1⟩, packMX {}]
  | .qstat (.batch s) d => [packM ⟨0x1B, false, vcode d, 0xB0, 0, 2⟩, packMX { base := s }]
  | .qstat .feed d => [packM ⟨0x1B, false, vcode d, 0xB0, 0, 3⟩, packMX {}]
  | .bari e base ofs => packM ⟨0x20, false, e.code, 0xB0, 0, 0⟩ :: (e.ext ++ [packMX { base := base, ofs := ofs }])
  | .bara c b base ofs =>
    packM ⟨0x21, false, c.code, b.code, 0, 0⟩ :: (c.ext ++ b.ext ++ [packMX { base := base, ofs := ofs }])
  | .barw ph base ofs => packM ⟨0x22, false, 0, ph.code, 0, 0⟩ :: (ph.ext ++ [packMX { base := base, ofs := ofs }])
  | .bart pd ph base ofs =>
    packM ⟨0x23, false, pd.setWidth 8, ph.code, 0, 0⟩ :: (ph.ext ++ [packMX { base := base, ofs := ofs }])
  | .mmaMac m x => [packM ⟨0x28, false, 0, scode x, 0, 0⟩, packMat m]
  | .mmaZero m => [packM ⟨0x28, false, 0, 0xB0, 0, 1⟩, packMat m]
  | .mmaDrain m => [packM ⟨0x28, false, 0, 0xB0, 0, 2⟩, packMat m]
  | .mldb m x => [packM ⟨0x29, false, 0, scode x, 0, 0⟩, packMat m]
  | .mrel m => [packM ⟨0x2A, false, 0, 0xB0, 0, 0⟩, packMat m]
  | .mwait id => [packM ⟨0x2B, false, 0, 0xB0, 0, 0⟩, BitVec.ofNat 32 (id.toNat * 16777216)]
  | .mstat none d => [packM ⟨0x2C, false, vcode d, 0xB0, 0, 0⟩, 0]
  | .mstat (some id) d => [packM ⟨0x2C, false, vcode d, 0xB0, 0, 1⟩, BitVec.ofNat 32 (id.toNat * 16777216)]
  | .sendv g pd cap d =>
    packM ⟨0x30, g, d.code, 0xB0, 0, 0⟩ :: (d.ext ++ [BitVec.ofNat 32 (cap.toNat * 33554432 + pd.toNat * 1048576)])
  | .mkcap d reg => [packM ⟨0x31, false, 0, 0xB0, 0, 0⟩, BitVec.ofNat 32 (d.toNat * 33554432 + reg.toNat)]
  | .dropcap b => [packM ⟨0x32, false, 0, 0xB0, 0, if b then 1 else 0⟩, 0]
  | .arm reg => [packM ⟨0x33, false, 0, 0xB0, 0, 0⟩, BitVec.ofNat 32 reg.toNat]
  | .pemit g n d seq => packM ⟨0x38, g, d.code, 0xB0, 0, n⟩ :: (d.ext ++ [BitVec.ofNat 32 (seq.toNat * 33554432)])
  | .segl g mv d => [packM ⟨0x39, g, vcode d, 0xB0, 0, if mv then 1 else 0⟩, 0]
  | .segq g d => [packM ⟨0x3A, g, vcode d, 0xB0, 0, 0⟩, 0]
  | .segc g d => [packM ⟨0x3B, g, vcode d, 0xB0, 0, 0⟩, 0]
  | .pathend eo seq tgt =>
    [packM ⟨0x3C, false, 0, 0xB0, 0, if eo then 1 else 0⟩, BitVec.ofNat 32 (seq.toNat * 33554432 + tgt.toNat * 262144)]
  | .splat g n d seq => packM ⟨0x3D, g, d.code, 0xB0, 0, n⟩ :: (d.ext ++ [BitVec.ofNat 32 (seq.toNat * 33554432)])
  | .ordb => [packM ⟨0x3E, false, 0, 0xB0, 0, 0⟩, 0]
  | .orde => [packM ⟨0x3F, false, 0, 0xB0, 0, 0⟩, 0]
  | .blnd g mode d tgt =>
    [packM ⟨0x40, g, vcode d, 0xB0, 0, BitVec.ofNat 4 mode⟩, BitVec.ofNat 32 (tgt.toNat * 33554432)]
  | .nop => [packC 0x00 0]
  | .bra (.k n) sense ofs => [packC 0x01 (cBits n.toNat sense ofs)]
  | .bra .always sense ofs => [packC 0x01 (cBits 31 sense ofs)]
  | .brp p sense ofs j => [packC 0x02 (cBits p.toNat sense ofs), j.setWidth 32]
  | .join => [packC 0x03 0]
  | .jmpi s => [packC 0x04 (sBits s)]
  | .call ofs => [packC 0x05 (ofs.setWidth 25)]
  | .calli s => [packC 0x06 (sBits s)]
  | .ret => [packC 0x07 0]
  | .exit => [packC 0x08 0]
  | .yield => [packC 0x09 0]
  | .sleep n => [packC 0x0A (n.setWidth 25)]
  | .loop s cx => [packC 0x10 (sBits s), packLoop cx]
  | .loopi c cx => [packC 0x11 c, packLoop cx]
  | .lbrk p sense => [packC 0x12 (cBits p.toNat sense 0)]
  | .regn live => [packC 0x13 0, live.setWidth 32]
  | .claim n => [packC 0x18 (n.setWidth 25)]
  | .release n => [packC 0x19 (n.setWidth 25)]
  | .launch a d => [packC 0x1A (BitVec.ofNat 25 (a.toNat * 262144 + d.toNat * 2048))]
  | .tbfull form s ix => [packC 0x1B (BitVec.ofNat 25 (s.toNat * 262144 + bnat form * 131072 + ix.toNat))]
  | .tbempty form s ix => [packC 0x1C (BitVec.ofNat 25 (s.toNat * 262144 + bnat form * 131072 + ix.toNat))]
  | .trap code => [packC 0x20 (code.setWidth 25)]
  | .sret skip => [packC 0x21 (if skip then 1 else 0)]
  | .rdsr d ix => [packC 0x22 (BitVec.ofNat 25 (d.toNat * 262144 + ix.toNat * 64))]
  | .wrsr s ix => [packC 0x23 (BitVec.ofNat 25 (s.toNat * 262144 + ix.toNat * 64))]
  | .tlbi s => [packC 0x24 (sBits s)]
  | .tlbiAll => [packC 0x24 1]
  | .mapp d a t => [packC 0x25 (BitVec.ofNat 25 (d.toNat * 262144 + a.toNat * 2048 + t.toNat * 16))]
  | .cflush s => [packC 0x26 (sBits s)]
  | .cflushL1 => [packC 0x26 1]
  | .cflushMem s => [packC 0x26 (BitVec.ofNat 25 (s.toNat * 262144 + 2))]
  | .clauseFetch _ _ => []
  | .headerWaitEnd _ _ => []
  | .backEdge _ _ => []
  | .waveRetire _ => []
  | .loadLanding _ _ _ => []
  | .storeLeavesQueue _ => []
  | .storeAck _ _ => []
  | .atomicPerform _ _ _ => []
  | .sendArrival _ => []
  | .sendOutcome _ => []
  | .sleepTimeout _ _ => []
  | .copyJobStart _ _ => []
  | .copyLanding _ _ _ _ _ => []
  | .copyJobComplete _ _ => []
  | .matrixCommandStart _ _ => []
  | .matrixCommandRetire _ _ => []
  | .matrixWatchdog _ => []
  | .sectionTimeout _ => []
  | .preemptRequest _ => []
  | .switchOutCapture _ => []
  | .clusterRestore _ => []
  | .pageReply _ => []
  | .pageMigration _ _ => []
  | .pinExpiry _ _ => []
  | .pagePromotion _ _ => []
  | .pageHash _ _ => []
  | .daymarkMerge _ _ => []
  | .taskDispatch _ => []
  | .lightPeriod => []
  | .batchSend _ _ => []
  | .buoyReport _ => []
  | .blockPlacement _ _ => []
  | .carveChangeStart _ => []
  | .carveChange _ => []
  | .donationRequest _ _ => []
  | .donationAnswer _ _ => []
  | .gangReport _ _ => []
  | .gangStart _ => []
  | .l2Resend _ => []
  | .taskEnd _ => []
  | .pixelWaveLaunch _ _ _ => []
  | .pathFill _ => []
  | .blendCommit _ => []
  | .lanternComposite _ _ _ => []
  | .clearJob _ _ => []
  | .splatJob _ _ => []
  | .copyClassJob _ _ => []
  | .encodeJob _ _ => []
  | .hostLaunch _ => []
  | .frame _ => []
  | .seal _ => []
  | .fork _ => []
  | .migrate _ => []
  | .snapshot _ => []
  | .snapshotHostCopy _ => []
  | .restore _ => []
  | .s2inv _ => []
  | .create _ => []
  | .destroy _ => []
  | .grant _ => []
  | .pooladd _ => []
  | .ringKeyRotation _ _ _ => []
  | .getMeasurements _ _ => []
  | .challenge _ => []
  | .lockInterfaceRequest _ => []
  | .tdispUnlock _ => []
  | .tdispError _ => []
  | .ideKm _ _ => []
  | .logKeyRequest _ => []
  | .lamplighterWalk _ => []
  | .tournSwitch => []
  | .thermalTrip _ => []
  | .tripClear _ => []
  | .monitorEvent _ _ _ => []
  | .pwrreq _ => []
  | .tourn _ => []
  | .ttrip _ => []
  | .cmdtail _ _ => []
  | .rpqtail _ _ => []
  | .prqhead _ _ => []
  | .registerWrite _ _ _ _ => []
  | .hostAccess _ _ _ => []
  | .flitSend _ _ _ => []
  | .flitReceive _ _ => []
  | .nak _ _ => []
  | .resendTimeout _ => []
  | .ptpMessage _ _ => []
  | .snapshotStep _ => []
  | .dieLost _ => []
  | .coldReset => []
  | .trep _ _ => []
  | .startInterfaceRequest _ => []
  | .linkTraining _ _ => []
  | .boostThrottle _ _ => []
  | .snapshotStepComplete _ => []
  | .spdmSecuredSession _ => []

/-- The class of an instruction; an event has none. -/
def Instr.cls (i : Instr) : Option Cls :=
  match i with
  | .mov _ => some .v
  | .sel _ _ _ => some .v
  | .sread _ _ _ => some .v
  | .plop _ _ _ _ _ => some .v
  | .pset _ _ _ => some .v
  | .pmov _ _ => some .v
  | .pmovPreds _ _ => some .v
  | .fadd _ _ => some .v
  | .fsub _ _ => some .v
  | .fmul _ _ => some .v
  | .ffma _ _ _ => some .v
  | .fma3 _ _ _ _ => some .v
  | .fmin _ _ => some .v
  | .fmax _ _ => some .v
  | .fcmp _ _ _ => some .v
  | .frnd _ _ _ _ => some .v
  | .ffract _ _ _ => some .v
  | .fscale _ _ _ _ _ => some .v
  | .frcp _ _ _ => some .v
  | .frsq _ _ _ => some .v
  | .fsqrt _ _ _ => some .v
  | .fexp2 _ _ _ => some .v
  | .flog2 _ _ _ => some .v
  | .fsin _ _ _ => some .v
  | .fcos _ _ _ => some .v
  | .hadd2 _ _ => some .v
  | .hsub2 _ _ => some .v
  | .hmul2 _ _ => some .v
  | .hfma2 _ _ _ => some .v
  | .hmin2 _ _ => some .v
  | .hmax2 _ _ => some .v
  | .hcmp2 _ _ _ => some .v
  | .badd2 _ _ => some .v
  | .bmul2 _ _ => some .v
  | .bfma2 _ _ _ => some .v
  | .dot4i _ _ _ => some .v
  | .dot4u _ _ _ => some .v
  | .dot2h _ _ _ _ => some .v
  | .dot2b _ _ _ _ => some .v
  | .cvt _ _ _ _ _ => some .v
  | .qnt _ _ => some .v
  | .dqnt _ _ => some .v
  | .iadd _ => some .v
  | .isub _ => some .v
  | .iaddx _ _ => some .v
  | .imul _ => some .v
  | .imulh _ => some .v
  | .umulh _ => some .v
  | .imad _ _ _ => some .v
  | .imad3 _ _ _ _ => some .v
  | .imin _ => some .v
  | .imax _ => some .v
  | .umin _ => some .v
  | .umax _ => some .v
  | .iabs _ => some .v
  | .iadds _ _ => some .v
  | .isubs _ _ => some .v
  | .icmp _ _ => some .v
  | .ucmp _ _ => some .v
  | .and _ => some .v
  | .or _ => some .v
  | .xor _ => some .v
  | .ltab _ _ _ => some .v
  | .shl _ => some .v
  | .shr _ => some .v
  | .sar _ => some .v
  | .rot _ => some .v
  | .bfe _ _ => some .v
  | .bfi _ _ => some .v
  | .popc _ => some .v
  | .clz _ => some .v
  | .brev _ => some .v
  | .shfl _ _ => some .v
  | .shflx _ _ => some .v
  | .shflup _ _ => some .v
  | .shfldn _ _ => some .v
  | .vote _ _ _ => some .v
  | .rdlane _ => some .v
  | .wrlane _ => some .v
  | .red _ _ _ _ => some .v
  | .scan _ _ _ _ => some .v
  | .smov _ => some .u
  | .ssel _ _ _ => some .u
  | .klop _ _ => some .u
  | .sadd _ => some .u
  | .ssub _ => some .u
  | .smul _ => some .u
  | .smulh _ _ => some .u
  | .smad _ _ => some .u
  | .smin _ _ => some .u
  | .smax _ _ => some .u
  | .scmp _ _ => some .u
  | .slea _ _ => some .u
  | .sand _ => some .u
  | .sor _ => some .u
  | .sxor _ => some .u
  | .sshl _ => some .u
  | .sshr _ => some .u
  | .ssar _ => some .u
  | .srot _ => some .u
  | .sbfe _ _ => some .u
  | .sbfi _ _ => some .u
  | .spopc _ => some .u
  | .sclz _ => some .u
  | .sfadd _ _ => some .u
  | .sfmul _ _ => some .u
  | .sffma _ _ _ _ => some .u
  | .sfcmp _ _ _ => some .u
  | .scvt _ _ _ _ _ => some .u
  | .ld _ _ _ _ _ _ _ => some .m
  | .st _ _ _ _ _ _ => some .m
  | .sld _ _ _ _ _ _ _ _ => some .m
  | .sst _ _ _ _ _ _ _ => some .m
  | .ldp _ _ _ _ _ _ => some .m
  | .stp _ _ _ _ _ => some .m
  | .pref _ _ _ _ => some .m
  | .atom _ _ _ _ _ => some .m
  | .atomp _ _ _ _ => some .m
  | .fenceAcq _ => some .m
  | .fenceRel _ => some .m
  | .fenceAr _ => some .m
  | .tex _ _ _ _ _ _ _ _ => some .m
  | .tld _ _ _ _ _ _ _ => some .m
  | .tq _ _ _ _ _ _ _ => some .m
  | .cpy _ _ => some .m
  | .cpyb _ => some .m
  | .cpyw _ => some .m
  | .qstat _ _ => some .m
  | .bari _ _ _ => some .m
  | .bara _ _ _ _ => some .m
  | .barw _ _ _ => some .m
  | .bart _ _ _ _ => some .m
  | .mmaMac _ _ => some .m
  | .mmaZero _ => some .m
  | .mmaDrain _ => some .m
  | .mldb _ _ => some .m
  | .mrel _ => some .m
  | .mwait _ => some .m
  | .mstat _ _ => some .m
  | .sendv _ _ _ _ => some .m
  | .mkcap _ _ => some .m
  | .dropcap _ => some .m
  | .arm _ => some .m
  | .pemit _ _ _ _ => some .m
  | .segl _ _ _ => some .m
  | .segq _ _ => some .m
  | .segc _ _ => some .m
  | .pathend _ _ _ => some .m
  | .splat _ _ _ _ => some .m
  | .ordb => some .m
  | .orde => some .m
  | .blnd _ _ _ _ => some .m
  | .nop => some .c
  | .bra _ _ _ => some .c
  | .brp _ _ _ _ => some .c
  | .join => some .c
  | .jmpi _ => some .c
  | .call _ => some .c
  | .calli _ => some .c
  | .ret => some .c
  | .exit => some .c
  | .yield => some .c
  | .sleep _ => some .c
  | .loop _ _ => some .c
  | .loopi _ _ => some .c
  | .lbrk _ _ => some .c
  | .regn _ => some .c
  | .claim _ => some .c
  | .release _ => some .c
  | .launch _ _ => some .c
  | .tbfull _ _ _ => some .c
  | .tbempty _ _ _ => some .c
  | .trap _ => some .c
  | .sret _ => some .c
  | .rdsr _ _ => some .c
  | .wrsr _ _ => some .c
  | .tlbi _ => some .c
  | .tlbiAll => some .c
  | .mapp _ _ _ => some .c
  | .cflush _ => some .c
  | .cflushL1 => some .c
  | .cflushMem _ => some .c
  | .clauseFetch _ _ => none
  | .headerWaitEnd _ _ => none
  | .backEdge _ _ => none
  | .waveRetire _ => none
  | .loadLanding _ _ _ => none
  | .storeLeavesQueue _ => none
  | .storeAck _ _ => none
  | .atomicPerform _ _ _ => none
  | .sendArrival _ => none
  | .sendOutcome _ => none
  | .sleepTimeout _ _ => none
  | .copyJobStart _ _ => none
  | .copyLanding _ _ _ _ _ => none
  | .copyJobComplete _ _ => none
  | .matrixCommandStart _ _ => none
  | .matrixCommandRetire _ _ => none
  | .matrixWatchdog _ => none
  | .sectionTimeout _ => none
  | .preemptRequest _ => none
  | .switchOutCapture _ => none
  | .clusterRestore _ => none
  | .pageReply _ => none
  | .pageMigration _ _ => none
  | .pinExpiry _ _ => none
  | .pagePromotion _ _ => none
  | .pageHash _ _ => none
  | .daymarkMerge _ _ => none
  | .taskDispatch _ => none
  | .lightPeriod => none
  | .batchSend _ _ => none
  | .buoyReport _ => none
  | .blockPlacement _ _ => none
  | .carveChangeStart _ => none
  | .carveChange _ => none
  | .donationRequest _ _ => none
  | .donationAnswer _ _ => none
  | .gangReport _ _ => none
  | .gangStart _ => none
  | .l2Resend _ => none
  | .taskEnd _ => none
  | .pixelWaveLaunch _ _ _ => none
  | .pathFill _ => none
  | .blendCommit _ => none
  | .lanternComposite _ _ _ => none
  | .clearJob _ _ => none
  | .splatJob _ _ => none
  | .copyClassJob _ _ => none
  | .encodeJob _ _ => none
  | .hostLaunch _ => none
  | .frame _ => none
  | .seal _ => none
  | .fork _ => none
  | .migrate _ => none
  | .snapshot _ => none
  | .snapshotHostCopy _ => none
  | .restore _ => none
  | .s2inv _ => none
  | .create _ => none
  | .destroy _ => none
  | .grant _ => none
  | .pooladd _ => none
  | .ringKeyRotation _ _ _ => none
  | .getMeasurements _ _ => none
  | .challenge _ => none
  | .lockInterfaceRequest _ => none
  | .tdispUnlock _ => none
  | .tdispError _ => none
  | .ideKm _ _ => none
  | .logKeyRequest _ => none
  | .lamplighterWalk _ => none
  | .tournSwitch => none
  | .thermalTrip _ => none
  | .tripClear _ => none
  | .monitorEvent _ _ _ => none
  | .pwrreq _ => none
  | .tourn _ => none
  | .ttrip _ => none
  | .cmdtail _ _ => none
  | .rpqtail _ _ => none
  | .prqhead _ _ => none
  | .registerWrite _ _ _ _ => none
  | .hostAccess _ _ _ => none
  | .flitSend _ _ _ => none
  | .flitReceive _ _ => none
  | .nak _ _ => none
  | .resendTimeout _ => none
  | .ptpMessage _ _ => none
  | .snapshotStep _ => none
  | .dieLost _ => none
  | .coldReset => none
  | .trep _ _ => none
  | .startInterfaceRequest _ => none
  | .linkTraining _ _ => none
  | .boostThrottle _ _ => none
  | .snapshotStepComplete _ => none
  | .spdmSecuredSession _ => none

/-- The 32-bit rows of the opcode table, mask, match and class, the most fixed bits first. A bare word names no
class (R99): the class of the row that fixes the most of its bits is taken, V before U before M before C. -/
def tableRows : List (Nat × Nat × Cls) := [
    (0xFFFFFFFF, 0x00000000, .c),
    (0xFFFFFFFF, 0x06000000, .c),
    (0xFFFFFFFF, 0x0E000000, .c),
    (0xFFFFFFFF, 0x10000000, .c),
    (0xFFFFFFFF, 0x12000000, .c),
    (0xFFFFFFFF, 0x48000001, .c),
    (0xFFFFFFFF, 0x4C000001, .c),
    (0xFFFFFFFC, 0x42000000, .c),
    (0xFE07FFFF, 0x24000000, .c),
    (0xFE03FFFF, 0x08000000, .c),
    (0xFE03FFFF, 0x0C000000, .c),
    (0xFE03FFFF, 0x48000000, .c),
    (0xFE03FFFF, 0x4C000000, .c),
    (0xFE03FFFF, 0x4C000002, .c),
    (0xFFFFFF00, 0x30000000, .c),
    (0xFFFFFF00, 0x32000000, .c),
    (0xFE00FFFF, 0x0A000000, .v),
    (0xFEFF00FF, 0x0A000001, .v),
    (0xFE01FFF8, 0x36000000, .c),
    (0xFE01FFF8, 0x38000000, .c),
    (0xFEE000FF, 0x08000000, .v),
    (0xFE0007FF, 0x34000000, .c),
    (0xFFFF0000, 0x40000000, .c),
    (0xFE0000FF, 0x00000000, .v),
    (0xFE0000FF, 0x04000000, .v),
    (0xFE0000FF, 0x88000000, .v),
    (0xFE0000FF, 0xB4000000, .v),
    (0xFE0000FF, 0xB6000000, .v),
    (0xFE0000FF, 0xB8000000, .v),
    (0xFE0000FF, 0x00000000, .u),
    (0xFE0000FF, 0x42000000, .u),
    (0xFE0000FF, 0x44000000, .u),
    (0xFFF80000, 0x0A000000, .c)] ++ [
    (0xFE00003F, 0x44000000, .c),
    (0xFE00003F, 0x46000000, .c),
    (0xFFF00000, 0x14000000, .c),
    (0xFE00000F, 0x4A000000, .c),
    (0xFE000000, 0x70000000, .v),
    (0xFE000000, 0x72000000, .v),
    (0xFE000000, 0x76000000, .v),
    (0xFE000000, 0x78000000, .v),
    (0xFE000000, 0x7A000000, .v),
    (0xFE000000, 0x80000000, .v),
    (0xFE000000, 0x82000000, .v),
    (0xFE000000, 0x84000000, .v),
    (0xFE000000, 0x86000000, .v),
    (0xFE000000, 0xA0000000, .v),
    (0xFE000000, 0xA2000000, .v),
    (0xFE000000, 0xA4000000, .v),
    (0xFE000000, 0xA8000000, .v),
    (0xFE000000, 0xAA000000, .v),
    (0xFE000000, 0xAC000000, .v),
    (0xFE000000, 0xAE000000, .v),
    (0xFE000000, 0xCA000000, .v),
    (0xFE000000, 0xCC000000, .v),
    (0xFE000000, 0x10000000, .u),
    (0xFE000000, 0x12000000, .u),
    (0xFE000000, 0x14000000, .u),
    (0xFE000000, 0x30000000, .u),
    (0xFE000000, 0x32000000, .u),
    (0xFE000000, 0x34000000, .u),
    (0xFE000000, 0x36000000, .u),
    (0xFE000000, 0x38000000, .u),
    (0xFE000000, 0x3A000000, .u),
    (0xFE000000, 0x3C000000, .u),
    (0xFE000000, 0x02000000, .c)]

/-- The words of a table instruction: its bits 32 by 32 from bit 0, the words above nbits zero. -/
def tableWords (nbits w : Nat) : List Word :=
  (List.range 4).map fun k => BitVec.ofNat 32 (w % 2 ^ nbits / 2 ^ (32 * k))

/-- The classes a table word may belong to, in the order tried. -/
def tableClasses (nbits w : Nat) : List Cls :=
  (if nbits = 32 then (tableRows.filter fun r => Nat.land r.1 w == r.2.1).map fun r => r.2.2 else []) ++ [.v, .u, .m, .c]

/-- Class and instruction of a table word. -/
def decodeTable (nbits w : Nat) : Option (Cls × Instr) :=
  (tableClasses nbits w).findSome? fun cl =>
    match decodeBytes cl ((tableWords nbits w).flatMap bytesOfWord) with
    | .ok i => some (cl, i)
    | .error _ => none

/-- The instruction the decoder reads from an instruction whose bits are w, numbered as the opcode table does.
(DESIGN CHOICE: log 74) -/
def decodeTableWord (nbits w : Nat) : Option Instr := (decodeTable nbits w).map (·.2)

end Sys2Proof
end

