-- ==== Sys2Proof/Machine/State.lean ====
section
/-! DEFINITION. Machine/State.lean: everything the spec gives the machine, as plain data, the reasons a step
stops, and the state after reset. -/

namespace Sys2Proof.Machine

/-- A 48-bit clause-header address (R62, R133). (DEDUCED: log 13) -/
abbrev CAddr := BitVec 48
/-- One 32-bit value for each lane, lane 0 first; a lane past the end reads 0. -/
abbrev Lanes := List Word
/-- A 64-byte line or any run of bytes. -/
abbrev Bytes := List Byte

/-- Where a byte lives: one key for each byte of the module's storage and of host memory (Machine/Mem.lean). -/
abbrev Key := Nat

/-- Why a slot is held (R31). -/
inductive Wait where
  | header | lookahead | scoreboard | barw | claim | cpyw | mwait | sleep | queue | send | regn | fence | release
  | launch | tile | tlbi | cflush | bara | mma | arm | ordb | orde | frame | collective | counter | copyLimit
  | matrixFull | page | atomicPath
  deriving DecidableEq, Repr

inductive Phase where
  | empty | run | trap
  deriving DecidableEq, Repr

/-- A clause as fetched (R98, R302): its header's address, the header, each instruction word with its extension
words, and the address of the next clause. -/
structure Clause where
  hpc : CAddr
  hdr : Header
  items : List (Word × List Word)
  next : CAddr
  /-- The header's counter tests have not yet held (R102). -/
  waiting : Bool
  deriving DecidableEq, Repr

/-- The main register the last V instruction wrote, its lanes and their older values (R115). -/
structure Stale where
  reg : Nat
  mask : Mask
  old : Lanes
  deriving DecidableEq, Repr

/-- A PC slot (R30, R31). -/
structure PcSlot where
  phase : Phase := .empty
  pc : CAddr := 0
  mask : Mask := 0
  join : Option CAddr := none
  clause : Option Clause := none
  pos : Nat := 0
  b0 : Lanes := []
  b1 : Lanes := []
  stale : Option Stale := none
  /-- Supervisor mode (R290). -/
  sup : Bool := false
  /-- Region-pending bit (R142). -/
  pend : Bool := false
  yieldDue : Bool := false
  wait : Option Wait := none
  deadline : Nat := 0
  /-- Lanes an instruction is still to be issued again for, once some of its lanes have been served (R190, R313). -/
  only : Option Mask := none
  /-- Page the instruction itself waits for, and how many mapped replies that wait has had (R312). -/
  asked : Option (Nat × Nat) := none
  /-- A part of a non-idempotent instruction has been done (R142). -/
  due : Bool := false
  /-- Write-path mark of a release that waits (R251). -/
  mark : Option Nat := none
  /-- Target of a transfer taken in the clause, where the slot goes on when the clause ends (R136). -/
  cont : Option CAddr := none
  /-- The instruction under way has been counted as issued (R116). -/
  counted : Bool := false
  /-- Firmware runs in this slot as the handler (R254, R310). -/
  firmware : Bool := false
  /-- Offset of the barrier object a BARW of the slot waits at (R46). -/
  bar : Option Nat := none
  deriving DecidableEq, Repr

/-- An entry of the reconvergence list (R33, R39). The tag names the entry for the loop frame that owns it. -/
structure REntry where
  merge : Bool
  pc : CAddr
  mask : Mask
  arrived : Mask
  join : Option CAddr
  tag : Nat
  deriving DecidableEq, Repr

/-- Frames above the base frame, innermost first (R62). A trap frame stands where a handler began (R70). -/
inductive Frame where
  | loop (mask : Mask) (s z : Nat) (exit : CAddr) (tag : Nat)
  | call (ret : CAddr) (rb : Nat) (mask : Mask) (depth : Nat)
  | trap (slot : SlotId) (rb : Nat) (mask : Mask)
  deriving DecidableEq, Repr

/-- Kernel header facts the wave runs under (R126) and its trap table (R292). -/
structure Kernel where
  base : DWord := 0
  entry : CAddr := 0
  matrix : Bool := false
  ordered : Bool := false
  mailboxes : Bool := false
  mbScalar : Bool := false
  mbFirst : Nat := 0
  mbCount : Nat := 0
  vregs : Nat := 0
  sregs : Nat := 0
  pad : Nat := 0
  stages : Nat := 1
  loopDepth : Nat := 0
  ring : Nat := 0
  handlers : List Nat := []
  deriving DecidableEq, Repr

/-- Who the wave is. -/
structure WId where
  die : Nat := 0
  core : Nat := 0
  slot : Nat := 0
  ctx : Nat := 0
  task : Nat := 0
  block : Nat := 0
  widx : Nat := 0
  stage : Nat := 0
  priv : DWord := 0
  kern : Kernel := {}
  /-- A march wave of start-up (R399). -/
  march : Bool := false
  /-- A pixel wave of the Awl (R344). -/
  pixel : Bool := false
  /-- A gang member waiting for its start tick (R282). -/
  held : Bool := false
  started : Bool := false
  deriving DecidableEq, Repr

/-- The register files of a wave (R57 to R61), its counts of granules, flags, send status, end of stream. -/
structure WRegs where
  v : Map Lanes := []
  o : Map Lanes := []
  p : Map Mask := []
  s : Map DWord := []
  k : BitVec 8 := 0
  /-- Granules held (R49). -/
  g : Nat := 0
  /-- Scalar granules held (R58). -/
  h : Nat := 0
  flags : BitVec 6 := 0
  sendst : BitVec 2 := 0
  eos : Bool := false
  deriving DecidableEq, Repr

/-- Control state of a wave (R29 to R38, R62). -/
structure WCtl where
  a : PcSlot := {}
  b : PcSlot := {}
  live : Mask := 0
  /-- On-chip part of the reconvergence list, oldest first; at most 6 while entries are spilled (R38). -/
  recon : List REntry := []
  /-- Tags of the spilled entries, oldest first; the entries stand in memory (R38). -/
  spilled : List Nat := []
  nextTag : Nat := 0
  frames : List Frame := []
  lc : Map Word := []
  ls : Map CAddr := []
  le : Map CAddr := []
  rb : Nat := 0
  /-- Instructions the wave has issued (R116). -/
  issued : Nat := 0
  /-- The slot that issued the last clause (R32). -/
  last : SlotId := .B
  deriving DecidableEq, Repr

/-- How a load's bytes become register values. -/
inductive LoadKind where
  | ld (sz : Nat)
  | sld (sz : Nat)
  | ldp (sz : Nat)
  | atom (op : Nat)
  | atomp (op : Nat)
  | tex (mode : Nat)
  | tld
  | tq
  deriving DecidableEq, Repr

/-- One lane of an access: lane, virtual address or pad offset, where its bytes lie, the label of its line and
whether an L1 may hold it (R238, R244). -/
structure LaneAcc where
  lane : Nat
  va : DWord
  keys : List Key
  label : Nat
  cached : Bool
  /-- Access is performed at the host (R255, R261). -/
  atHost : Bool := false
  /-- The intermediate page, for copy-on-write and access counts (R314, R322). -/
  page : Nat := 0
  deriving DecidableEq, Repr

/-- A 64-byte line an entry writes, its label, and whether the host performs the write (R244, R261). -/
structure LineRef where
  line : Nat
  label : Nat
  atHost : Bool
  deriving DecidableEq, Repr

/-- A long-latency instruction whose results have not all landed (R116, R191). -/
structure Load where
  id : Nat
  kind : LoadKind
  /-- Physical registers written, of the v, o or s file (R67). -/
  regs : List Nat
  isO : Bool
  /-- Active lanes of the instruction. -/
  lanes : Mask
  /-- Lanes still to land. -/
  todo : Mask
  accs : List LaneAcc
  la : Nat
  /-- Value of the wave's issue count just after its issue. -/
  at_ : Nat
  /-- Acquire scope, 0 for none (R195). -/
  acq : Nat
  pol : Nat
  /-- Atomics: operand lanes and old values once performed; textures: coordinates. -/
  args : List Lanes
  /-- Bytes read by lanes whose access is performed and has not landed, by lane; the old value for an atomic. A texture
  read is filed under lane + 96 · address. -/
  got : List (Nat × Bytes)
  /-- Texture descriptor bytes, and the side index entries read at issue, by address (R203, R355). -/
  desc : Bytes
  index : List (Nat × Word)
  deriving DecidableEq, Repr

/-- What a store-queue or write-path entry does (R194, R245). -/
inductive StoreKind where
  | write (cells : List Host.Cell)
  | atomic (op : Nat) (accs : List (LaneAcc × Nat))
  deriving DecidableEq, Repr

/-- An entry of a store queue or of a core's write path. -/
structure StoreE where
  wave : Nat
  ctx : Nat
  /-- The instruction it belongs to: number among the wave's accesses, in program order. -/
  group : Nat
  kind : StoreKind
  /-- Lines the entry writes. -/
  lines : List LineRef
  /-- A pad access, performed when it leaves the queue (R191). -/
  pad : Bool
  /-- No counter counts it: a spill of the module (R40) or a returning atomic (R191). -/
  silent : Bool
  /-- Order of entry into the write path (R245). -/
  pseq : Nat := 0
  /-- Bytes of each of its single-copy atomic accesses (R253). -/
  unit : Nat := 8
  /-- A block-scope STP, which no later read of the pad passes (R251). -/
  acq : Bool := false
  /-- Light period its packet is stamped with (R284). -/
  stamp : Nat := 0
  /-- An L2 slice has refused it: the time its hint has passed (R285). -/
  hint : Option Nat := none
  deriving DecidableEq, Repr

/-- What a lane that missed at stage 2 does again on its reply (R313); sys: an atomic of system scope (R255). -/
inductive MissKind where
  | fetch
  | load (id n : Nat)
  | store (group : Nat) (data : Bytes)
  | atomic (op group operand : Nat) (silent sys : Bool)
  | tex (id : Nat)
  deriving DecidableEq, Repr

/-- A lane that waits for a page reply (R312, R313): slot, mode, lane (96 for a clause fetch), the intermediate page,
how many mapped replies the wait has had, and its access. -/
structure MissAcc where
  slot : SlotId
  sup : Bool
  lane : Nat
  page : Nat
  replies : Nat
  va : DWord
  kind : MissKind
  deriving DecidableEq, Repr

/-- Memory-side state of a wave (R102, R191). -/
structure WMem where
  loads : List Load := []
  queue : List StoreE := []
  miss : List MissAcc := []
  nLd : Nat := 0
  nSt : Nat := 0
  nUa : Nat := 0
  nextId : Nat := 0
  deriving DecidableEq, Repr

/-- A trap to be entered (R290). -/
structure TrapReq where
  slot : SlotId
  lanes : Mask
  cause : Nat
  subcause : Nat
  pc : CAddr
  addr : DWord
  code : Word
  /-- Only the lanes of an access trapped (R190). -/
  part : Bool
  deriving DecidableEq, Repr

/-- The trap being handled: what SRET restores from the module itself (R148, R296). -/
structure TrapRun where
  req : TrapReq
  /-- The slot as it stood at the trap. -/
  slot : PcSlot
  /-- o0 to o7 of the trapping lanes. -/
  o : Map Lanes
  /-- Length of the reconvergence list at entry (R291). -/
  depth : Nat
  /-- Frame stack at entry. -/
  frames : List Frame
  firmware : Bool
  /-- Bytes an emulated load has read, by lane (R254). -/
  bytes : List (Nat × List Byte)
  deriving DecidableEq, Repr

structure WTrap where
  xcause : DWord := 0
  xpc : DWord := 0
  xaddr : DWord := 0
  xmasklo : DWord := 0
  xmaskhi : DWord := 0
  xframe : DWord := 0
  xcode : DWord := 0
  xscratch0 : DWord := 0
  xscratch1 : DWord := 0
  /-- Array-test registers (R400). -/
  tsel : DWord := 0
  trow : DWord := 0
  running : Option TrapRun := none
  queue : List TrapReq := []
  /-- Page of the trap frame that entry waits for, and its mapped replies (R312). -/
  asked : Option (Nat × Nat) := none
  /-- Pending overwrite: REG code of the first discarded register (R73). -/
  overwrite : Option (BitVec 9) := none
  /-- Pending matrix watchdog trap (R225). -/
  watchdog : Bool := false
  deriving DecidableEq, Repr

/-- A closed batch of copy jobs (R212, R216). -/
structure Batch where
  n : Nat
  jobs : List Nat
  left : Nat
  cause : Nat
  addr : DWord
  barLine : Bool
  /-- Virtual destination ranges, for CPYW (R214). -/
  ranges : List (DWord × Nat)
  deriving DecidableEq, Repr

structure WCopy where
  pending : List Nat := []
  /-- Outcomes of pending jobs that completed before their batch was closed: job, cause, address, barrier line. -/
  done : List (Nat × Nat × DWord × Bool) := []
  ranges : List (Nat × DWord × Nat) := []
  counter : Word := 0
  batches : List Batch := []
  deriving DecidableEq, Repr

structure WMat where
  qa : List Lanes := []
  qz : List Lanes := []
  /-- Unread fault records, oldest first: code and command id (R225). -/
  faults : List (Nat × BitVec 8) := []
  overflow : Bool := false
  deriving DecidableEq, Repr

/-- A ticket of a pixel wave's lane (R234, R344). -/
structure Ticket where
  px : Nat
  py : Nat
  seq : DWord
  /-- Descriptor address of the raster state's target (R341). -/
  tgt : DWord
  deriving DecidableEq, Repr

/-- A segment of a path, 24.8 coordinates (R232). -/
inductive Seg where
  | move (x y : Int)
  | line (x y : Int)
  | quad (cx cy x y : Int)
  | cubic (c1x c1y c2x c2y x y : Int)
  deriving DecidableEq, Repr

/-- A render-target descriptor as read (R338). -/
structure Target where
  va : DWord
  base : DWord
  width : Nat
  height : Nat
  pitch : Nat
  format : Nat
  blend : Nat
  paint : Word
  deriving DecidableEq, Repr

/-- A raster-state entry as read (R337). -/
structure Raster where
  spillSz : Nat
  spill : DWord
  lblend : Nat
  pcarve : Nat
  pprivsz : Nat
  pargn : Nat
  ppriv : DWord
  pargs : DWord
  pkern : DWord
  tgt : Target
  deriving DecidableEq, Repr

/-- A feed item held until the region ends (R233). -/
inductive FeedItem where
  | prim (rs : Raster) (words : List Word) (seq : DWord)
  | splat (rs : Raster) (words : List Word) (depth : Word) (seq : DWord)
  | path (tgt : Target) (segs : List Seg) (eo : Bool) (seq : DWord)
  | skip (seq : DWord)
  | blend (tgt : Target) (mode : Nat) (px py : Nat) (seq : DWord) (rgba : List Word)
  deriving DecidableEq, Repr

structure WFeed where
  qg : List Lanes := []
  ql : List Lanes := []
  path : List Seg := []
  segs : Nat := 0
  held : List FeedItem := []
  horizon : DWord := 0
  highest : DWord := 0
  /-- Tickets by lane. -/
  tickets : Map Ticket := []
  section_ : Mask := 0
  /-- Pre-emption requested while a section was open: time of the request in clk (R234). -/
  deferred : Option Nat := none
  deriving DecidableEq, Repr

/-- Scoreboard state of a mailbox register (R73). -/
inductive MbState where
  | local_ | armed | full
  deriving DecidableEq, Repr

structure Mailbox where
  st : MbState
  /-- The wave has executed REGN since the ARM (R74). -/
  regn : Bool
  deriving DecidableEq, Repr

/-- A send on its way (R228): slot, lanes, predicate, eyelet, value. -/
structure Send where
  slot : SlotId
  lanes : Mask
  pd : BitVec 5
  cap : DWord
  vec : Lanes
  scal : DWord
  outcome : Option (BitVec 2)
  deriving DecidableEq, Repr

/-- What REGN latched (R141, R233); with a handler under way, the trap it handles. (DEDUCED: log 56) -/
structure Latch where
  slot : SlotId
  regs : WRegs
  ctl : WCtl
  feed : WFeed
  trap : WTrap
  deriving DecidableEq, Repr

/-- A resident wave. -/
structure Wave where
  id : WId := {}
  regs : WRegs := {}
  ctl : WCtl := {}
  mem : WMem := {}
  trap : WTrap := {}
  copy : WCopy := {}
  mat : WMat := {}
  feed : WFeed := {}
  /-- Mailbox registers that are not LOCAL, by REG code (R75). -/
  mb : Map Mailbox := []
  send : Option Send := none
  latch : Option Latch := none
  /-- clk count at the last REGN, or at wave start (R298). -/
  regnClk : Nat := 0
  /-- A switch-out of the wave's cluster has been asked for. -/
  leaving : Bool := false
  deriving DecidableEq, Repr

/-- A block (R41 to R45). -/
structure Block where
  die : Nat
  core : Nat
  ctx : Nat
  task : Nat
  cluster : Nat
  rank : Nat
  cx : Nat
  cy : Nat
  cz : Nat
  waves : List Nat
  /-- Pad allocation: offset in the core's pad, bytes addressable, bytes with rings. -/
  padOfs : Nat
  padLen : Nat
  padAll : Nat
  /-- Offsets of valid barrier objects (R45). -/
  valid : List Nat
  /-- Rings 1 to n - 1: entries of 384 bytes, oldest first, by ring number (R42). -/
  rings : Map (List Lanes)
  /-- The task's vault range on the core: offset and length (R279). -/
  vofs : Nat
  vlen : Nat
  /-- The carve its core has for it (R55). -/
  carve : Nat
  deriving DecidableEq, Repr

/-- What a held line was fetched as: data, code (R302), or index entries of textures (R356). -/
inductive LineUse where
  | data | code | index
  deriving DecidableEq, Repr

/-- A line of a core's L1 or of its index cache (R243, R244, R356). -/
structure L1Line where
  line : Nat
  label : Nat
  data : Bytes
  use : LineUse
  deriving DecidableEq, Repr

/-- A copy job (R207 to R211). -/
structure CopyJob where
  id : Nat
  wave : Nat
  ctx : Nat
  task : Nat
  block : Nat
  src : DWord
  dst : DWord
  ssp : Nat
  dsp : Nat
  scoreOrRank : Nat
  dcoreOrRank : Nat
  len : Nat
  bv : Bool
  bar : Nat
  pol : Nat
  /-- Destination bytes in flight once started: the source as read. -/
  running : Option Bytes
  /-- Byte offsets not yet landed, as ranges (offset, length). -/
  left : List (Nat × Nat)
  cause : Nat
  addr : DWord
  barLine : Bool
  /-- Intermediate page a stage-2 miss waits for, and its mapped replies (R312). -/
  missed : Option (Nat × Nat)
  deriving DecidableEq, Repr

inductive MatKind where
  | mac (apad bofs k : Nat) (fromPad : Bool) (fa fb : Fmt) (bla blb : Nat) (sca scb : Option Nat)
  | zero
  | drain
  | ldb (src : DWord) (bofs len : Nat)
  | rel
  deriving DecidableEq, Repr

/-- An unretired matrix command (R218, R223). -/
structure MatCmd where
  uid : Nat
  wave : Nat
  id : BitVec 8
  preds : List Nat
  kind : MatKind
  am : Nat
  slot : Nat
  p0 : BitVec 8
  /-- Number of the unretired command P0 named at issue. -/
  p0uid : Option Nat
  started : Bool
  /-- Its slot has been resolved or taken (R223). -/
  placed : Bool
  /-- qa entries taken so far; drain entries still to queue. -/
  took : List Lanes
  left : Nat
  fault : Nat
  missed : Option (Nat × Nat)
  deriving DecidableEq, Repr

/-- An owned accumulator slot (R223). -/
structure AccSlot where
  owner : Nat
  lastId : BitVec 8
  /-- Number of that command. -/
  lastUid : Nat
  data : List Word
  deriving DecidableEq, Repr

/-- A wave's claim waiting in a core's queue (R50). -/
structure Claim where
  wave : Nat
  slot : SlotId
  granules : Nat
  deriving DecidableEq, Repr

/-- A switched-out record of a wave slot (R299). -/
structure OutRec where
  slot : Nat
  ctx : Nat
  genV : BitVec 6
  genS : BitVec 6
  image : Nat
  windex : Nat
  deriving DecidableEq, Repr

/-- A core (R14, R16). -/
structure Core where
  usable : Bool := true
  carve : Nat := 0
  /-- Carve change: new carve, the block that asked (queue stamp), time (R55, R280). -/
  carveTo : Option (Nat × Nat) := none
  /-- Free granules F (R50). -/
  free : Nat := 512
  claims : List Claim := []
  l1 : List L1Line := []
  path : List StoreE := []
  pathSeq : Nat := 0
  jobs : List CopyJob := []
  nextJob : Nat := 0
  cmds : List MatCmd := []
  nextUid : Nat := 0
  acc : Map AccSlot := []
  /-- clk of the last start or retirement of a command (R225). -/
  matClk : Nat := 0
  genV : Map (BitVec 6) := []
  genS : Map (BitVec 6) := []
  records : List OutRec := []
  /-- Vault ranges held: context, offset, length, and the block each was granted with (R279). -/
  vault : List (Nat × Nat × Nat × Nat) := []
  deriving DecidableEq, Repr

/-- A core pair: what start-up found (R394, R395, R401). -/
structure Pair where
  status : Word := 0
  repair : List Word := []
  uniformOk : Bool := true
  /-- Raw rows written by the march wave, by array, bank and row (R400, R401). -/
  rows : Map DWord := []
  /-- Banks with a failing row that found the table full (R394, R402). -/
  lostBanks : List Nat := []
  deriving DecidableEq, Repr

/-- A cached translation (R309): context, generation, the virtual address it was filled for, and the two leaves it
was made from with the log2 of the bytes each maps. -/
structure TlbE where
  ctx : Nat
  gen : BitVec 8
  va : Nat
  leaf1 : DWord
  shift1 : Nat
  leaf2 : DWord
  shift2 : Nat
  deriving DecidableEq, Repr

/-- A cluster in a Buoy's queue of unstarted blocks (R277, R281). -/
structure Pending where
  stamp : Nat
  task : Nat
  index : Nat
  since : Nat
  deriving DecidableEq, Repr

/-- A page request pending at a die (R311). -/
structure PageReq where
  rid : Nat
  ctx : Nat
  page : Nat
  kind : Nat
  origin : Nat
  written : Bool
  deriving DecidableEq, Repr

/-- A Daymark entry (R319). -/
structure DayEntry where
  hash : BitVec 128
  ref : Nat
  dom : Nat
  frame : Nat
  bk : Bool
  back : DWord
  spill : Bool
  deriving DecidableEq, Repr

/-- A Buoy's last report (R277). -/
structure Report where
  slots : Nat
  granules : Nat
  byCarve : List (Nat × Nat × Nat)
  deriving DecidableEq, Repr

/-- A die. -/
structure Die where
  usable : Bool := true
  lost : Bool := false
  /-- Arithmetic clock in MHz (R23) and the clk count. -/
  mhz : Nat := 2200
  clk : Nat := 0
  /-- Thousandths of the clk under way. -/
  frac : Nat := 0
  /-- A trip condition holds (R368). -/
  trip : Bool := false
  /-- clk at which each bit of MONEV was last set (R397). -/
  monAt : Map Nat := []
  queue : List Pending := []
  nextStamp : Nat := 0
  report : Report := ⟨0, 0, []⟩
  reportAt : Nat := 0
  idleSince : Nat := 0
  /-- A donation request of this Buoy is out: peer asked (R281). -/
  asked : Option (Nat × Nat) := none
  /-- Clusters travelling to this die. -/
  incoming : List Pending := []
  /-- Translations the die's cores and walkers may still use (R309). -/
  tlb : List TlbE := []
  reqs : List PageReq := []
  nextRid : Nat := 0
  /-- Daymark buckets, by bucket number, entries in bucket order (R319). -/
  day : Map (List DayEntry) := []
  /-- The last merge on a bucket: clk and requesting die (R332). -/
  dayOps : Map (Nat × Nat) := []
  /-- Retirement map: old frame to new frame (R326). -/
  retireMap : Map Nat := []
  /-- Flits sent, by source, context and light period (R284). -/
  flits : List (Nat × Nat × Nat × Nat) := []
  deriving DecidableEq, Repr

/-- A context (R330), live or terminated. -/
structure Ctx where
  fn : Nat
  home : Nat
  terminated : Bool := false
  /-- The termination record: first cause and TRAP code (R294, R301). -/
  termCause : Nat := 0
  termCode : Word := 0
  sealed : Bool := false
  migrating : Bool := false
  /-- A SNAPSHOT or step copy of the context waits for its clusters to leave (R386, R389). -/
  snapping : Bool := false
  skey : Nat
  dom : Option Nat
  dkey : Nat
  /-- Number of the eyelet key among the keys the module has made; none once it has been destroyed (R75, R301). -/
  ekey : Option Nat
  forged : Nat := 0
  nextLaunch : Nat := 1
  /-- Free frames of the pool, device physical addresses of 4 KiB (R152, R377). -/
  pool : List Nat := []
  /-- Pool frames in use as pages or tables, with the intermediate page they took, if any. -/
  poolUsed : List (Nat × Option Nat) := []
  /-- Overlay frames by intermediate page (R322). -/
  overlay : Map Nat := []
  /-- Shared frames that its leaves hold a reference on, by intermediate page (R320, R323). -/
  shared : Map Nat := []
  /-- DRR credit (R276). -/
  credit : Int := 0
  /-- Flash log: previous seal, number of the key (R370). -/
  lastSeal : BitVec 128 := 0
  deriving DecidableEq, Repr

inductive Tdisp where
  | unlocked | locked | run | error
  deriving DecidableEq, Repr

/-- An interface function (R360 to R367, R380). -/
structure Fn where
  tdisp : Tdisp := .unlocked
  errReason : Nat := 0
  digest : Option (BitVec 384) := none
  ringHalt : Nat := 0
  /-- Ring key in force and rotations not yet reached: key and index (R367). -/
  key : Option (BitVec 256) := none
  rotations : List (BitVec 256 × Word) := []
  session : Bool := false
  mutualSession : Bool := false
  /-- Context ids whose registers the lock digest covers, from the accepted lock on (R360). -/
  lockSet : List Nat := []
  /-- The command at the ring's head has been accepted, at this time, and waits; and the page it waits for with its
  mapped replies (R312, R376, R390). -/
  taken : Option Nat := none
  asked : Option (Nat × Nat) := none
  deriving DecidableEq, Repr

/-- A task card's fields (R267). -/
structure Card where
  kernel : DWord
  cls : Nat
  gang : Bool
  waves : Nat
  blocks : Nat
  carve : Nat
  dies : Nat
  tiles : List (DWord × Nat)
  gx : Nat
  gy : Nat
  gz : Nat
  vofs : Nat
  vlen : Nat
  argn : Nat
  privsz : Nat
  args : DWord
  priv : DWord
  stagemap : DWord
  compl : DWord
  gangId : Nat
  gangMembers : Nat
  tick : Nat
  deriving DecidableEq, Repr

inductive TaskSt where
  | waiting
  | eligible (at_ : Nat)
  | dispatched
  deriving DecidableEq, Repr

/-- A task of the ready pool (R275) until it ends. -/
structure Task where
  ctx : Nat
  launch : Nat
  card : Card
  st : TaskSt
  /-- Frame number the task belongs to, with the record under way (R370). -/
  frame : Option Nat := none
  /-- Clusters sent to Buoys so far; engine jobs ended. -/
  sent : Nat := 0
  jobsEnded : List Nat := []
  die : Nat := 0
  /-- First fault of its engine work (R274). -/
  fault : Nat := 0
  /-- Status it must end with, if already decided, and its cause. -/
  status : Option (Nat × Nat) := none
  /-- Gang: when all its waves had been placed, or its job loaded (R282); started. -/
  residentAt : Option Nat := none
  gangStarted : Bool := false
  /-- When it ended, before its release, its records and its completion record (R273, R370). -/
  ended : Option Nat := none
  /-- Intermediate page its reservation, placement or end waits for. -/
  missed : Option (Nat × Nat) := none
  deriving DecidableEq, Repr

/-- A Flash log frame under way (R370). -/
structure LogFrame where
  ctx : Nat
  number : Word
  tin : Nat
  tstart : Option Nat
  trend : Option Nat
  tenc0 : Option Nat
  tenc1 : Option Nat
  encTask : Option Nat
  tasks : List Nat
  status : Nat
  written : Bool
  deriving DecidableEq, Repr

/-- A released primitive whose pixel wave is not yet placed (R341, R343). -/
structure Prim where
  ctx : Nat
  task : Nat
  die : Nat
  rs : Raster
  words : List Word
  seq : DWord
  order : Nat
  /-- Pixel quads still to be launched: the top-left pixel of each. -/
  quads : Option (List (Nat × Nat))
  deriving DecidableEq, Repr

structure PathItem where
  ctx : Nat
  task : Nat
  tgt : Target
  segs : List Seg
  eo : Bool
  seq : DWord
  order : Nat
  /-- Coverage once filled, by pixel, with commits still due (R346, R348). -/
  cover : Option (List (Nat × Nat × Nat))
  deriving DecidableEq, Repr

/-- A released splat (R351, R352). -/
structure SplatItem where
  ctx : Nat
  task : Nat
  rs : Raster
  words : List Word
  depth : Word
  seq : DWord
  order : Nat
  /-- Job of a class-2 task it came from (R358). -/
  job : Option Nat
  deriving DecidableEq, Repr

/-- A draw of splats on a target, with the tiles still to composite (R352, R353). -/
structure Draw where
  ctx : Nat
  task : Nat
  rs : Raster
  number : Word
  done : List (Nat × Nat)
  job : Option Nat
  /-- Release order of its first splat (R341). -/
  order : Nat
  deriving DecidableEq, Repr

/-- A BLND commit waiting for its turn (R341, R359). -/
structure Commit where
  ctx : Nat
  task : Nat
  die : Nat
  tgt : Target
  mode : Nat
  px : Nat
  py : Nat
  seq : DWord
  rgba : List Word
  order : Nat
  wave : Nat
  deriving DecidableEq, Repr

/-- A tile of a draw with runs in its raster state's spill area: the places of its runs there, and the release orders of
the splats it has dropped (R352). -/
structure SpillTile where
  ctx : Nat
  task : Nat
  tgt : DWord
  number : Word
  job : Option Nat
  tx : Nat
  ty : Nat
  area : DWord
  runs : List Nat
  dropped : List Nat
  deriving DecidableEq, Repr

structure Gfx where
  prims : List Prim := []
  paths : List PathItem := []
  splats : List SplatItem := []
  draws : List Draw := []
  spills : List SpillTile := []
  commits : List Commit := []
  /-- Tickets of placed pixel waves not yet settled: task, pixel, sequence, wave, lane (R341). -/
  tickets : List (Nat × Nat × Nat × DWord × Nat × Nat) := []
  nextOrder : Nat := 0
  deriving DecidableEq, Repr

/-- A flit its sender keeps until it is acknowledged: when it was last sent, and how often again (R383, R384). -/
structure LinkFlit where
  flit : Flit
  sentAt : Nat
  resends : Nat
  /-- clk of its last resend (R391). -/
  resentAt : Option Nat := none
  deriving DecidableEq, Repr

/-- One end of a link: bridge links 0 to 5, one for each pair of dies in ascending order, and Wenzil link ports 6 to 13
(R12, R383 to R385). -/
structure Link where
  up : Bool := false
  key : Option (BitVec 256) := none
  sendSeq : BitVec 10 := 0
  window : List LinkFlit := []
  expect : BitVec 10 := 0
  heldFlits : List Flit := []
  /-- Payloads delivered in order and not yet consumed. -/
  delivered : List (List Byte × BitVec 6) := []
  /-- Last ACK field and NAK to send. -/
  ackOut : BitVec 10 := 1023
  nakOut : Option (BitVec 10) := none
  offset : Int := 0
  aligned : Bool := true
  /-- Flits received, modulo 8: a group is 8 flits; and whether the tag of the group under way verifies (R364). -/
  rx : BitVec 3 := 0
  groupOk : Bool := true
  /-- The grandmaster's clock identity as the other end names it (R385). -/
  master : Option DWord := none
  deriving DecidableEq, Repr

/-- A saved cluster (R297 to R300): blocks, waves as their form records them, pads, vaults, accumulators, unstarted
commands. -/
structure Image where
  ctx : Nat
  cluster : Nat
  task : Nat
  /-- Its context has migrated: it is placed anew (R329). -/
  moved : Bool
  blocks : List (Nat × Block)
  waves : Map Wave
  pads : List (Nat × Bytes)
  vaults : List (Nat × Nat × Bytes)
  accs : List (Nat × Nat × AccSlot)
  cmds : List (Nat × MatCmd)
  deriving DecidableEq, Repr

/-- A switch-out under way (R297): the captured waves, and the granules each of them holds until it leaves (R50). -/
structure Leaving where
  ctx : Nat
  cluster : Nat
  captured : List Nat
  held : List (Nat × Nat)
  reason : Nat
  deriving DecidableEq, Repr

/-- A page of a session as a snapshot holds it (R386): intermediate page, leaf with its level, the bytes of a private or
overlay page, and the Daymark hash that names a shared one. -/
structure SnapPage where
  page : Nat
  leaf : DWord
  lvl : Nat
  data : Bytes
  overlay : Bool
  hash : Option (BitVec 128)
  deriving DecidableEq, Repr

/-- A snapshot (R386 to R389): what re-creates a session, and how far its copies are. -/
structure Snap where
  ix : Nat
  ctx : Nat
  step : Nat
  tcap : Nat
  store : DWord
  fn : Nat
  seq : DWord
  cpl : DWord
  was : Ctx
  controls : List (Nat × DWord)
  pages : List SnapPage
  images : List Image
  hostDone : Bool
  deriving DecidableEq, Repr

/-- Bookkeeping of an intermediate page (R314, R315, R318). -/
structure PageInfo where
  ctx : Nat
  page : Nat
  /-- Times of the home die's last 256 accesses, newest first (R314). -/
  times : List Nat
  migrations : List Nat
  pinUntil : Nat
  /-- Hashing under way: start time and hash (R318, R321). -/
  hashed : Option (Nat × BitVec 128)
  deriving DecidableEq, Repr

/-- Translation-side state of the module. -/
structure Vm where
  /-- Granted 2 MiB units: unit number and owning function (R308). -/
  grants : Map Nat := []
  /-- Retired frames (R326). -/
  retired : List Nat := []
  pages : List PageInfo := []
  /-- DMBUCKETS as start-up read it (R317). -/
  buckets : Nat := 20
  /-- Key ids in use (R324): id, and whether it is a domain's. -/
  keys : Map Bool := []
  domains : Map Nat := []
  /-- Number of each domain's key among the keys the module has made. -/
  domKeys : Map Nat := []
  /-- Lines whose copy in memory fails: line, 0x0D or 0x0E (R326). -/
  bad : Map Nat := []
  /-- Bytes of pads, vaults and home L2s that an uncorrectable error has reached and nothing has written since (R247). -/
  soft : List Key := []
  /-- Lines whose memory copy is older than the home L2, with the bytes memory holds (R153, R261). -/
  dirty : Map Bytes := []
  nextKey : Nat := 0
  /-- Time of the last write to a 4 KiB frame (R318). -/
  lastWrite : Map Nat := []
  /-- Key id each line of device memory was last written under (R325). -/
  lineKey : Map Nat := []
  /-- Bias in force of the intermediate pages accessed since their last stage-2 invalidate (R373), by page + 2^36 times
  the context; another page follows its leaf. -/
  bias : Map Bool := []
  /-- Frames of granted units that have gone back to the firmware reserve (R323). -/
  reserve : List Nat := []
  deriving DecidableEq, Repr

/-- Scheduling state of the module. -/
structure Sched where
  tasks : Map Task := []
  nextTask : Nat := 0
  /-- Gang reports: gang, tick, members reported resident (R282). -/
  gangs : List (Nat × Nat × List Nat) := []
  period : Nat := 0
  images : Map Image := []
  nextImage : Nat := 0
  leaving : List Leaving := []
  nextCluster : Nat := 0
  nextBlock : Nat := 0
  frames : List LogFrame := []
  deriving DecidableEq, Repr

/-- A message the module has sent to the host over SPDM or TDISP (R360 to R371). -/
inductive OutMsg where
  | measurements (fn block : Nat) (body : Bytes) (ecdsa lms trailer : Nat)
  | challengeAuth (nonce : BitVec 256) (body : Bytes) (ecdsa lms trailer : Nat)
  /-- An SPDM or TDISP request is turned away. -/
  | error
  /-- A signed request is answered with ERROR, code Unspecified (R365). -/
  | errorUnspecified
  /-- A host access completes with Unsupported Request status (R6). -/
  | unsupported
  | logKey (ctx : Nat) (key : BitVec 256)
  | ringKey (fn : Nat) (key : BitVec 256)
  | hostData (data : Bytes)
  deriving DecidableEq, Repr

structure Trust where
  out : List OutMsg := []
  /-- Signatures the LMS key has made (R365). -/
  lms : Nat := 0
  /-- Selective IDE streams of the PCIe port: the function each serves, and its key (R364). -/
  ide : Map (Nat × BitVec 256) := []
  /-- Key of the PCIe port's IDE link stream, and of the CXL port by direction (R364). -/
  ideLink : Option (BitVec 256) := none
  cxlIde : Map (BitVec 256) := []
  boot : Option (BitVec 384) := none
  firmware : Option (BitVec 384) := none
  microcode : List (BitVec 384) := []
  /-- Tournament switches due, oldest first: tick and new TOURN (R368). -/
  tournAt : List (Nat × Word) := []
  /-- The Lamplighter's pass: the functions it has still to compare, ascending (R362). -/
  pass : List Nat := []
  /-- Start-up step reached; 6 once the host port is open (R393). -/
  boot_step : Nat := 0
  snaps : List Snap := []
  nextSnap : Nat := 0
  /-- Number of the log key of every context id since its last CREATE or FORK (R371). -/
  logKeys : Map Nat := []
  /-- A step copy is under way: step number and dies that copied. -/
  stepRun : Option (Nat × List Nat) := none
  stepNo : Nat := 0
  stepAt : Nat := 0
  /-- Completed buddy copies: die, slot, step, snaps. -/
  buddies : List (Nat × Nat × Nat × List Snap) := []
  driver : Nat := 0
  deriving DecidableEq, Repr

/-- What a turn does: a slot of a wave takes its next action, or an event happens. -/
inductive Act where
  | slot (w : Nat) (x : SlotId)
  | event (i : Instr)
  deriving DecidableEq, Repr, Inhabited

/-- A turn of one agent, dt nanoseconds after the turn before it. -/
structure Turn where
  dt : Nat
  act : Act
  deriving DecidableEq, Repr, Inhabited

/-- The machine. -/
structure State where
  /-- Timebase in ns (R26). -/
  time : Nat
  /-- The model's own: turns waiting, a counter of free values, the slot whose instruction exec runs. -/
  agenda : List Turn
  fresh : Nat
  cur : Option (Nat × SlotId)
  /-- Every byte of storage, by key; strictly rising, no entry 0. -/
  mem : List Host.Cell
  /-- Module registers whose value is not their reset value, by register number (Machine/Regs.lean). -/
  regs : Map DWord
  waves : Map Wave
  blocks : Map Block
  cores : Map Core
  pairs : Map Pair
  dies : Map Die
  ctxs : Map Ctx
  /-- Generations of context ids (R312), 0 where absent. -/
  ctxGen : Map (BitVec 8)
  fns : Map Fn
  links : Map Link
  vm : Vm
  sched : Sched
  gfx : Gfx
  trust : Trust
  deriving DecidableEq, Repr

/-- Why the machine stops with a fault. -/
inductive Fault where
  /-- Raised by a host access to a device address past the memory of its die (R304: no byte is named there). Safe:
  the machine stops where the spec names no outcome. -/
  | noSuchByte (pa : Nat)
  deriving DecidableEq, Repr

/-- Why an instruction has no outcome in the model. -/
inductive Refusal where
  /-- Raised by the dispatch for an instruction without a meaning yet. Safe: no claim about it can be proved. -/
  | notModelled (mnemonic : String)
  deriving DecidableEq, Repr

/-- The machine right after cold reset has been applied and before start-up has run (R393): every register at its
reset value, nothing placed, and the start-up event first on the agenda. (DESIGN CHOICE: log 1, 2, 4) -/
def State.reset : State where
  time := 0
  agenda := [⟨0, .event .coldReset⟩]
  fresh := 0
  cur := none
  mem := []
  regs := []
  waves := []
  blocks := []
  cores := []
  pairs := []
  dies := []
  ctxs := []
  ctxGen := []
  fns := []
  links := []
  vm := {}
  sched := {}
  gfx := {}
  trust := {}

end Sys2Proof.Machine
end

