-- ==== Sys2Proof/Config.lean ====
section
/-! DEFINITION. Config.lean: the values the spec leaves open and the secrets and fuses of the part. Each is a constant
without a body, so that nothing can be proved of its value; a statement that holds, holds for every value. -/

namespace Sys2Proof.Config

/-- Which agent moves next when the agenda is empty (R25, R97). (DESIGN CHOICE: log 1) -/
opaque arbiter : Nat → Machine.Turn
/-- A free choice between two outcomes the spec allows. (DESIGN CHOICE: log 3) -/
opaque freeBit : Nat → Bool
/-- A free number. (DESIGN CHOICE: log 3, 8) -/
opaque freeNat : Nat → Nat
/-- The n-th key the module makes inside itself (R75, R324, R371). (DESIGN CHOICE: log 7) -/
opaque moduleKey : Nat → BitVec 256
/-- Final-test counts of process monitor n of a die (R396). (DESIGN CHOICE: log 6) -/
opaque procFuse : Nat → Nat → BitVec 24
/-- Bits of a physical array row that are stuck at 0 and at 1: pair, core, kind, bank, row (R393, R401).
(DESIGN CHOICE: log 5, 75) -/
opaque stuck0 : Nat → Nat → Nat → Nat → Nat → Word
/-- (DESIGN CHOICE: log 5, 75) -/
opaque stuck1 : Nat → Nat → Nat → Nat → Nat → Word
/-- The pair's uniform unit fails its own check (R395). (DESIGN CHOICE: log 5, DEDUCED: log 72) -/
opaque uniformFails : Nat → Bool
/-- Digest of the boot ROM, of the firmware image and of each die's microcode (R366, R393). (DESIGN CHOICE: log 73) -/
opaque bootDigest : BitVec 384
/-- (DESIGN CHOICE: log 73) -/
opaque firmwareDigest : BitVec 384
/-- (DESIGN CHOICE: log 73) -/
opaque microcodeDigest : Nat → BitVec 384
/-- The firmware image's signatures verify; microcode loads; a die's memory channels train (R393). -/
opaque firmwareSigned : Bool
opaque microcodeLoads : Bool
opaque memoryTrains : Nat → Bool
/-- RSVLIM of a die as firmware sets it (R404). (DESIGN CHOICE: log 6) -/
opaque rsvlim : Nat → BitVec 16
/-- The bytes of firmware's march kernel, by address in the march wave's code (R399). (DEDUCED: log 72) -/
opaque marchCode : Nat → Byte
/-- Power needed to hold a tournament clock, as firmware measures it, in W (R24). (DEDUCED: log 70) -/
opaque powerNeed : BitVec 2 → BitVec 11
/-- The ECDSA P-384 and LMS signatures over a transcript, and whether a signature verifies (R365, R387).
(DEDUCED: log 71) -/
opaque ecdsaSign : List Byte → Nat
/-- (DEDUCED: log 71) -/
opaque lmsSign : Nat → List Byte → Nat
/-- (DESIGN CHOICE: log 73) -/
opaque signatureOk : List Byte → List Byte → Bool
/-- Engines of a die beside the first for a class whose number the spec does not give (R276). (DESIGN CHOICE: log 48) -/
opaque moreEngines : Nat → Nat → Nat
/-- The bitstream an encode engine makes of a frame and its quantiser (R382). (DESIGN CHOICE: log 45) -/
opaque bitstream : Bool → Nat → Nat → Nat → List Byte → List Byte
/-- The shard of a snapshot for a die, and what the shards under a manifest mean (R386, R387).
(DESIGN CHOICE: log 60) -/
opaque shard : Machine.Snap → Nat → List Byte
/-- (DESIGN CHOICE: log 60) -/
opaque unshard : List Byte → List (List Byte) → Option Machine.Snap
/-- The module's IEEE 1588 clock identity (R385). (DEDUCED: log 69, DESIGN CHOICE: log 73) -/
opaque clockId : DWord
/-- Ciphertext never leaves the module's model; a link flit's cipher tag is an input of its event (R364).
(DESIGN CHOICE: log 7) -/
opaque linkKey : Nat → BitVec 256

end Sys2Proof.Config
end

