-- ==== Sys2Proof/Machine/Regs.lean ====
section
/-! DEFINITION. Machine/Regs.lean: the register maps behind BAR0 (R6 to R8): which registers there are, their access,
their reset values, and what a read returns. -/

namespace Sys2Proof.Machine

/-- Access codes (R7). -/
inductive Access where
  | ro | rw | w1c | rl
  deriving DecidableEq, Repr

/-- A register of a map: access, 64 bits wide or 32, reset value, and the bits it holds. -/
structure RegInfo where
  access : Access
  wide : Bool
  reset : Nat
  mask : Nat
  deriving DecidableEq, Repr

def bits (hi lo : Nat) : Nat := 2 ^ (hi + 1) - 2 ^ lo
def r32 (a : Access) (reset mask : Nat) : Option RegInfo := some ⟨a, false, reset, mask⟩
def r64 (a : Access) (reset mask : Nat) : Option RegInfo := some ⟨a, true, reset, mask⟩

/-- R317, R363, R389, R24, R404. -/
def moduleRegs (o : Nat) : Option RegInfo :=
  match o with
  | 0x00 => r32 .rl 8 (bits 7 0)
  | 0x04 => r32 .rl 10000 (bits 23 0)
  | 0x08 => r32 .rl 100000 (bits 23 0)
  | 0x0C => r32 .rl 2000 (bits 23 0)
  | 0x10 => r32 .rl 20 (bits 5 0)
  | 0x14 => r32 .ro 0 (bits 31 0)
  | 0x20 => r32 .rl 0 (bits 2 0)
  | 0x24 => r32 .ro 0x4444 (bits 19 0)
  | 0x28 => r32 .w1c 0 (bits 3 0)
  | 0x30 => r32 .rl 1000 (bits 23 0)
  | 0x34 => r32 .ro 0 (bits 31 0)
  | 0x40 => r32 .rl 1100 (bits 10 0)
  | 0x44 => r32 .ro 1100 (bits 10 0)
  | 0x48 => r32 .ro 0 (bits 26 0)
  | 0x50 => r32 .ro 0 (bits 15 0)
  | 0x54 => r32 .ro 0 (bits 15 0)
  | 0x58 => r32 .ro 0 (bits 15 0)
  | 0x5C => r32 .ro 0 (bits 15 0)
  | _ => none

/-- R286. -/
def schedRegs (o : Nat) : Option RegInfo :=
  match o with
  | 0x00 => r32 .rl 0 (bits 14 0)
  | 0x04 => r32 .rl 1 (bits 15 0)
  | 0x08 => r32 .rl 64 (bits 15 0)
  | 0x0C => r32 .rl 8 (bits 6 0)
  | 0x10 => r32 .rl 1 (bits 4 0 + bits 8 8)
  | 0x14 => r32 .rl 0 (bits 3 0)
  | _ => none

/-- R330, R336. -/
def ctxRegs (o : Nat) : Option RegInfo :=
  match o with
  | 0x00 => r64 .rl 0 (bits 47 12)
  | 0x08 => r64 .rl 0 (bits 38 12)
  | 0x10 => r64 .rl 0 (bits 47 21 + 1)
  | 0x18 => r32 .rl 0 (bits 23 0)
  | 0x1C => r32 .ro 0 (bits 11 0 + bits 31 31)
  | 0x20 => r32 .ro 0 (bits 11 0 + bits 27 16)
  | 0x24 => r32 .ro 0 (bits 7 0)
  | 0x28 => r32 .ro 0 (bits 1 0 + bits 5 4)
  | 0x30 => r64 .rl 0 (bits 47 6)
  | 0x38 => r32 .rl 0x3A800000 (bits 31 0)
  | 0x3C => r32 .w1c 0 (bits 15 0)
  | _ => none

/-- R331. -/
def pageRegs (o : Nat) : Option RegInfo :=
  match o with
  | 0x00 => r64 .rw 0 (bits 63 0)
  | 0x08 => r32 .rw 0 (bits 4 0)
  | 0x0C => r32 .ro 0 (bits 31 0)
  | 0x10 => r32 .rw 0 (bits 31 0)
  | 0x18 => r64 .rw 0 (bits 63 0)
  | 0x20 => r32 .rw 0 (bits 4 0)
  | 0x24 => r32 .rw 0 (bits 31 0)
  | 0x28 => r32 .ro 0 (bits 31 0)
  | 0x2C => r32 .w1c 0 (bits 15 0)
  | _ => none

/-- R369. -/
def logRegs (o : Nat) : Option RegInfo :=
  match o with
  | 0x00 => r64 .rl 0 (bits 63 0)
  | 0x08 => r32 .rl 0 (bits 4 0)
  | 0x0C => r32 .ro 0 (bits 31 0)
  | _ => none

/-- R363, R380: in every function's space. -/
def fnRegs (o : Nat) : Option RegInfo :=
  match o with
  | 0x00 => r32 .ro 0 (bits 15 0)
  | 0x04 => r32 .w1c 0 (bits 15 0)
  | 0x08 => r32 .ro 0 (bits 31 0)
  | 0x0C => r32 .ro 0 (bits 7 0)
  | 0x10 => r32 .w1c 0 (bits 15 0)
  | 0x18 => r64 .ro 1 (bits 63 0)
  | 0x40 => r64 .rl 0 (bits 63 0)
  | 0x48 => r32 .rl 0 (bits 4 0)
  | 0x4C => r32 .rw 0 (bits 31 0)
  | 0x50 => r32 .ro 0 (bits 31 0)
  | _ => none

/-- R394. -/
def pairRegs (o : Nat) : Option RegInfo :=
  match o with
  | 0x00 => r32 .ro 0 (bits 31 0)
  | 0x04 => r32 .ro 32 (bits 31 0)
  | 0x08 => r32 .ro 12288 (bits 31 0)
  | 0x0C => r32 .ro 36 (bits 31 0)
  | 0x10 => r32 .ro 6144 (bits 31 0)
  | _ => if 0x100 ≤ o ∧ o ≤ 0x1FC ∧ o % 4 = 0 then r32 .ro 0 (bits 31 0) else none

/-- R396: TWARN, TTHRESH and DWARN hold all 32 bits. (DESIGN CHOICE: log 79) -/
def monRegs (die o : Nat) : Option RegInfo :=
  if o ≤ 0xFC ∧ o % 4 = 0 then r32 .ro 0 (bits 15 0)
  else if o = 0x100 then r32 .rw 0x05F0 (bits 31 0)
  else if o = 0x104 then r32 .rl 0x06E0 (bits 31 0)
  else if 0x200 ≤ o ∧ o ≤ 0x27C ∧ o % 4 = 0 then r32 .ro 0 (bits 11 0)
  else if o = 0x300 then r32 .rw 60 (bits 31 0)
  else if 0x400 ≤ o ∧ o ≤ 0x43C ∧ o % 4 = 0 then
    r32 .ro (Config.procFuse die ((o - 0x400) / 4)).toNat (bits 23 0)
  else if o = 0x500 then r32 .w1c 0 (bits 3 0)
  else if o = 0x504 then r32 .ro 0 (bits 31 0)
  else none

/-- The register at a byte offset of function f's space, where one starts there (R8). (DEDUCED: log 68) -/
def regInfo (f ofs : Nat) : Option RegInfo :=
  if 0x100000 ≤ ofs ∧ ofs < 0x100080 then fnRegs (ofs - 0x100000)
  else if f ≠ 0 then none
  else if 0x80000 ≤ ofs ∧ ofs < 0x90000 then schedRegs (ofs % 0x40)
  else if 0xC0000 ≤ ofs ∧ ofs < 0xD0000 then ctxRegs (ofs % 0x40)
  else if 0xD0000 ≤ ofs ∧ ofs < 0xD0060 then moduleRegs (ofs - 0xD0000)
  else if 0xE0000 ≤ ofs ∧ ofs < 0xE0000 + 0x40 * 513 then pageRegs (ofs % 0x40)
  else if 0xF0000 ≤ ofs ∧ ofs < 0xF4000 then logRegs (ofs % 0x10)
  else if 0x110000 ≤ ofs ∧ ofs < 0x124000 then pairRegs (ofs % 0x400)
  else if 0x130000 ≤ ofs ∧ ofs < 0x138000 then monRegs ((ofs - 0x130000) / 0x2000) (ofs % 0x2000)
  else none

def regKey (f ofs : Nat) : Nat := f * 0x1000000 + ofs

/-- The stored value of a register; where nothing is stored, its reset value. -/
def State.reg (s : State) (f ofs : Nat) : Nat :=
  match mget s.regs (regKey f ofs) with
  | some v => v.toNat
  | none => match regInfo f ofs with
    | some i => i.reset
    | none => 0

/-- Store a register's value, without any check. -/
def State.setReg (s : State) (f ofs v : Nat) : State :=
  { s with regs := mput s.regs (regKey f ofs) (BitVec.ofNat 64 v) }

/-- Offsets of a context's registers in the physical function's space. -/
def oSched (n o : Nat) : Nat := 0x80000 + 0x40 * n + o
def oCtx (n o : Nat) : Nat := 0xC0000 + 0x40 * n + o
def oPage (f o : Nat) : Nat := 0xE0000 + 0x40 * f + o
def oLog (n o : Nat) : Nat := 0xF0000 + 0x10 * n + o
def oPair (p o : Nat) : Nat := 0x110000 + 0x400 * p + o
def oMon (die o : Nat) : Nat := 0x130000 + 0x2000 * die + o
def oMod (o : Nat) : Nat := 0xD0000 + o
def oFn (o : Nat) : Nat := 0x100000 + o

/-- A size field as it is read (R381). (DEDUCED: log 55) -/
def sizeLog (v : Nat) : Nat := if v < 6 then 6 else if 16 < v then 16 else v

def State.die (s : State) (d : Nat) : Die := mgetD s.dies d {}
def State.core (s : State) (c : Nat) : Core := mgetD s.cores c {}
def State.pair (s : State) (p : Nat) : Pair := mgetD s.pairs p {}
def State.fn (s : State) (f : Nat) : Fn := mgetD s.fns f {}
def State.link (s : State) (l : Nat) : Link := mgetD s.links l {}
def State.setDie (s : State) (d : Nat) (v : Die) : State := { s with dies := mput s.dies d v }
def State.setCore (s : State) (c : Nat) (v : Core) : State := { s with cores := mput s.cores c v }
def State.setPair (s : State) (p : Nat) (v : Pair) : State := { s with pairs := mput s.pairs p v }
def State.setFn (s : State) (f : Nat) (v : Fn) : State := { s with fns := mput s.fns f v }
def State.setLink (s : State) (l : Nat) (v : Link) : State := { s with links := mput s.links l v }
def State.setWave (s : State) (w : Nat) (v : Wave) : State := { s with waves := mput s.waves w v }
def State.setBlock (s : State) (b : Nat) (v : Block) : State := { s with blocks := mput s.blocks b v }
def State.setCtx (s : State) (c : Nat) (v : Ctx) : State := { s with ctxs := mput s.ctxs c v }
def State.setTask (s : State) (t : Nat) (v : Task) : State :=
  { s with sched := { s.sched with tasks := mput s.sched.tasks t v } }
def State.task? (s : State) (t : Nat) : Option Task := mget s.sched.tasks t

/-- A context that lives: created, not terminated (R301). -/
def State.liveCtx (s : State) (c : Nat) : Option Ctx :=
  match mget s.ctxs c with
  | some x => if x.terminated then none else some x
  | none => none

/-- LOCKST of a function (R363). -/
def Tdisp.code : Tdisp → Nat
  | .unlocked => 0 | .locked => 1 | .run => 2 | .error => 3
def Tdisp.isLocked : Tdisp → Bool
  | .locked => true | .run => true | _ => false

/-- What a 32-bit or 64-bit register reads as: the registers that mirror other state are formed from it (R330, R363),
sizes are read as R381 and R286 give. (DESIGN CHOICE: log 6, DEDUCED: log 78) -/
def State.regRead (s : State) (f ofs : Nat) : Nat :=
  if ofs = oFn 0 then (s.fn f).tdisp.code + 256 * (s.fn f).errReason
  else if ofs = oFn 0x0C then
    (if (s.fn f).ringHalt = 0 then 0 else 1 + 16 * (s.fn f).ringHalt)
  else if f = 0 ∧ 0xC0000 ≤ ofs ∧ ofs < 0xD0000 ∧ 0x1C ≤ ofs % 0x40 ∧ ofs % 0x40 < 0x30 then
    let n := (ofs - 0xC0000) / 0x40
    match mget s.ctxs n with
    | none => if ofs % 0x40 = 0x24 then (mgetD s.ctxGen n 0).toNat else 0
    | some c =>
      match ofs % 0x40 with
      | 0x1C => match c.dom with | some d => d + 2 ^ 31 | none => 0
      | 0x20 => c.skey + c.dkey * 65536
      | 0x24 => (mgetD s.ctxGen n 0).toNat
      | 0x28 => bnat c.sealed + 2 * bnat c.migrating + 16 * c.home
      | _ => 0
  else if f = 0 ∧ 0x110000 ≤ ofs ∧ ofs < 0x124000 ∧ (ofs % 0x400 = 0 ∨ 0x100 ≤ ofs % 0x400) then
    let p := s.pair ((ofs - 0x110000) / 0x400)
    if ofs % 0x400 = 0 then p.status.toNat else (p.repair.getD ((ofs % 0x400 - 0x100) / 4) 0).toNat
  else s.reg f ofs

/-- What 4 bytes at an offset read as: a 32-bit register, a half of a 64-bit one, or 0 where none is listed (R6). -/
def State.read4 (s : State) (f ofs : Nat) : Nat :=
  match regInfo f ofs with
  | some _ => s.regRead f ofs % 2 ^ 32
  | none => match regInfo f (ofs - 4) with
    | some i => if ofs % 8 = 4 ∧ i.wide then s.regRead f (ofs - 4) / 2 ^ 32 else 0
    | none => 0
/-- What a host read of a function's register space gets: 4 or 8 bytes at their own alignment; none, Unsupported Request
status, for any other (R6, R8). (DEDUCED: log 68) -/
def State.readReg (s : State) (f ofs width : Nat) : Option Nat :=
  if 513 ≤ f ∨ (width ≠ 4 ∧ width ≠ 8) ∨ ofs % width ≠ 0 ∨ 2 ^ 21 ≤ ofs then none
  else if width = 4 then some (s.read4 f ofs)
  else some (s.read4 f ofs + 2 ^ 32 * s.read4 f (ofs + 4))

end Sys2Proof.Machine
end

