-- ==== Sys2Proof/Machine/Mem.lean ====
section
/-! DEFINITION. Machine/Mem.lean: where bytes live (R238), reading and writing them, L1 lines (R243), store queues and
write paths (R194, R245). -/

namespace Sys2Proof.Machine

/-- The key of a byte of device memory, by device physical address (R304). -/
def devKey (pa : Nat) : Key := pa
/-- The key of a byte of host memory, by host physical address. -/
def hostKey (hpa : Nat) : Key := 2 ^ 48 + hpa
/-- The key of a byte of a core's vault; the B-store lies at 3 MiB (R16, R240). -/
def vaultKey (core ofs : Nat) : Key := 2 ^ 50 + core * 2 ^ 22 + ofs
/-- The key of a byte of a core's pad array (R16, R242). -/
def padKey (core ofs : Nat) : Key := 2 ^ 52 + core * 2 ^ 20 + ofs

def isDev (k : Key) : Bool := k < 2 ^ 39
def isHost (k : Key) : Bool := 2 ^ 48 ≤ k && k < 2 ^ 49
def isPad (k : Key) : Bool := 2 ^ 52 ≤ k
def lineOf (k : Key) : Nat := k / 64
/-- Device physical addresses that name a byte: offsets below 112 GiB (R304). (DESIGN CHOICE: log 27) -/
def namesByte (pa : Nat) : Bool := pa < 2 ^ 39 && pa % 2 ^ 37 < 112 * 2 ^ 30
def dieOf (k : Key) : Nat := k / 2 ^ 37 % 4

/-- The byte at a key; an unlisted byte reads 0. (DESIGN CHOICE: log 4) -/
def memByte (m : List Host.Cell) (k : Key) : Byte := mgetD m k 0
/-- Write one byte; the list keeps its canonical form. (DESIGN CHOICE: log 4) -/
def memPut (m : List Host.Cell) (k : Key) (b : Byte) : List Host.Cell := mset m k b 0
/-- The canonical form: keys strictly rising, no entry equal to what an unlisted key reads as.
(DESIGN CHOICE: log 4) -/
def memWf (m : List Host.Cell) : Bool := mwf m && m.all fun c => c.2 ≠ 0

/-- Write cells in order; a later cell of the same key wins. -/
def pokeAll (m : List Host.Cell) (cells : List Host.Cell) : List Host.Cell :=
  cells.foldl (fun m c => memPut m c.1 c.2) m
def State.poke (s : State) (cells : List Host.Cell) : State := { s with mem := pokeAll s.mem cells }

/-- The bytes at n consecutive keys. -/
def State.peek (s : State) (k : Key) : Nat → List Byte
  | 0 => []
  | n + 1 => memByte s.mem k :: s.peek (k + 1) n
def State.peekN (s : State) (k : Key) (n : Nat) : Nat := natOfBytes (s.peek k n)
/-- Bytes as cells at consecutive keys. -/
def cellsAt (k : Key) : List Byte → List Host.Cell
  | [] => []
  | b :: r => (k, b) :: cellsAt (k + 1) r
/-- Bytes paired with keys. -/
def zipCells (ks : List Key) (bs : List Byte) : List Host.Cell := ks.zip bs

/-- The first line of the list with this number. -/
def lineRef (ls : List LineRef) (l : Nat) : Option LineRef := ls.find? fun r => r.line = l

/-- The last cell at a key. -/
def lastCell (cells : List Host.Cell) (k : Key) : Option Byte := (cells.reverse.find? fun c => c.1 = k).map (·.2)
/-- The bytes of a line after a write. -/
def overBytes (cells : List Host.Cell) (l : Nat) (b : Bytes) : Bytes :=
  (List.range 64).map fun i => (lastCell cells (64 * l + i)).getD (b.getD i 0)
/-- The keys reach every byte of a line. -/
def coversLine (keys : List Key) (l : Nat) : Bool := (List.range 64).all fun i => keys.contains (64 * l + i)

/-- A write performed at its point of coherence (R266): while a line is written in its home L2 the memory behind it
keeps what it held (R153, R261), but for a write the host performs; the line takes the key id of the write (R325), a
failing location that is written fails no more (R247, R326), and the time of the frame's last write is noted (R318). -/
def State.perform (s : State) (cells : List Host.Cell) (refs : List LineRef) : State :=
  let lines := ((cells.filter fun c => isDev c.1).map fun c => lineOf c.1).eraseDups
  let dirty := lines.foldl (fun d l =>
    let host := (lineRef refs l).elim false (·.atHost)
    match mget d l with
    | some b => if host then mput d l (overBytes cells l b) else d
    | none => if host then d else mput d l (s.peek (64 * l) 64)) s.vm.dirty
  let keys := lines.foldl (fun d l =>
    match lineRef refs l with
    | some r => mput d l r.label
    | none => mdel d l) s.vm.lineKey
  let lw := lines.foldl (fun d l => mput d (l / 64) s.time) s.vm.lastWrite
  let bad := s.vm.bad.filter fun e => !coversLine (cells.map (·.1)) e.1
  let soft := s.vm.soft.filter fun k => !cells.any fun c => c.1 = k
  { s with mem := pokeAll s.mem cells,
           vm := { s.vm with dirty := dirty, lastWrite := lw, lineKey := keys, bad := bad, soft := soft } }

/-- The cells of an entry. -/
def StoreE.cells (e : StoreE) : List Host.Cell :=
  match e.kind with
  | .write c => c
  | .atomic _ _ => []
/-- Keys an entry writes. -/
def StoreE.keys (e : StoreE) : List Key :=
  match e.kind with
  | .write c => c.map (·.1)
  | .atomic _ a => a.flatMap fun x => x.1.keys
def StoreE.isAtomic (e : StoreE) : Bool :=
  match e.kind with
  | .write _ => false
  | .atomic _ _ => true
def meets (a b : List Key) : Bool := a.any fun k => b.contains k
/-- A list in runs of n. -/
def runsOf (n : Nat) : Nat → List α → List (List α)
  | 0, _ => []
  | fuel + 1, l => if l.isEmpty then [] else l.take n :: runsOf n fuel (l.drop n)
/-- An entry with other bytes to write. -/
def StoreE.withCells (e : StoreE) (c : List Host.Cell) : StoreE :=
  { e with kind := .write c, lines := e.lines.filter fun r => c.any fun q => lineOf q.1 = r.line }
/-- The single-copy atomic accesses of a store: one for each lane, two for each of 16 bytes (R253). -/
def StoreE.parts (e : StoreE) : List StoreE :=
  match e.kind with
  | .write c => (runsOf e.unit c.length c).map e.withCells
  | .atomic _ _ => [e]
/-- A store without its access number i. -/
def StoreE.without (e : StoreE) (i : Nat) : StoreE :=
  e.withCells (e.cells.take (i * e.unit) ++ e.cells.drop ((i + 1) * e.unit))

/-- The L2 slice of a line of device memory: its home die, and the XOR of eight fields of its address (R246). -/
def sliceOf (line : Nat) : Nat :=
  dieOf (64 * line) * 16 + (List.range 8).foldl (fun n i => Nat.xor n (line / 16 ^ i % 16)) 0
/-- L2 slices an entry's lines lie in. -/
def StoreE.slices (e : StoreE) : List Nat := (e.lines.filter fun r => isDev (64 * r.line)).map fun r => sliceOf r.line
/-- The youngest byte a list of entries, oldest first, holds for a key (R194, R245). -/
def youngest (q : List StoreE) (k : Key) : Option Byte := lastCell (q.flatMap StoreE.cells) k

/-- What the point of coherence and the write path of a core together give for a byte (R245). -/
def State.below (s : State) (c : Nat) (k : Key) : Byte := (youngest (s.core c).path k).getD (memByte s.mem k)
def State.lineBelow (s : State) (c : Nat) (l : Nat) : Bytes := (List.range 64).map fun i => s.below c (64 * l + i)

def findLine (ls : List L1Line) (line label : Nat) : Option L1Line :=
  ls.find? fun l => l.line = line && l.label = label && l.use = .data
/-- (DEDUCED: log 35) -/
def dropLines (ls : List L1Line) (p : L1Line → Bool) : List L1Line := ls.filter fun l => !p l
/-- Drop every line of a core's L1, with the code it holds (R243, R302). -/
def State.dropL1 (s : State) (c : Nat) : State := s.setCore c { s.core c with l1 := [] }

/-- A free choice, where two outcomes differ. (DESIGN CHOICE: log 3, 38) -/
def State.choose (s : State) (a b : α) [DecidableEq α] : α × State :=
  if a = b then (a, s)
  else ((if Config.freeBit s.fresh then a else b), { s with fresh := s.fresh + 1 })

/-- Lines an L1 has room for beside a pad of this carve (R16, R55). -/
def l1Lines (carve : Nat) : Nat := (12 - carve) * 1024
/-- A line joins the lines a core's L1, or its index cache of 4 KiB, keeps; a full one gives up any of them (R356).
(DESIGN CHOICE: log 38) -/
def State.addLine (s : State) (c : Nat) (l : L1Line) (rest : List L1Line) : State :=
  let same := rest.filter fun x => (x.use = .index) = (l.use = .index)
  if same.length < (if l.use = .index then 64 else l1Lines (s.core c).carve) then s.setCore c { s.core c with l1 := l :: rest }
  else { s with fresh := s.fresh + 1 }.setCore c { s.core c with
    l1 := l :: rest.erase (same.getD (Config.freeNat s.fresh % same.length) l) }
/-- The line an L1 gives for an access: the line held, or, if it was evicted, a fresh one (R243).
(DESIGN CHOICE: log 38) -/
def State.l1Line (s : State) (c line label : Nat) (fill : Bool) : Bytes × State :=
  let now := s.lineBelow c line
  match findLine (s.core c).l1 line label with
  | some l =>
    let r := s.choose l.data now
    if r.1 = l.data then (r.1, r.2)
    else
      let co := r.2.core c
      let rest := dropLines co.l1 fun x => x.line = line && x.label = label && x.use = .data
      (r.1, if fill then r.2.addLine c ⟨line, label, r.1, .data⟩ rest else r.2.setCore c { co with l1 := rest })
  | none =>
    if fill then (now, s.addLine c ⟨line, label, now, .data⟩ (s.core c).l1) else (now, s)

/-- The bytes a load of one lane reads: its wave's older queued stores first, then the L1 where the data may be held
there, then write path and point of coherence (R194, R243, R245). (DEDUCED: log 24) -/
def State.loadBytes (s : State) (c : Nat) (queue : List StoreE) (a : LaneAcc) (useL1 fill : Bool) : Bytes × State :=
  match a.keys with
  | [] => ([], s)
  | k0 :: _ =>
    if a.cached && useL1 then
      let r := s.l1Line c (lineOf k0) a.label fill
      (a.keys.map fun k => (youngest queue k).getD (r.1.getD (k % 64) 0), r.2)
    else (a.keys.map fun k => (youngest queue k).getD (s.below c k), s)

/-- A store that leaves its queue updates the line its core's L1 holds (R243). -/
def updateLine (cells : List Host.Cell) (l : L1Line) : L1Line := { l with data := overBytes cells l.line l.data }
def updateLines (lines : List LineRef) (cells : List Host.Cell) (ls : List L1Line) : List L1Line :=
  ls.map fun l => if l.use = .data && lines.any fun r => r.line = l.line && r.label = l.label then updateLine cells l else l

/-- The line a fetch of code or of an index entry gets: a copy held at the core for that use, or the line as it stands now
(R302, R356). -/
def State.heldLine (s : State) (u : LineUse) (c line label : Nat) : Bytes × State :=
  let now := s.lineBelow c line
  match (s.core c).l1.find? fun l => l.line = line && l.label = label && l.use = u with
  | some l =>
    let r := s.choose l.data now
    if r.1 = l.data then r
    else
      let rest := dropLines (r.2.core c).l1 fun x => x.line = line && x.label = label && x.use = u
      (now, r.2.addLine c ⟨line, label, now, u⟩ rest)
  | none =>
    (now, s.addLine c ⟨line, label, now, u⟩ (s.core c).l1)
/-- The lines a clause fetch gets, by number. -/
def State.codeLines (s : State) (c : Nat) : List LineRef → List (Nat × Bytes) × State
  | [] => ([], s)
  | r :: rs =>
    let a := s.heldLine .code c r.line r.label
    let b := a.2.codeLines c rs
    ((r.line, a.1) :: b.1, b.2)
/-- The bytes of an index entry, behind the wave's older queued stores (R356). -/
def State.indexBytes (s : State) (c : Nat) (queue : List StoreE) (a : LaneAcc) : Bytes × State :=
  match a.keys with
  | [] => ([], s)
  | k0 :: _ =>
    if a.cached then
      let r := s.heldLine .index c (lineOf k0) a.label
      (a.keys.map fun k => (youngest queue k).getD (r.1.getD (k % 64) 0), r.2)
    else s.loadBytes c queue a false false
def lineByte (ls : List (Nat × Bytes)) (k : Key) : Byte :=
  match ls.find? fun l => l.1 = lineOf k with
  | some l => l.2.getD (k % 64) 0
  | none => 0

/-- Lines of the keys. -/
def linesOf (keys : List Key) : List Nat := (keys.map lineOf).eraseDups
/-- A line lies on a die that is lost (R392). -/
def State.lineLost (s : State) (l : Nat) : Bool := isDev (64 * l) && (s.die (dieOf (64 * l))).lost
/-- The integrity failure of a line, 0x0D or 0x0E: it lies on a lost die (R392), its copy in memory fails (R326), or it
was last written under another key id, so that its MAC does not fit (R325). (DEDUCED: log 28, DESIGN CHOICE: log 75) -/
def State.lineBad (s : State) (label l : Nat) : Option Nat :=
  if s.lineLost l then some 0x0E
  else match mget s.vm.bad l with
    | some c => some c
    | none => match mget s.vm.lineKey l with
      | some k => if k = label then none else some 0x0D
      | none => none
/-- The integrity failure a read of these keys meets (R247, R326). (DEDUCED: log 28, DESIGN CHOICE: log 75) -/
def State.badCause (s : State) (keys : List Key) (label : Nat) : Option Nat :=
  if keys.any fun k => s.vm.soft.contains k then some 0x0E else (linesOf keys).findSome? (s.lineBad label)
/-- The failure a write of these keys meets: a write of part of a line reads and checks the line first, one of a whole
line by a copy or MAPP does not; a byte of a pad, a vault or an L2 is written whatever it held (R247, R325, R326). -/
def State.badWrite (s : State) (whole : Bool) (keys : List Key) (label : Nat) : Option Nat :=
  (linesOf keys).findSome? fun l => if whole && coversLine keys l && !s.lineLost l then none else s.lineBad label l
/-- The first key of an access that an integrity failure keeps it from, and its cause. -/
def State.firstBad (s : State) (read whole : Bool) (keys : List Key) (label : Nat) : Option (Nat × Nat) :=
  if (if read then s.badCause keys label else s.badWrite whole keys label).isNone then none
  else keys.zipIdx.findSome? fun e =>
    let l := lineOf e.1
    if read && s.vm.soft.contains e.1 then some (e.2, 0x0E)
    else if !read && whole && coversLine keys l && !s.lineLost l then none
    else (s.lineBad label l).map fun c => (e.2, c)

end Sys2Proof.Machine
end

