-- ==== Sys2Proof/Machine/Trans.lean ====
section
/-! DEFINITION. Machine/Trans.lean: translation in two stages (R304 to R309), the checks on an address in their order
(R239 to R241), page requests (R311), copy-on-write (R322) and the release of shared frames (R323). -/

namespace Sys2Proof.Machine

/-- What an access does (R308): read, write or fetch. -/
inductive Need where
  | rd | wr | fx
  deriving DecidableEq, Repr

/-- KIND of a page request (R311). -/
def Need.code : Need → Nat
  | .rd => 0 | .wr => 1 | .fx => 2

/-- Who accesses: context, core (its number in the module), supervisor mode, and the ORIGIN of a page request (R311). -/
structure Who where
  ctx : Nat
  core : Nat
  sup : Bool
  origin : Nat
  deriving DecidableEq, Repr

def eBit (e : DWord) (i : Nat) : Bool := e.toNat.testBit i
/-- Bits [47:12] in place: the next table or the page (R306, R307). -/
def eOut (e : DWord) : Nat := e.toNat / 4096 % 2 ^ 36 * 4096
def eKid (e : DWord) : Nat := e.toNat / 2 ^ 48 % 4096
def eSeg (e : DWord) : Nat := e.toNat / 2 ^ 60
/-- Index of a table entry (R305). -/
def walkIx (a lvl : Nat) : Nat := a / 2 ^ (12 + 9 * lvl) % 512
/-- Device physical address in a stage-2 entry (R307): bits [38:12]. -/
def eDev (e : DWord) : Nat := eOut e % 2 ^ 39

/-- What a stage-2 walk finds: a leaf with its level and its own address, no entry, or an entry that fails. -/
inductive S2W where
  | leaf (e : DWord) (lvl : Nat) (pa : Nat)
  | miss
  | fail
  deriving DecidableEq, Repr

/-- The table walk of stage 2 (R305, R307), from a level and a table's device physical address.
(DESIGN CHOICE: log 27) -/
def State.s2walk (s : State) (ia : Nat) : Nat → Nat → S2W
  | 0, t =>
    let pa := t + 8 * walkIx ia 0
    let e : DWord := BitVec.ofNat 64 (s.peekN (devKey pa) 8)
    if !eBit e 0 then .miss
    else if eBit e 6 || (eBit e 9 && eBit e 5) then .fail
    else .leaf e 0 pa
  | lvl + 1, t =>
    let pa := t + 8 * walkIx ia (lvl + 1)
    let e : DWord := BitVec.ofNat 64 (s.peekN (devKey pa) 8)
    if !eBit e 0 then .miss
    else if lvl = 0 ∧ eBit e 7 then
      if eBit e 6 || eBit e 5 || eBit e 9 || eSeg e ≠ 0 then .fail else .leaf e 1 pa
    else if e.toNat ≠ eOut e + 1 then .fail
    else s.s2walk ia lvl (eDev e)

def State.s2root (s : State) (ctx : Nat) : Nat := s.reg 0 (oCtx ctx 0x08)
def State.s1root (s : State) (ctx : Nat) : Nat := s.reg 0 (oCtx ctx 0x00)
def State.s2leaf (s : State) (ctx ia : Nat) : S2W := s.s2walk ia 3 (s.s2root ctx)

/-- A shared frame that the directory holds for a context's domain (R320). (DEDUCED: log 34) -/
def State.dayHas (s : State) (dom : Option Nat) (frame : Nat) : Bool :=
  match dom with
  | none => false
  | some d => s.dies.any fun e => e.2.day.any fun b => b.2.any fun g => g.ref ≠ 0 && g.dom = d && g.frame = frame

/-- The function that owns the frame may use it, or it is a shared frame of the context's domain (R308).
(DEDUCED: log 34) -/
def State.owns (s : State) (c : Ctx) (shr : Bool) (pa : Nat) : Bool :=
  namesByte pa &&
    (if shr then s.dayHas c.dom (pa / 4096)
     else mget s.vm.grants (pa / 2 ^ 21) = some c.fn && !s.vm.reserve.contains (pa / 4096))

/-- The key ids a context may use (R308, R324). -/
def Ctx.holdsKid (c : Ctx) (k : Nat) : Bool := k ≠ 0 && (k = c.skey || (c.dom.isSome && k = c.dkey))

/-- Permission bit of a stage-2 leaf for an access (R307). -/
def Need.bit2 : Need → Nat
  | .rd => 2 | .wr => 4 | .fx => 3

/-- Log2 of the bytes a stage-2 leaf maps. -/
def lvlShift (lvl : Nat) : Nat := 12 + 9 * lvl
/-- Host or device address a stage-2 leaf gives. -/
def s2base (e : DWord) (sh ia : Nat) : Nat :=
  (if eBit e 11 then eOut e else eDev e) / 2 ^ sh * 2 ^ sh + ia % 2 ^ sh

/-- Stage-2 permission, ownership and key id of a leaf (R308). (DEDUCED: log 28) -/
def State.s2ok (s : State) (ctx : Nat) (need : Need) (e : DWord) (sh ia : Nat) : Bool :=
  match mget s.ctxs ctx with
  | none => false
  | some c => eBit e need.bit2 && c.holdsKid (eKid e) && (eBit e 11 || s.owns c (eBit e 9) (s2base e sh ia))

/-- The key of an intermediate address under a leaf: the overlay frame for a copied segment (R322), the frame the
retirement map names (R326), or the leaf's own. -/
def State.s2key (s : State) (ctx : Nat) (e : DWord) (sh ia : Nat) : Key :=
  if eBit e 11 then hostKey (s2base e sh ia)
  else
    let seg := (eSeg e).testBit (ia / 1024 % 4)
    let ovl := (mget s.ctxs ctx).bind fun c => mget c.overlay (ia / 4096)
    match seg, ovl with
    | true, some o => devKey (o + ia % 4096)
    | _, _ =>
      let pa := s2base e sh ia
      match mget (s.die (pa / 2 ^ 37)).retireMap (pa / 4096) with
      | some f => devKey (f * 4096 + pa % 4096)
      | none => devKey pa

/-- A read of eight bytes of a stage-1 table, itself translated at stage 2 (R308). -/
inductive TRead where
  | entry (e : DWord)
  | miss (ia : Nat)
  | fail
  deriving DecidableEq, Repr

def State.tableRead (s : State) (ctx ia : Nat) : TRead :=
  match s.s2leaf ctx ia with
  | .miss => .miss ia
  | .fail => .fail
  | .leaf e lvl _ =>
    if s.s2ok ctx .rd e (lvlShift lvl) ia then
      .entry (BitVec.ofNat 64 (s.peekN (s.s2key ctx e (lvlShift lvl) ia) 8))
    else .fail

/-- The 16 stage-2 leaves of a 64 KiB run agree with the one of this address, at pa (R305, R307). -/
def State.run2 (s : State) (ia pa : Nat) (e : DWord) : Bool :=
  let ix := walkIx ia 0 % 16
  (List.range 16).all fun i =>
    let q : DWord := BitVec.ofNat 64 (s.peekN (devKey (pa - 8 * ix + 8 * i)) 8)
    eBit q 0 && q.toNat % 4096 = e.toNat % 4096 && q.toNat / 2 ^ 48 = e.toNat / 2 ^ 48
      && eOut q + 4096 * ix = eOut e + 4096 * i && (eOut q - 4096 * i) % 65536 = 0
/-- Log2 of the bytes the translation of a stage-2 leaf covers (R305). -/
def State.shift2 (s : State) (ia : Nat) (e : DWord) (lvl pa : Nat) : Nat :=
  if lvl = 0 ∧ eBit e 5 ∧ s.run2 ia pa e then 16 else lvlShift lvl

/-- Outcome of a stage-1 walk. -/
inductive S1W where
  | leaf (e : DWord) (shift : Nat)
  /-- 0x05 with a subcause (R308, R295). -/
  | fault5 (sub : Nat)
  | miss (ia : Nat)
  | fail
  deriving DecidableEq, Repr

/-- A stage-1 entry with a must-be-zero bit set (R306). -/
def s1bad (e : DWord) : Bool := e.toNat / 2 ^ 48 ≠ 0 || e.toNat / 128 % 32 ≠ 0

/-- The 16 leaves of a 64 KiB run agree with the one at this address (R305). -/
def State.runOf (s : State) (ctx table va : Nat) (e : DWord) : Bool :=
  (List.range 16).all fun i =>
    let ix := walkIx va 0 / 16 * 16 + i
    match s.tableRead ctx (table + 8 * ix) with
    | .entry q => eBit q 0 && !s1bad q && q.toNat / 4 % 32 = e.toNat / 4 % 32
        && eOut q + 4096 * (walkIx va 0 % 16) = eOut e + 4096 * i && (eOut q - 4096 * i) % 65536 = 0
    | _ => false

/-- The table walk of stage 1 (R305, R306), from a level and a table's intermediate address. -/
def State.s1walk (s : State) (ctx va : Nat) : Nat → Nat → S1W
  | 0, t =>
    match s.tableRead ctx (t + 8 * walkIx va 0) with
    | .miss ia => .miss ia
    | .fail => .fail
    | .entry e =>
      if !eBit e 0 then .fault5 (if eBit e 1 then 2 else 1)
      else if s1bad e then .fault5 1
      else if eBit e 5 && s.runOf ctx t va e then .leaf e 16
      else .leaf e 12
  | lvl + 1, t =>
    match s.tableRead ctx (t + 8 * walkIx va (lvl + 1)) with
    | .miss ia => .miss ia
    | .fail => .fail
    | .entry e =>
      if !eBit e 0 then .fault5 (if eBit e 1 then 2 else 1)
      else if s1bad e then .fault5 1
      else if eBit e 2 then (if lvl = 0 then .leaf e 21 else .fault5 1)
      else s.s1walk ctx va lvl (eOut e)

/-- The intermediate address a stage-1 leaf gives. -/
def s1out (e : DWord) (sh va : Nat) : Nat := eOut e / 2 ^ sh * 2 ^ sh + va % 2 ^ sh
/-- The leaf of a 64 KiB run names its own 4 KiB frame; the run's base stands below it. -/
def s1ia (e : DWord) (sh va filled : Nat) : Nat :=
  if sh = 16 then eOut e - filled / 4096 % 16 * 4096 + va % 65536 else s1out e sh va

/-- Permission of a stage-1 leaf (R306, R308): the subcause of 0x07, if it denies the access. (DEDUCED: log 16) -/
def s1deny (need : Need) (sup : Bool) (e : DWord) : Option Nat :=
  if need = .wr ∧ !eBit e 4 then some 2
  else if need = .fx ∧ !eBit e 3 then some 3
  else if eBit e 6 && !sup then some 5
  else none

/-- Outcome of the translation of one access. -/
inductive Tr where
  /-- The key of the first byte, the label of its line (R244), the stage-2 leaf, the intermediate address, whether a
  store may write (stage-1 W). -/
  | ok (key : Key) (label : Nat) (leaf : DWord) (ia : Nat)
  | fault (cause sub : Nat)
  /-- A page request for an intermediate page, of an ORIGIN (R311). -/
  | miss (page origin : Nat)
  deriving DecidableEq, Repr

/-- Label of the lines of a page (R244). -/
def pageLabel (ctx : Nat) (e : DWord) : Nat := if eBit e 11 then 65536 + ctx else eKid e

/-- Stage 2 for an intermediate address whose leaf is known (R308). -/
def State.finish2 (s : State) (who : Who) (need : Need) (e : DWord) (sh ia : Nat) : Tr :=
  if s.s2ok who.ctx need e sh ia then .ok (s.s2key who.ctx e sh ia) (pageLabel who.ctx e) e ia
  else .fault 0x06 1

/-- The walk as memory stands (R241, steps 2 to 6), and the translation a TLB may keep of it. -/
def State.walk (s : State) (who : Who) (need : Need) (va : Nat) : Tr × Option TlbE :=
  match s.s1walk who.ctx va 3 (s.s1root who.ctx) with
  | .fault5 sub => (.fault 0x05 sub, none)
  | .miss ia => (.miss (ia / 4096) 1, none)
  | .fail => (.fault 0x06 1, none)
  | .leaf e1 sh1 =>
    let ia := s1ia e1 sh1 va va
    match s1deny need who.sup e1 with
    | some sub => (.fault 0x07 sub, none)
    | none =>
      match s.s2leaf who.ctx ia with
      | .miss => (.miss (ia / 4096) who.origin, none)
      | .fail => (.fault 0x06 1, none)
      | .leaf e2 lvl pa =>
        (s.finish2 who need e2 (lvlShift lvl) ia,
          some ⟨who.ctx, mgetD s.ctxGen who.ctx 0, va, e1, sh1, e2, s.shift2 ia e2 lvl pa⟩)

/-- A TLB entry translates this address for this context (R309). -/
def TlbE.hits (t : TlbE) (ctx : Nat) (gen : BitVec 8) (va : Nat) : Bool :=
  let sh := min t.shift1 t.shift2
  t.ctx = ctx && t.gen = gen && t.va / 2 ^ sh = va / 2 ^ sh

/-- The translation a TLB entry gives. -/
def State.useTlb (s : State) (who : Who) (need : Need) (va : Nat) (t : TlbE) : Tr :=
  match s1deny need who.sup t.leaf1 with
  | some sub => .fault 0x07 sub
  | none => s.finish2 who need t.leaf2 t.shift2 (s1ia t.leaf1 t.shift1 va t.va)

/-- Entries the TLBs of a die hold together: 512 for each of its 40 cores, and 16,384 (R309). -/
def tlbLimit : Nat := 40 * 512 + 16384
/-- A TLB of a die takes a translation; others of the die may still hold an older one (R309). -/
def State.fillTlb (s : State) (d : Nat) (t : TlbE) : State :=
  let dd := s.die d
  if dd.tlb.contains t then s else s.setDie d { dd with tlb := (t :: dd.tlb).take tlbLimit }

/-- Translate one address (R239, R241, R308, R309). Where TLBs may still hold older translations, any of them or the
present one may be used. -/
def State.translate (s : State) (who : Who) (need : Need) (va : DWord) : Tr × State :=
  let a := va.toNat
  if a / 2 ^ 48 ≠ 0 then (.fault 0x05 3, s)
  else if (mget s.ctxs who.ctx).isNone then (.fault 0x05 1, s)
  else
    let d := who.core / 40
    let w := s.walk who need a
    let fill := fun (s : State) => match w.2 with
      | some t => s.fillTlb d t
      | none => s
    let held := (((s.die d).tlb.filter fun e => e.hits who.ctx (mgetD s.ctxGen who.ctx 0) a).map
      (s.useTlb who need a)).filter fun old => old ≠ w.1
    if held.isEmpty then (w.1, fill s)
    else
      let s1 := { s with fresh := s.fresh + 1 }
      match held[Config.freeNat s.fresh % (held.length + 1)]? with
      | some old => (old, s1)
      | none => (w.1, fill s1)

/-- Drop TLB entries of the module (R151, R309, R312). -/
def State.dropTlb (s : State) (p : TlbE → Bool) : State :=
  { s with dies := s.dies.map fun e => (e.1, { e.2 with tlb := e.2.tlb.filter fun t => !p t }) }

/-! ### Page requests (R311, R331) -/

/-- Records a ring of log2 size can hold; 0 where the ring is disabled (R331, R381). -/
def ringLen (size : Nat) : Nat := if size = 0 then 0 else 2 ^ sizeLog size

/-- A request record (R311). -/
def reqRecord (d : Nat) (gen : BitVec 8) (r : PageReq) : Nat :=
  r.page * 2 ^ 92 + r.rid * 2 ^ 48 + d * 2 ^ 46 + gen.toNat * 2 ^ 32 + r.ctx * 4096 + r.kind * 4 + r.origin

/-- Write a request to its function's ring, if the ring has room. -/
def State.writeReq (s : State) (d : Nat) (r : PageReq) : State × PageReq :=
  match mget s.ctxs r.ctx with
  | none => (s, r)
  | some c =>
    let f := c.fn
    let n := ringLen (s.reg 0 (oPage f 0x08))
    let tail := s.reg 0 (oPage f 0x0C)
    let head := s.reg 0 (oPage f 0x10)
    if r.written ∨ n = 0 ∨ n ≤ (tail + 2 ^ 32 - head) % 2 ^ 32 then (s, r)
    else
      let base := s.reg 0 (oPage f 0x00)
      let rec_ := bytesOfNat 16 (reqRecord d (mgetD s.ctxGen r.ctx 0) r)
      let s1 := s.poke (cellsAt (hostKey (base + 16 * (tail % n))) rec_)
      (s1.setReg 0 (oPage f 0x0C) ((tail + 1) % 2 ^ 32), { r with written := true })

/-- Write every waiting request of a die that finds room, oldest first. -/
def State.flushReqs (s : State) (d : Nat) : List PageReq → State × List PageReq
  | [] => (s, [])
  | r :: rest =>
    let a := s.writeReq d r
    let b := a.1.flushReqs d rest
    (b.1, a.2 :: b.2)

/-- Requests that found their ring full are written once space frees (R311). -/
def State.flushRings (s : State) : State :=
  (List.range 4).foldl (fun s d =>
    let r := s.flushReqs d (s.die d).reqs
    r.1.setDie d { r.1.die d with reqs := r.2 }) s

/-- A request of this page is outstanding. -/
def State.requested (s : State) (ctx page : Nat) : Bool :=
  s.dies.any fun e => e.2.reqs.any fun r => r.ctx = ctx && r.page = page

/-- The lowest request id no pending request of the die uses. -/
def freeRid (reqs : List PageReq) : Nat :=
  ((List.range (reqs.length + 1)).find? fun i => !reqs.any fun r => r.rid = i).getD 0

/-- Misses a die holds (R309): lanes and fetches, instructions, copies and commands that wait for a page. -/
def State.missesOf (s : State) (d : Nat) : Nat :=
  let slot := fun (p : PcSlot) => bnat (decide (p.wait = some .page))
  ((s.waves.filter fun e => e.2.id.die = d).map fun e =>
      e.2.mem.miss.length + slot e.2.ctl.a + slot e.2.ctl.b).sum
    + ((s.cores.filter fun c => c.1 / 40 = d).map fun c =>
      (c.2.jobs.filter fun j => j.missed.isSome).length + (c.2.cmds.filter fun m => m.missed.isSome).length).sum
/-- A new miss finds no place at a die: 2,048 requests are pending, or 4,096 misses are held (R309, R311).
(DEDUCED: log 65) -/
def State.crowded (s : State) (d : Nat) : Bool := 2048 ≤ (s.die d).reqs.length || 4096 ≤ s.missesOf d
/-- Make a page request on behalf of an access, or join the outstanding one; a die without a place makes none (R309,
R311). -/
def State.request (s : State) (d ctx page : Nat) (need : Need) (origin : Nat) : State :=
  if s.requested ctx page ∨ s.crowded d then s
  else
    let r : PageReq := ⟨freeRid (s.die d).reqs, ctx, page, need.code, origin, false⟩
    let a := s.writeReq d r
    a.1.setDie d { a.1.die d with reqs := (a.1.die d).reqs ++ [a.2] }

/-! ### Frames of pools and the directory (R322, R323) -/

def dieOfFrame (pa : Nat) : Nat := pa / 2 ^ 37
/-- A free 4 KiB frame of a context's pool on a die, the lowest (R310, R322). -/
def Ctx.frameOn (c : Ctx) (d : Nat) : Option Nat :=
  (c.pool.filter fun p => dieOfFrame p = d).foldl (fun m p => match m with
    | none => some p
    | some q => some (min p q)) none
/-- Take a frame out of the pool; ia is the intermediate page it takes, if any. -/
def Ctx.takeFrame (c : Ctx) (p : Nat) (ia : Option Nat) : Ctx :=
  { c with pool := c.pool.erase p, poolUsed := (p, ia) :: c.poolUsed }
/-- Give a frame back to the pool. -/
def Ctx.giveFrame (c : Ctx) (p : Nat) : Ctx :=
  { c with pool := p :: c.pool, poolUsed := c.poolUsed.filter fun e => e.1 ≠ p }

/-- A line of the frame has failed beyond correction: it is retired when it is next freed (R326). -/
def State.spent (s : State) (frame : Nat) : Bool := s.vm.bad.any fun e => decide (e.1 / 64 = frame) && decide (e.2 = 0x0E)
/-- Free frames of a pool that have failed are retired instead (R326). -/
def State.retireSpent (s : State) (ctx : Nat) : State :=
  match mget s.ctxs ctx with
  | none => s
  | some c =>
    let gone := c.pool.filter fun p => s.spent (p / 4096)
    if gone.isEmpty then s
    else
      let s1 := s.setCtx ctx { c with pool := c.pool.filter fun p => !gone.contains p }
      { s1 with vm := { s1.vm with retired := gone.map (· / 4096) ++ s1.vm.retired } }
/-- A frame goes back to the firmware reserve, but for one that has been retired; a unit all of whose frames have gone
back belongs to no function (R323, R404). -/
def State.toReserve (s : State) (frame : Nat) : State :=
  let vm := s.vm
  let unit := frame / 512
  if vm.retired.contains frame then s
  else if s.spent frame then { s with vm := { vm with retired := frame :: vm.retired } }
  else if (mget vm.grants unit).isNone then s
  else
    let all := frame :: vm.reserve
    if (List.range 512).all fun i => all.contains (512 * unit + i) then
      { s with vm := { vm with grants := mdel vm.grants unit, reserve := all.filter fun f => f / 512 ≠ unit } }
    else { s with vm := { vm with reserve := all } }
/-- A shared frame that nothing refers to any more: with it goes the frame it was fetched again into (R323, R326). -/
def State.freeShared (s : State) (frame : Nat) : State :=
  let d := s.die (frame / 2 ^ 25)
  match mget d.retireMap frame with
  | some f => (s.setDie (frame / 2 ^ 25) { d with retireMap := mdel d.retireMap frame }).toReserve f
  | none => s.toReserve frame
/-- Lower the reference count of a shared frame; at 0 the entry is freed and the frame goes to the die's firmware
reserve (R323). -/
def State.releaseFrame (s : State) (frame : Nat) : State :=
  let hit := fun (g : DayEntry) => g.ref ≠ 0 && g.frame = frame
  let gone := s.dies.any fun e => e.2.day.any fun b => b.2.any fun g => hit g && g.ref = 1
  let s1 := { s with dies := s.dies.map fun e => (e.1, { e.2 with day := e.2.day.map fun b =>
    (b.1, b.2.map fun g => if hit g then { g with ref := g.ref - 1 } else g) }) }
  if gone then s1.freeShared frame else s1

/-- Copy n bytes between frames under a new key id: the module's own copy at the point of coherence. -/
def State.copyBytes (s : State) (src dst n kid : Nat) : State :=
  let cells := cellsAt dst (s.peek src n)
  s.perform cells (((List.range (n / 64)).map fun i => ⟨lineOf dst + i, kid, false⟩))
/-- The integrity failure of n bytes that the module reads for a copy (R326). -/
def State.copyFails (s : State) (src n kid : Nat) : Option Nat := s.badCause ((List.range n).map (src + ·)) kid

/-- A leaf rewritten: the bits but SEG, KID, FRAME and SHR stay, and a shared leaf has C = 0 (R307). -/
def leafWith (e : DWord) (frame kid seg : Nat) (shr : Bool) : DWord :=
  let low := e.toNat % 512
  let keep := e.toNat % 4096 / 1024 * 1024 + if shr && eBit e 5 then low - 32 else low
  BitVec.ofNat 64 (seg * 2 ^ 60 + kid * 2 ^ 48 + frame / 4096 % 2 ^ 36 * 4096 + bnat shr * 512 + keep)

/-- The module rewrites a stage-2 leaf in memory, after its own TLB entries for the page are gone (R309). -/
def State.putLeaf (s : State) (ctx page pa : Nat) (e : DWord) : State :=
  let s1 := s.dropTlb fun t => t.ctx = ctx &&
    s1ia t.leaf1 t.shift1 t.va t.va / 2 ^ (max 12 t.shift2) = page * 4096 / 2 ^ (max 12 t.shift2)
  s1.poke (cellsAt (devKey pa) (bytesOfNat 8 e.toNat))

/-- Break sharing for the segment of an intermediate address that is about to be written (R322). A cause: the pool of
the home die has no frame (0x13), or the segment cannot be read (R326). -/
def State.breakShare (s : State) (ctx ia : Nat) : Except Nat State :=
  match mget s.ctxs ctx, s.s2leaf ctx ia with
  | some c, .leaf e 0 pa =>
    let page := ia / 4096
    let k := ia / 1024 % 4
    if !eBit e 9 || !eBit e 4 || (eSeg e).testBit k then .ok s
    else
      let src := s.s2key ctx (leafWith e (eDev e) (eKid e) 0 true) 12 (ia / 1024 * 1024)
      let have_ := if eSeg e = 0 then c.frameOn c.home else mget c.overlay page
      match have_, s.copyFails src 1024 (eKid e) with
      | none, _ => .error 0x13
      | some _, some cause => .error cause
      | some o, none =>
        let c1 := if eSeg e = 0 then
          { c.takeFrame o (some page) with overlay := mput c.overlay page o } else c
        let s1 := (s.setCtx ctx c1).copyBytes src (devKey (o + 1024 * k)) 1024 c.skey
        let seg := eSeg e + 2 ^ k
        if seg = 15 then
          let s2 := s1.putLeaf ctx page pa (leafWith e o c.skey 0 false)
          .ok ((s2.setCtx ctx { c1 with overlay := mdel c1.overlay page, shared := mdel c1.shared page }).releaseFrame
            (eDev e / 4096))
        else .ok (s1.putLeaf ctx page pa (leafWith e (eDev e) (eKid e) seg true))
  | _, _ => .ok s

/-- Bookkeeping of a page. -/
def State.info (s : State) (ctx page : Nat) : PageInfo :=
  (s.vm.pages.find? fun p => p.ctx = ctx && p.page = page).getD ⟨ctx, page, [], [], 0, none⟩
def State.setInfo (s : State) (i : PageInfo) : State :=
  { s with vm := { s.vm with pages := i :: s.vm.pages.filter fun p => !(p.ctx = i.ctx && p.page = i.page) } }
/-- A private leaf whose frame lies on a die other than the context's home (R314). -/
def Ctx.remote (c : Ctx) (e : DWord) : Bool := !eBit e 9 && !eBit e 11 && !eBit e 1 && dieOfFrame (eDev e) ≠ c.home
/-- Accesses that a context's home die makes through a private leaf to a frame of another die are counted, under the
leaf's first page (R314). (DEDUCED: log 64) -/
def State.countAccess (s : State) (who : Who) (e : DWord) (ia : Nat) : State :=
  match mget s.ctxs who.ctx with
  | none => s
  | some c =>
    if !c.remote e || c.home ≠ who.core / 40 then s
    else
      let n := match s.s2leaf who.ctx ia with
        | .leaf _ 1 _ => 512
        | _ => 1
      let i := s.info who.ctx (ia / 4096 / n * n)
      s.setInfo { i with times := (s.time :: i.times).take 256 }

/-! ### One lane's access (R190, R241) -/

/-- Outcome of the checks on one access. -/
inductive Chk where
  | ok (a : LaneAcc)
  | fault (cause sub : Nat)
  | miss (page origin : Nat)
  deriving DecidableEq, Repr

/-- n consecutive keys. -/
def keysAt (k n : Nat) : List Key := (List.range n).map (k + ·)

/-- The integrity failure an access meets (R247, R326). -/
def State.failsFor (s : State) (need : Need) (ks : List Key) (label : Nat) : Option Nat :=
  if need = .wr then s.badWrite false ks label else s.badCause ks label

/-- The core a vault-window address names (R240). -/
def vaultCore (who : Who) (a : Nat) : Nat :=
  if a / 2 ^ 22 % 64 = 63 then who.core else who.core / 40 * 40 + a / 2 ^ 22 % 64

/-- A context holds these vault bytes of a core (R240, R279). -/
def State.vaultHeld (s : State) (ctx core ofs n : Nat) : Bool :=
  (s.core core).vault.any fun v => v.1 = ctx && v.2.1 ≤ ofs && ofs + n ≤ v.2.1 + v.2.2.1

/-- The checks on a vault-window address after alignment (R240). (DEDUCED: log 25) -/
def State.vaultChk (s : State) (who : Who) (need : Need) (lane : Nat) (va : DWord) (n : Nat) : Chk :=
  let a := va.toNat
  let ofs := a % 2 ^ 22
  let c := a / 2 ^ 22 % 64
  if a / 2 ^ 28 % 2 ^ 20 ≠ 0 ∨ (40 ≤ c ∧ c ≠ 63) ∨ 0x300000 ≤ ofs then .fault 0x07 1
  else if !s.vaultHeld who.ctx (vaultCore who a) ofs n then .fault 0x07 4
  else
    let ks := keysAt (vaultKey (vaultCore who a) ofs) n
    match s.failsFor need ks 0 with
    | some cause => .fault cause 1
    | none => .ok { lane := lane, va := va, keys := ks, label := 0, cached := false }

/-- A frame of the firmware reserve for a refetch (R326, R404): one that has gone back to the reserve, or the lowest of a
granted-to-nobody unit that no refetch has taken; on the frame's own die, or, where that is lost, on any. -/
def State.reserveFrame (s : State) (die : Nat) : Option Nat :=
  let ok := fun (f : Nat) => if (s.die die).lost then !(s.die (f / 2 ^ 25)).lost else f / 2 ^ 25 = die
  let taken := s.dies.flatMap fun d => d.2.retireMap.map (·.2)
  match s.vm.reserve.find? fun f => ok f && !s.vm.retired.contains f with
  | some f => some f
  | none => (List.range 4).findSome? fun d =>
    if !ok (d * 2 ^ 25) then none
    else (List.range (s.reg 0 (oMod (0x50 + 4 * d)))).findSome? fun u =>
      if (mget s.vm.grants (d * 2 ^ 16 + u)).isSome then none
      else ((List.range 512).map fun i => d * 2 ^ 25 + 512 * u + i).find? fun f =>
        !taken.contains f && !s.vm.retired.contains f
/-- A read of a shared frame failed beyond correction: a frame with a backing copy is fetched again into a frame of the
reserve, and later accesses are redirected (R326). -/
def State.refetch (s : State) (frame : Nat) : State :=
  let d := frame / 2 ^ 25
  let entry := s.dies.findSome? fun e => e.2.day.findSome? fun b => b.2.find? fun g => g.ref ≠ 0 && g.frame = frame && g.bk
  match entry, s.reserveFrame d with
  | some g, some f =>
    if 256 ≤ (s.die d).retireMap.length then s
    else
      let kid := (mget s.vm.domains g.dom).getD 0
      let s1 := s.copyBytes (hostKey g.back.toNat) (devKey (4096 * f)) 4096 kid
      let s2 := { s1 with vm := { s1.vm with reserve := s1.vm.reserve.erase f, retired := frame :: s1.vm.retired } }
      s2.setDie d { s2.die d with retireMap := mput (s2.die d).retireMap frame f }
  | _, _ => s

/-- A shared frame whose read has failed beyond correction is fetched again (R326). -/
def State.refetched (s : State) (cause : Nat) (e : DWord) : State :=
  if cause = 0x0E && eBit e 9 then s.refetch (eDev e / 4096) else s

/-- Key of an intermediate page among the biases in force. -/
def biasKey (ctx page : Nat) : Nat := ctx * 2 ^ 36 + page
/-- Host bias is in force for an intermediate page whose leaf has this BIAS bit (R261, R373). -/
def State.hostBias (s : State) (ctx page : Nat) (leaf : Bool) : Bool := mgetD s.vm.bias (biasKey ctx page) leaf
/-- An access sets the bias in force where none is noted. -/
def State.noteBias (s : State) (ctx page : Nat) (leaf : Bool) : State :=
  if (mget s.vm.bias (biasKey ctx page)).isSome then s
  else { s with vm := { s.vm with bias := mput s.vm.bias (biasKey ctx page) leaf } }

/-- The checks on a virtual address after alignment, but for the integrity of its bytes (R241); with the leaf that
translated it, where they pass. -/
def State.virtAt (s : State) (who : Who) (need : Need) (lane : Nat) (va : DWord) (n : Nat) : (Chk × DWord) × State :=
  let r := s.translate who need va
  match r.1 with
  | .fault c sub => ((.fault c sub, 0), r.2)
  | .miss p o => ((.miss p o, 0), r.2)
  | .ok k label e ia =>
    let s1 := r.2.countAccess who e ia
    let broke := if need = .wr then s1.breakShare who.ctx ia else .ok s1
    match broke with
    | .error cause => ((.fault cause 1, e), s1.refetched cause e)
    | .ok s2 =>
      let cow := decide (need = .wr) && eBit e 9
      -- after a break the page is read again through the leaf that now stands
      let at_ := if cow then
          match s2.s2leaf who.ctx ia with
          | .leaf e2 lvl _ => (s2.s2key who.ctx e2 (lvlShift lvl) ia,
              match mget s2.ctxs who.ctx with | some c => c.skey | none => label)
          | _ => (k, label)
        else if (eSeg e).testBit (ia / 1024 % 4) && eBit e 9 then
          (k, match mget s2.ctxs who.ctx with | some c => c.skey | none => label)
        else (k, label)
      ((.ok { lane := lane, va := va, keys := keysAt at_.1 n, label := at_.2, cached := true,
              atHost := eBit e 11 || s2.hostBias who.ctx (ia / 4096) (eBit e 10), page := ia / 4096 }, e),
        if eBit e 11 then s2 else s2.noteBias who.ctx (ia / 4096) (eBit e 10))
/-- The checks on a virtual address after alignment (R241, R326). -/
def State.virtChk (s : State) (who : Who) (need : Need) (lane : Nat) (va : DWord) (n : Nat) : Chk × State :=
  let r := s.virtAt who need lane va n
  match r.1.1 with
  | .ok a => match r.2.failsFor need a.keys a.label with
    | some cause => (.fault cause 1, r.2.refetched cause r.1.2)
    | none => (.ok a, r.2)
  | c => (c, r.2)

/-- The checks on one lane's access to memory (R193, R239 to R241): alignment, then vault or virtual address. -/
def State.access (s : State) (who : Who) (need : Need) (vaultOk : Bool) (lane : Nat) (va : DWord) (n : Nat) :
    Chk × State :=
  if va.toNat % n ≠ 0 then (.fault 0x04 0, s)
  else if va.toNat / 2 ^ 48 = 0xFE00 ∧ vaultOk then (s.vaultChk who need lane va n, s)
  else s.virtChk who need lane va n

/-- The order of the causes of a lane fault (R190); a copy-on-write without a frame comes last. (DEDUCED: log 26) -/
def causeRank (cause sub : Nat) : Nat :=
  if cause = 0x04 then 0
  else if cause = 0x07 ∧ sub = 1 then 1
  else if cause = 0x05 then 2
  else if cause = 0x06 then 3
  else if cause = 0x07 then 4
  else if cause = 0x0B then 5
  else if cause = 0x0D then 6
  else if cause = 0x0E then 7
  else 8

/-- The shareable window bit of the page at an address (R197), as its translation stands. -/
def State.inWindow (s : State) (ctx ia : Nat) : Bool :=
  match s.s2leaf ctx ia with
  | .leaf e _ _ => eBit e 8
  | _ => false

/-- A piece of a run of bytes within one segment of a page. -/
structure Piece where
  key : Key
  len : Nat
  label : Nat
  atHost : Bool
  deriving DecidableEq, Repr

/-- The bytes' keys of pieces in order, and the lines they lie in. -/
def pieceKeys (ps : List Piece) : List Key := ps.flatMap fun p => keysAt p.key p.len
def pieceLines (ps : List Piece) : List LineRef :=
  ps.flatMap fun p => (linesOf (keysAt p.key p.len)).map fun l => ⟨l, p.label, p.atHost⟩

/-- A run of bytes translated segment by segment (R211): the pieces before the first that fails, and that failure
with its address. whole: a line all of whose bytes are written needs no check of what it held (R326). -/
def State.range (s : State) (who : Who) (need : Need) (whole : Bool) (va : DWord) (lim : Nat) :
    Nat → List Piece → (List Piece × Option (Chk × DWord)) × State
  | 0, acc => ((acc.reverse, none), s)
  | fuel + 1, acc =>
    if lim = 0 then ((acc.reverse, none), s)
    else
      let n := min lim (1024 - va.toNat % 1024)
      let r := s.virtAt who need 0 va n
      match r.1.1 with
      | .ok a =>
        match r.2.firstBad (need ≠ .wr) whole a.keys a.label with
        | some (i, cause) =>
          ((acc.reverse, some (.fault cause 1, va + BitVec.ofNat 64 i)), r.2.refetched cause r.1.2)
        | none => r.2.range who need whole (va + BitVec.ofNat 64 n) (lim - n) fuel
          (⟨a.keys.headD 0, n, a.label, a.atHost⟩ :: acc)
      | c => ((acc.reverse, some (c, va)), r.2)

/-- A whole run of bytes, or what stops it. -/
def State.rangeOf (s : State) (who : Who) (need : Need) (va : DWord) (n : Nat) :
    (List Piece × Option (Chk × DWord)) × State :=
  s.range who need false va n (n / 1024 + 2) []
/-- The same for bytes a copy writes. -/
def State.rangeCopy (s : State) (who : Who) (need : Need) (va : DWord) (n : Nat) :
    (List Piece × Option (Chk × DWord)) × State :=
  s.range who need true va n (n / 1024 + 2) []

end Sys2Proof.Machine
end

