-- ==== Sys2Proof/Machine/Wave.lean ====
section
/-! DEFINITION. Machine/Wave.lean: the slots, frames and lanes of a wave, and how an instruction leaves its place:
it advances, waits, or ends its clause. -/

namespace Sys2Proof

def SlotId.other : SlotId → SlotId
  | .A => .B | .B => .A
def SlotId.code : SlotId → Nat
  | .A => 0 | .B => 1

end Sys2Proof

namespace Sys2Proof.Machine

def Wave.slot (v : Wave) : SlotId → PcSlot
  | .A => v.ctl.a | .B => v.ctl.b
def Wave.setSlot (v : Wave) (x : SlotId) (p : PcSlot) : Wave :=
  match x with
  | .A => { v with ctl := { v.ctl with a := p } }
  | .B => { v with ctl := { v.ctl with b := p } }
def Wave.modSlot (v : Wave) (x : SlotId) (f : PcSlot → PcSlot) : Wave := v.setSlot x (f (v.slot x))

def State.wave? (s : State) (w : Nat) : Option Wave := mget s.waves w
def State.modWave (s : State) (w : Nat) (f : Wave → Wave) : State :=
  match mget s.waves w with
  | some v => s.setWave w (f v)
  | none => s
def State.modCore (s : State) (c : Nat) (f : Core → Core) : State := s.setCore c (f (s.core c))
def State.modBlock (s : State) (b : Nat) (f : Block → Block) : State :=
  match mget s.blocks b with
  | some k => s.setBlock b (f k)
  | none => s
def State.modCtx (s : State) (c : Nat) (f : Ctx → Ctx) : State :=
  match mget s.ctxs c with
  | some k => s.setCtx c (f k)
  | none => s

/-- Number of a core in the module (R13), and of a wave's place. -/
def WId.coreIx (i : WId) : Nat := i.die * 40 + i.core
def WId.place (i : WId) : Nat := i.coreIx * 96 + i.slot
def Wave.core (v : Wave) : Nat := v.id.coreIx
/-- Accessor of a slot's own accesses. -/
def Wave.who (v : Wave) (x : SlotId) : Who := ⟨v.id.ctx, v.core, (v.slot x).sup, 0⟩
/-- Accessor of the module's accesses on behalf of a wave: spills and trap frames (R40, R290). (DEDUCED: log 16) -/
def Wave.self (v : Wave) : Who := ⟨v.id.ctx, v.core, true, 0⟩

/-! ### Registers held and rotation (R49, R58, R67) -/

def Wave.vHeld (v : Wave) (n : Nat) : Bool := n < 8 * v.regs.g
def Wave.sHeld (v : Wave) (n : Nat) : Bool := n < 16 * v.regs.h

/-- The loop frames of the current call frame, innermost first. -/
def openLoops : List Frame → List Frame
  | [] => []
  | .loop m s z e t :: r => .loop m s z e t :: openLoops r
  | .call _ _ _ _ :: _ => []
  | .trap _ _ _ :: _ => []
def Frame.mask : Frame → Mask
  | .loop m _ _ _ _ => m | .call _ _ m _ => m | .trap _ _ m => m
def Frame.setMask (m : Mask) : Frame → Frame
  | .loop _ s z e t => .loop m s z e t | .call r b _ d => .call r b m d | .trap x b _ => .trap x b m
def Frame.isLoop : Frame → Bool
  | .loop _ _ _ _ _ => true | _ => false
def Frame.isCall : Frame → Bool
  | .call _ _ _ _ => true | _ => false
/-- A pipelined frame (R62). -/
def Frame.pipelined : Frame → Bool
  | .loop _ s z _ _ => 0 < z || 1 < s | _ => false
def Frame.rot : Frame → Nat
  | .loop _ _ z _ _ => z | _ => 0
/-- Loop frames in the whole stack (R62). -/
def Wave.depth (v : Wave) : Nat := (v.ctl.frames.filter Frame.isLoop).length

/-- The rotating frame in force for a slot (R67, R69). -/
def Wave.rotFrame (v : Wave) (x : SlotId) : Option Frame :=
  (openLoops v.ctl.frames).find? fun f => 0 < f.rot && subMask (v.slot x).mask f.mask
/-- The physical register a name stands for (R67). -/
def Wave.phys (v : Wave) (x : SlotId) (n : Nat) : Nat :=
  match v.rotFrame x with
  | some f => if 32 ≤ n ∧ n < 32 + f.rot then 32 + (n - 32 + v.ctl.rb) % f.rot else n
  | none => n

def Wave.vreg (v : Wave) (n : Nat) : Lanes := mgetD v.regs.v n []
def Wave.oreg (v : Wave) (n : Nat) : Lanes := mgetD v.regs.o n []
def Wave.sreg (v : Wave) (n : Nat) : DWord := mgetD v.regs.s n 0
def Wave.preg (v : Wave) (n : Nat) : Mask := mgetD v.regs.p n 0
def Wave.kreg (v : Wave) (n : Nat) : Bool := v.regs.k.toNat.testBit n
def Wave.setV (v : Wave) (n : Nat) (l : Lanes) : Wave := { v with regs := { v.regs with v := mput v.regs.v n l } }
def Wave.setO (v : Wave) (n : Nat) (l : Lanes) : Wave := { v with regs := { v.regs with o := mput v.regs.o n l } }
def Wave.setS (v : Wave) (n : Nat) (d : DWord) : Wave := { v with regs := { v.regs with s := mput v.regs.s n d } }
def Wave.setP (v : Wave) (n : Nat) (m : Mask) : Wave := { v with regs := { v.regs with p := mput v.regs.p n m } }
def Wave.setK (v : Wave) (n : Nat) (b : Bool) : Wave :=
  { v with regs := { v.regs with k := if b then v.regs.k ||| BitVec.ofNat 8 (2 ^ n)
                                      else v.regs.k &&& ~~~BitVec.ofNat 8 (2 ^ n) } }
/-- Apply flags (R92). -/
def Wave.raiseFlags (v : Wave) (f : BitVec 6) : Wave := { v with regs := { v.regs with flags := v.regs.flags ||| f } }

/-- Write lanes of a physical main register. -/
def Wave.putV (v : Wave) (n : Nat) (m : Mask) (f : Nat → Word) : Wave := v.setV n (mergeLanes m f (v.vreg n))
def Wave.putO (v : Wave) (n : Nat) (m : Mask) (f : Nat → Word) : Wave := v.setO n (mergeLanes m f (v.oreg n))

/-! ### The clause under issue -/

def PcSlot.word? (p : PcSlot) : Option (Word × List Word) := p.clause.bind fun c => c.items[p.pos]?
def PcSlot.hdr (p : PcSlot) : Header := match p.clause with
  | some c => c.hdr | none => unpackHeader 0
def PcSlot.nextPc (p : PcSlot) : CAddr := match p.clause with
  | some c => c.next | none => p.pc
def PcSlot.headPc (p : PcSlot) : CAddr := match p.clause with
  | some c => c.hpc | none => p.pc
/-- The instruction at the slot's position stands last in its clause. -/
def PcSlot.isLast (p : PcSlot) : Bool := match p.clause with
  | some c => p.pos + 1 == c.items.length | none => true

/-- Bytes of an instruction with its extension words. -/
def itemLen (i : Word × List Word) : Nat := 4 + 4 * i.2.length
/-- The address of the instruction at the slot's position, or of the header where it stands at none (R150). -/
def PcSlot.at_ (p : PcSlot) : CAddr := match p.clause with
  | some c => if p.pos < c.items.length
      then c.hpc + 4 + BitVec.ofNat 48 ((c.items.take p.pos).map itemLen).sum
      else c.hpc
  | none => p.pc

/-- Guard of a V or M instruction (R104): lanes where p[PG] xor PS holds. -/
def Wave.guard (v : Wave) (x : SlotId) : Mask :=
  let h := (v.slot x).hdr
  if h.ps then ~~~v.preg h.pg.toNat else v.preg h.pg.toNat
/-- Active lanes of a V or M instruction (R104), of those it is still to be issued for (R190). -/
def Wave.active (v : Wave) (x : SlotId) (g : Bool) : Mask :=
  let m := if g then (v.slot x).mask &&& v.guard x else (v.slot x).mask
  match (v.slot x).only with
  | some o => m &&& o
  | none => m
/-- A U instruction executes (R104). -/
def Wave.uActive (v : Wave) (x : SlotId) (g : Bool) : Bool :=
  let h := (v.slot x).hdr
  !g || (v.kreg h.pg.toNat != h.ps)

/-! ### Readiness (R31, R32, R101) -/

/-- The slot runs the handler of the trap under way. -/
def Wave.handling (v : Wave) (x : SlotId) : Bool :=
  match v.trap.running with
  | some r => r.req.slot = x
  | none => false
/-- Lanes of the slot, in a mode, that wait for a page reply (R313). -/
def Wave.missing (v : Wave) (x : SlotId) (sup : Bool) : Bool := v.mem.miss.any fun m => m.slot = x && m.sup = sup
/-- The slot may issue as far as its own state says. -/
def Wave.canRun (v : Wave) (x : SlotId) : Bool :=
  let p := v.slot x
  !v.missing x p.sup && (p.phase = .run || (p.phase = .trap && v.handling x))
def Wave.isReady (v : Wave) (x : SlotId) : Bool :=
  let p := v.slot x
  v.canRun x && p.wait = none && !(match p.clause with | some c => c.waiting | none => false)
/-- The slot stands inside a clause, one of whose instructions has issued. (DESIGN CHOICE: log 23) -/
def PcSlot.inside (p : PcSlot) : Bool := p.clause.isSome && 0 < p.pos
/-- The other slot keeps this one from issuing (R32, R53, R101): it stands inside a clause where this one does not, or,
where both do or neither does, it is the other's turn: inside their clauses the slot that issued last goes on, and at the
clause boundary the other one comes. -/
def Wave.turnBlocked (v : Wave) (x : SlotId) : Bool :=
  v.isReady x.other &&
    (if (v.slot x).inside then (v.slot x.other).inside && v.ctl.last ≠ x
     else (v.slot x.other).inside || v.ctl.last = x)

/-- The slot waits and tries again at its next turn (R31). -/
def PcSlot.held (p : PcSlot) (r : Wait) : PcSlot := { p with wait := some r }
def State.hold (s : State) (w : Nat) (x : SlotId) (r : Wait) : State := s.modWave w fun v => v.modSlot x (·.held r)

/-- Start state of the next clause at an address. (DEDUCED: log 13) -/
def PcSlot.goto (p : PcSlot) (pc : CAddr) : PcSlot :=
  { p with pc := pc, clause := none, pos := 0, stale := none, wait := none, only := none, yieldDue := false,
           mark := none, due := false, cont := none, counted := false, asked := none, bar := none }
/-- The slot holds no lanes any more; a slot that handles a trap keeps its mode until the trap ends (R290). -/
def PcSlot.emptied (p : PcSlot) : PcSlot :=
  { p.goto p.pc with phase := .empty, mask := 0, join := none, pend := false }

/-- The slot after an instruction has completed: the next position, with the region-pending bit set where a
non-idempotent part was done in user mode (R142). -/
def PcSlot.stepped (p : PcSlot) : PcSlot :=
  { p with pos := p.pos + 1, wait := none, only := none, mark := none, stale := none, due := false,
           counted := false, asked := none, bar := none, pend := p.pend || (p.due && !p.sup) }
/-- Count the instruction under way as issued, once (R116). -/
def Wave.countIssue (v : Wave) (x : SlotId) : Wave :=
  if (v.slot x).counted then v
  else
    let u := v.modSlot x fun p => { p with counted := true }
    { u with ctl := { u.ctl with issued := u.ctl.issued + 1, last := x } }
/-- The instruction of slot x that has issued completes, whoever's turn it is (R31). -/
def Wave.complete (v : Wave) (x : SlotId) : Wave := (v.countIssue x).modSlot x PcSlot.stepped
/-- An instruction of slot x issues and completes (R101). -/
def Wave.advance (v : Wave) (x : SlotId) : Wave :=
  let u := v.complete x
  { u with ctl := { u.ctl with last := x } }
/-- An instruction completes by a transfer to an address, where the slot goes on when the clause ends (R103, R136). -/
def Wave.transfer (v : Wave) (x : SlotId) (pc : CAddr) : Wave :=
  (v.advance x).modSlot x fun p => { p with cont := some pc }
/-- The instruction under way is non-idempotent and has done something (R142). -/
def Wave.markDue (v : Wave) (x : SlotId) : Wave := v.modSlot x fun p => { p with due := true }

/-- The header of the slot's clause stands at le of the innermost frame, a loop frame (R65). -/
def Wave.atLoopEnd (v : Wave) (x : SlotId) : Bool :=
  match v.ctl.frames with
  | .loop _ _ _ _ _ :: _ => v.depth ≠ 0 && mgetD v.ctl.le (v.depth - 1) 0 = (v.slot x).headPc
  | _ => false

/-- A wake event ends the sleep of every slot (R137). (DEDUCED: log 18) -/
def Wave.wake (v : Wave) : Wave :=
  let u := if v.ctl.a.wait = some .sleep then v.complete .A else v
  if u.ctl.b.wait = some .sleep then u.complete .B else u
/-- A phase flip of the object at an offset releases the slots that wait there with BARW (R46). (DEDUCED: log 32) -/
def Wave.release (v : Wave) (o : Nat) : Wave :=
  let waits := fun (p : PcSlot) => decide (p.wait = some .barw) && decide (p.bar = some o)
  let u := if waits v.ctl.a then v.complete .A else v
  if waits u.ctl.b then u.complete .B else u

/-! ### Long-latency windows (R116) -/

/-- A load of another instruction holds an issue of this slot back: its window is used up and it holds lanes of the
slot. (DESIGN CHOICE: log 23) -/
def Wave.windowShut (v : Wave) (x : SlotId) : Bool :=
  v.mem.loads.any fun l => l.todo ≠ 0 && decide (l.at_ + l.la ≤ v.ctl.issued) && (l.lanes &&& (v.slot x).mask) ≠ 0
/-- Every window of the wave has closed (R141). -/
def Wave.windowsClosed (v : Wave) : Bool := v.mem.loads.all fun l => l.todo = 0

end Sys2Proof.Machine
end

