-- ==== Sys2Proof/Machine/Ops.lean ====
section
/-! DEFINITION. Machine/Ops.lean: the operations the instructions share: the end of a context (R301), accesses the
module makes for a wave (R40, R290), the reconvergence list (R33 to R38), taking a trap (R290 to R293), returning from
one (R148, R291), and the register pool (R49, R50). -/

namespace Sys2Proof.Machine

/-! ### The register pool (R49, R50) -/

/-- Registers added at the top of a wave's range read 0 (R49). -/
def WRegs.grow (r : WRegs) (k : Nat) : WRegs :=
  { r with v := r.v.filter fun e => e.1 < 8 * r.g, g := r.g + k }
/-- Registers removed at the top of a wave's range are lost (R49). -/
def WRegs.shrink (r : WRegs) (k : Nat) : WRegs :=
  { r with v := r.v.filter fun e => e.1 < 8 * (r.g - k), g := r.g - k }

/-- Grants to the head of a core's claim queue, while F allows (R50). -/
def State.grants (s : State) (c : Nat) : Nat → State
  | 0 => s
  | fuel + 1 =>
    match (s.core c).claims with
    | [] => s
    | q :: rest =>
      if (s.core c).free < q.granules then s
      else
        let s1 := s.modCore c fun k => { k with claims := rest, free := k.free - q.granules }
        (s1.modWave q.wave fun v => ({ v with regs := v.regs.grow q.granules } : Wave).complete q.slot).grants c fuel
def State.grantLoop (s : State) (c : Nat) : State := s.grants c (s.core c).claims.length

/-! ### Waves and blocks leave (R50, R279, R301) -/

/-- A block's record goes when its last wave has gone: its pad, valid bits, rings and hold on the vault go with it. -/
def State.dropBlock (s : State) (b : Nat) : State :=
  match mget s.blocks b with
  | none => s
  | some k =>
    let left := mdel s.blocks b
    let gone := !left.any fun e => e.2.cluster = k.cluster
    let s1 := { s with blocks := left, sched := { s.sched with leaving :=
      if gone then (s.sched.leaving.filter fun l => l.cluster ≠ k.cluster) else s.sched.leaving } }
    s1.modCore (k.die * 40 + k.core) fun c => { c with vault := c.vault.filter fun v => v.2.2.2 ≠ b }

/-- Entries of a store queue enter the write path, in order, each access for itself (R245, R253); what they would write
into a pad that is given up is nobody's any more. -/
def Core.enqueue (c : Core) (es : List StoreE) : Core :=
  es.foldl (fun c e => if e.pad then c else e.parts.foldl (fun c p =>
    { c with path := c.path ++ [{ p with pseq := c.pathSeq }], pathSeq := c.pathSeq + 1 }) c) c
/-- The least of the numbers no wave has: this and the number of its task own an entry whose wave has gone.
(DESIGN CHOICE: log 29) -/
def noWave : Nat := 2 ^ 20
/-- Entries of a wave that has gone are counted by nobody. (DESIGN CHOICE: log 29) -/
def Core.orphan (c : Core) (w task : Nat) : Core :=
  { c with path := c.path.map fun e => if e.wave = w then { e with wave := noWave + task, silent := true } else e }

/-! ### Shares of the network and the L2 (R284, R285) -/

/-- Flits a source of a die has sent for a context in a light period. -/
def State.flitsIn (s : State) (die src ctx period : Nat) : Nat :=
  ((s.die die).flits.find? fun f => f.1 = src && f.2.1 = ctx && f.2.2.1 = period).elim 0 (·.2.2.2)
/-- The stamp of a packet: the earliest period, from this one to three ahead, in which the source has quota left for the
context; none where it must wait (R284, R286). (DESIGN CHOICE: log 11) -/
def State.stampFor (s : State) (die src ctx : Nat) : Option Nat :=
  ((List.range 4).map (s.time / 512 + ·)).find? fun p => s.flitsIn die src ctx p < max 1 (s.reg 0 (oSched ctx 0x08))
/-- A packet of one flit is counted in a period. (DESIGN CHOICE: log 11) -/
def State.countFlit (s : State) (die src ctx period : Nat) : State :=
  let k := s.die die
  let rest := k.flits.filter fun f => !(f.1 = src && f.2.1 = ctx && f.2.2.1 = period)
  s.setDie die { k with flits := (src, ctx, period, s.flitsIn die src ctx period + 1) :: rest }
/-- Requests of a context that an L2 slice has queued. (DESIGN CHOICE: log 11) -/
def State.queuedAt (s : State) (ctx slice : Nat) : Nat :=
  (s.cores.map fun c => (c.2.path.filter fun e => e.ctx = ctx && e.hint.isNone && e.slices.contains slice).length).sum
/-- An L2 slice has no room for one request more of the context beside n of its own (R285, R286). -/
def State.sliceFull (s : State) (e : StoreE) (mine : Nat) : Bool :=
  let share := s.reg 0 (oSched e.ctx 0x0C)
  let cap := if 1 ≤ share ∧ share ≤ 64 then share else 64
  decide (s.time / 512 < e.stamp + 2) && e.slices.any fun q => decide (cap + mine ≤ s.queuedAt e.ctx q)
/-- The time a refusal's hint ends: 1 to 255 units of 8 ns (R285). -/
def State.hintEnd (s : State) : Nat := s.time + 8 * (1 + Config.freeNat s.fresh % 255)
/-- The requests of a core from a place in its path on reach their slices: those beyond the context's share are refused
(R285). (DESIGN CHOICE: log 11) -/
def State.refuseNew (s : State) (core first : Nat) : State :=
  (List.range (s.core core).path.length).foldl (fun s i => match (s.core core).path[i]? with
    | some e =>
      if first ≤ i ∧ s.sliceFull e 1 then
        { s with fresh := s.fresh + 1 }.modCore core fun c => { c with path := c.path.set i { e with hint := some s.hintEnd } }
      else s
    | none => s) s

/-- The granules a wave holds: those it was captured with, where it has been (R50, R298). (DEDUCED: log 56) -/
def State.granulesOf (s : State) (w : Nat) (v : Wave) : Nat :=
  ((s.sched.leaving.findSome? fun l => l.held.find? fun e => e.1 = w).map (·.2)).getD v.regs.g
/-- Remove a wave: its granules return to the pool, its requests leave the queue, its slot is free (R50). -/
def State.dropWave (s : State) (w : Nat) : State :=
  match s.wave? w with
  | none => s
  | some v =>
    let c := v.core
    let s1 := { s with waves := mdel s.waves w }
    let s2 := s1.modCore c fun k =>
      let left := (k.enqueue v.mem.queue).orphan w v.id.task
      { left with free := k.free + s.granulesOf w v, claims := k.claims.filter fun q => q.wave ≠ w }
    let s3 := s2.modBlock v.id.block fun b => { b with waves := b.waves.erase w }
    let s4 := match mget s3.blocks v.id.block with
      | some b => if b.waves.isEmpty then s3.dropBlock v.id.block else s3
      | none => s3
    s4.grantLoop c

/-- Advance both generation counters of a wave slot (R76). -/
def State.bumpGen (s : State) (w : Nat) : State :=
  s.modCore (w / 96) fun k => { k with genV := mput k.genV (w % 96) (mgetD k.genV (w % 96) 0 + 1),
                                       genS := mput k.genS (w % 96) (mgetD k.genS (w % 96) 0 + 1) }

/-- When a Buoy's queue became empty, where it takes this form now (R281). -/
def Die.idleFrom (k : Die) (q : List Pending) (now : Nat) : Nat :=
  if q.isEmpty && !k.queue.isEmpty then now else k.idleSince
/-- Terminate a context (R301): waves, engine work, held feed items, tickets, records and images go, its eyelet key is
destroyed, and its tasks end with status 4 and the cause. (DEDUCED: log 42, 53) -/
def State.terminate (s : State) (ctx cause : Nat) (code : Word) : State :=
  match s.liveCtx ctx with
  | none => s
  | some c =>
    let mine := (s.waves.filter fun e => e.2.id.ctx = ctx).map (·.1)
    let s1 := s.setCtx ctx { c with terminated := true, termCause := cause, termCode := code, ekey := none }
    let s2 := mine.foldl (fun s w => (s.bumpGen w).dropWave w) s1
    let s3 := { s2 with cores := meach s2.cores fun (k : Core) => { k with
      jobs := k.jobs.filter fun j => j.ctx ≠ ctx,
      cmds := k.cmds.filter fun m => !mine.contains m.wave,
      acc := mkeep k.acc fun a => !mine.contains a.owner,
      records := k.records.filter fun r => r.ctx ≠ ctx,
      vault := k.vault.filter fun v => v.1 ≠ ctx } }
    let other := fun (p : Pending) => match mget s3.sched.tasks p.task with
      | some t => decide (t.ctx ≠ ctx)
      | none => true
    { s3 with
      blocks := mkeep s3.blocks fun b => b.ctx ≠ ctx,
      gfx := { s3.gfx with
        prims := s3.gfx.prims.filter fun p => p.ctx ≠ ctx,
        paths := s3.gfx.paths.filter fun p => p.ctx ≠ ctx,
        splats := s3.gfx.splats.filter fun p => p.ctx ≠ ctx,
        draws := s3.gfx.draws.filter fun p => p.ctx ≠ ctx,
        spills := s3.gfx.spills.filter fun p => p.ctx ≠ ctx,
        commits := s3.gfx.commits.filter fun p => p.ctx ≠ ctx,
        tickets := s3.gfx.tickets.filter fun t => match mget s3.sched.tasks t.1 with
          | some k => decide (k.ctx ≠ ctx)
          | none => false },
      sched := { s3.sched with
        images := mkeep s3.sched.images fun i => i.ctx ≠ ctx,
        leaving := s3.sched.leaving.filter fun l => l.ctx ≠ ctx,
        tasks := meach s3.sched.tasks fun t => if t.ctx = ctx then { t with status := some (4, cause) } else t },
      dies := meach s3.dies fun (d : Die) => { d with
        queue := d.queue.filter other, incoming := d.incoming.filter other,
        idleSince := d.idleFrom (d.queue.filter other) s.time, reqs := d.reqs.filter fun r => r.ctx ≠ ctx } }

/-! ### Accesses of the module for a wave (R40, R290, R296) -/

/-- Cause of a failed check; a page that is missing counts as a failed translation here, where no reply is awaited. -/
def Chk.cause : Chk → Nat
  | .fault c _ => c
  | .miss _ _ => 0x06
  | .ok _ => 0

/-- Write bytes at a virtual address as a store of the wave that no counter counts, behind its earlier stores. -/
def State.selfWrite (s : State) (w : Nat) (v : Wave) (va : DWord) (bs : List Byte) : Option Nat × State :=
  let r := s.rangeOf v.self .wr va bs.length
  match r.1.2 with
  | some f => (some f.1.cause, r.2)
  | none =>
    (none, r.2.modWave w fun v => { v with mem := { v.mem with
      queue := v.mem.queue ++ [{ wave := w, ctx := v.id.ctx, group := v.mem.nextId,
                                 kind := .write (zipCells (pieceKeys r.1.1) bs), lines := pieceLines r.1.1,
                                 pad := false, silent := true }],
      nextId := v.mem.nextId + 1 } })

/-- Read bytes at a virtual address behind the wave's own earlier stores. -/
def State.selfRead (s : State) (v : Wave) (va : DWord) (n : Nat) : Except Nat (List Byte) × State :=
  let r := s.rangeOf v.self .rd va n
  match r.1.2 with
  | some f => (.error f.1.cause, r.2)
  | none => (.ok ((pieceKeys r.1.1).map fun k => (youngest v.mem.queue k).getD (r.2.below v.core k)), r.2)

/-- The pages of a wave's spill area and trap frame that a translation would miss (R311): the first one.
(DEDUCED: log 16) -/
def State.selfMiss (s : State) (v : Wave) (ofs n : Nat) : Option (Nat × Nat × State) :=
  let r := s.rangeOf v.self .wr (v.id.priv + BitVec.ofNat 64 ofs) n
  match r.1.2 with
  | some (.miss p o, _) => some (p, o, r.2)
  | _ => none

/-! ### The reconvergence list (R38, R39) -/

def noJoin : Nat := 2 ^ 48 - 1
/-- The 48 bytes of a spilled entry (R39). -/
def REntry.pack (e : REntry) : List Byte :=
  bytesOfNat 48 (e.mask.toNat + (if e.merge then e.arrived.toNat else 0) * 2 ^ 96 + e.pc.toNat * 2 ^ 192
    + (match e.join with | some j => j.toNat | none => noJoin) * 2 ^ 240 + bnat e.merge * 2 ^ 288)
/-- An entry as refilled: MASK and ARRIVED within the live mask (R39, R40). -/
def REntry.unpack (b : List Byte) (live : Mask) (tag : Nat) : REntry :=
  let n := natOfBytes b
  let j := n / 2 ^ 240 % 2 ^ 48
  ⟨n / 2 ^ 288 % 2 == 1, BitVec.ofNat 48 (n / 2 ^ 192), BitVec.ofNat 96 n &&& live,
    BitVec.ofNat 96 (n / 2 ^ 96) &&& live, if j = noJoin then none else some (BitVec.ofNat 48 j), tag⟩

/-- Length of the whole list. -/
def WCtl.listLen (c : WCtl) : Nat := c.spilled.length + c.recon.length
def spillAt (v : Wave) (i : Nat) : DWord := v.id.priv + BitVec.ofNat 64 (48 * i)

/-- The spilled entries as memory holds them, oldest first. (DEDUCED: log 16) -/
def State.readSpill (s : State) (v : Wave) : List Nat → Nat → Except Nat (List REntry) × State
  | [], _ => (.ok [], s)
  | t :: ts, i =>
    match s.selfRead v (spillAt v i) 48 with
    | (.error c, s1) => (.error c, s1)
    | (.ok b, s1) =>
      match s1.readSpill v ts (i + 1) with
      | (.error c, s2) => (.error c, s2)
      | (.ok l, s2) => (.ok (REntry.unpack b v.ctl.live t :: l), s2)

/-- The whole list, oldest first. -/
def State.readList (s : State) (w : Nat) : Except Nat (List REntry) × State :=
  match s.wave? w with
  | none => (.ok [], s)
  | some v =>
    match s.readSpill v v.ctl.spilled 0 with
    | (.error c, s1) => (.error c, s1)
    | (.ok l, s1) => (.ok (l ++ v.ctl.recon), s1)

/-- Write the entries of the spill area that memory does not already hold. (DEDUCED: log 16) -/
def State.writeSpill (s : State) (w : Nat) (old : List REntry) : List REntry → Nat → Option Nat × State
  | [], _ => (none, s)
  | e :: es, i =>
    if old[i]? = some e then s.writeSpill w old es (i + 1)
    else
      match s.wave? w with
      | none => (none, s)
      | some v =>
        match s.selfWrite w v (spillAt v i) e.pack with
        | (some c, s1) => (some c, s1)
        | (none, s1) => s1.writeSpill w old es (i + 1)

/-- Keep a list: the 6 youngest entries on chip, the others in memory (R38). -/
def State.writeList (s : State) (w : Nat) (old new : List REntry) : Option Nat × State :=
  match s.wave? w with
  | none => (none, s)
  | some v =>
    let n := new.length - 6
    let s1 := s.setWave w { v with ctl := { v.ctl with recon := new.drop n, spilled := (new.take n).map (·.tag) } }
    s1.writeSpill w (old.take v.ctl.spilled.length) (new.take n) 0

/-- Change the list; a failed spill or refill terminates the context (R40). -/
def State.modList (s : State) (w : Nat) (f : List REntry → List REntry) : State :=
  match s.wave? w with
  | none => s
  | some v =>
    match s.readList w with
    | (.error c, s1) => s1.terminate v.id.ctx c 0
    | (.ok l, s1) =>
      match s1.writeList w l (f l) with
      | (none, s2) => s2
      | (some c, s2) => s2.terminate v.id.ctx c 0

/-- An operation on the list must wait for a page of the spill area (R311): the page and the request's ORIGIN.
(DEDUCED: log 16) -/
def State.listMiss (s : State) (v : Wave) : Option (Nat × Nat × State) :=
  if v.ctl.listLen < 5 then none else s.selfMiss v 0 0x1800

/-! ### Settle and arrival (R34, R35) -/

/-- Step 1 of the settle step on the list. -/
def fireMerges (live : Mask) (l : List REntry) : List REntry :=
  l.filterMap fun e =>
    if e.merge && subMask (e.mask &&& live) e.arrived then
      if e.mask &&& live = 0 then none
      else some { e with merge := false, mask := e.mask &&& live, arrived := 0 }
    else some e

/-- The youngest PATH entry a slot may take and the list without it. (DEDUCED: log 17) -/
def takePath (own : REntry → Bool) (l : List REntry) : Option (REntry × List REntry) :=
  match l.reverse.find? fun e => !e.merge && own e with
  | none => none
  | some e => some (e, (l.reverse.eraseP fun e => !e.merge && own e).reverse)
/-- A slot whose trap is being handled takes up only paths of the handler's own lanes: it is in TRAP until the trap ends
(R31, R290). (DEDUCED: log 17) -/
def Wave.mayTake (v : Wave) (x : SlotId) (e : REntry) : Bool :=
  match v.trap.running with
  | some r => r.req.slot ≠ x || subMask e.mask r.req.lanes
  | none => true

/-- A slot takes up a path; a handler's slot stays in TRAP and in supervisor mode (R290); a march wave's slot, in
supervisor mode throughout, runs. (DEDUCED: log 17) -/
def PcSlot.take (p : PcSlot) (march : Bool) (e : REntry) : PcSlot :=
  { p.emptied with phase := if p.sup && !march then .trap else .run, pc := e.pc, mask := e.mask, join := e.join }

/-- Step 2 of the settle step for one slot. -/
def fillSlot (x : SlotId) (a : Wave × List REntry) : Wave × List REntry :=
  if (a.1.slot x).phase ≠ .empty then a
  else match takePath (a.1.mayTake x) a.2 with
    | none => a
    | some (e, l) => (a.1.modSlot x (·.take a.1.id.march e), l)

/-- The settle step (R35) on a wave and its list. -/
def settleWave (v : Wave) (l : List REntry) : Wave × List REntry :=
  fillSlot .B (fillSlot .A (v, fireMerges v.ctl.live l))

/-- Change a wave and its list together, then settle (R35). -/
def State.modSettle (s : State) (w : Nat) (f : Wave → List REntry → Wave × List REntry) : State :=
  match s.wave? w with
  | none => s
  | some v =>
    match s.readList w with
    | (.error c, s1) => s1.terminate v.id.ctx c 0
    | (.ok l, s1) =>
      let a := f v l
      let b := settleWave a.1 a.2
      match (s1.setWave w b.1).writeList w l b.2 with
      | (none, s2) => s2
      | (some c, s2) => s2.terminate v.id.ctx c 0
def State.settle (s : State) (w : Nat) : State := s.modSettle w fun v l => (v, l)

/-- Index of the entry an arrival matches: the youngest that fits (R34). -/
def matchMerge (p : PcSlot) (l : List REntry) : Option Nat :=
  match p.join with
  | none => none
  | some j =>
    let fits := fun (e : REntry) => e.merge && e.pc = j && subMask p.mask e.mask && (p.mask &&& e.arrived) = 0
    match l.reverse.findIdx? fits with
    | some i => some (l.length - 1 - i)
    | none => none

/-- The slot's lanes park in entry i. -/
def parkIn (v : Wave) (x : SlotId) (l : List REntry) (i : Nat) : Wave × List REntry :=
  let m := (v.slot x).mask
  (v.modSlot x PcSlot.emptied,
    l.mapIdx fun j e => if j = i then { e with arrived := e.arrived ||| m } else e)

/-- An arrival (R34): whether an entry matched, and the state after parking and settling. -/
def State.arrive (s : State) (w : Nat) (x : SlotId) : Bool × State :=
  match s.wave? w with
  | none => (true, s)
  | some v =>
    match s.readList w with
    | (.error c, s1) => (true, s1.terminate v.id.ctx c 0)
    | (.ok l, s1) =>
      match matchMerge (v.slot x) l with
      | none => (false, s1)
      | some i => (true, s1.modSettle w fun v l => parkIn v x l i)

/-! ### Frames (R62 to R66, R69, R135) -/

/-- The loop registers of a depth read as 0 once no open frame holds it (R62). -/
def WCtl.clearLoop (c : WCtl) (d : Nat) : WCtl :=
  { c with lc := mdel c.lc d, ls := mdel c.ls d, le := mdel c.le d }
/-- Pop the innermost frame (R65, R135): a loop frame as at its end, a call frame as by RET. -/
def Wave.popFrame (v : Wave) : Wave :=
  match v.ctl.frames with
  | [] => v
  | f :: r =>
    let c := { v.ctl with frames := r }
    match f with
    | .loop _ _ _ _ _ =>
      { v with ctl := { (c.clearLoop (v.depth - 1)) with rb := if f.pipelined then 0 else c.rb } }
    | .call _ rb _ _ => { v with ctl := { c with rb := rb } }
    | .trap _ rb _ => { v with ctl := { c with rb := rb } }
/-- Pop frames whose masks are empty, from the innermost outward (R135). -/
def Wave.popEmpty (v : Wave) : Nat → Wave
  | 0 => v
  | fuel + 1 =>
    match v.ctl.frames with
    | f :: _ => if f.mask = 0 ∧ (f.isLoop ∨ f.isCall) then (v.popFrame).popEmpty fuel else v
    | [] => v
/-- Lanes leave every frame (R63). -/
def Wave.leaveFrames (v : Wave) (m : Mask) : Wave :=
  { v with ctl := { v.ctl with frames := v.ctl.frames.map fun f => f.setMask (f.mask &&& ~~~m) } }

/-! ### Waiting for a page (R311, R312) -/

/-- Mapped replies a wait for this page has had. -/
def askedFor (a : Option (Nat × Nat)) (page : Nat) : Nat :=
  match a with
  | some (p, k) => if p = page then k else 0
  | none => 0
/-- The instruction of slot x itself waits for a page: the request is made and the slot is in TRAP (R31). Where two mapped
replies have left the page missing, late decides (R312). -/
def State.pageHold (s : State) (w : Nat) (x : SlotId) (need : Need) (page origin : Nat) (late : State → State) :
    State :=
  match s.wave? w with
  | none => s
  | some v =>
    let k := askedFor (v.slot x).asked page
    if 2 ≤ k then late s
    else (s.request v.id.die v.id.ctx page need origin).modWave w fun v =>
      v.modSlot x fun p => { p with wait := some .page, asked := some (page, k),
                                    phase := if p.phase = .run then .trap else p.phase }

/-! ### Traps (R290 to R296) -/

/-- Causes for which XADDR holds an address (R150). -/
def addrCause (c : Nat) : Bool := c = 0x04 || c = 0x05 || c = 0x06 || c = 0x07 || c = 0x0D || c = 0x0E

/-- Where a trap goes (R293): a handler of the trap table, firmware, or the end of the context. -/
inductive Route where
  | handler (pc : CAddr)
  | firmware
  | fatal
  deriving DecidableEq, Repr

def route (k : Kernel) (forged cause sub : Nat) : Route :=
  let e := k.handlers.getD cause 0
  if cause = 0x0C ∨ (cause = 0x06 ∧ sub = 1) ∨ (cause = 0x14 ∧ 16 ≤ forged) then .fatal
  else if e ≠ 0 then .handler (BitVec.ofNat 48 (k.base.toNat + e))
  else if cause = 0x04 ∨ (cause = 0x05 ∧ sub = 2) then .firmware
  else .fatal

/-- Address of the memory part of the trap frame (R296). -/
def frameVa (v : Wave) : DWord := v.id.priv + 0x1800

/-- Mask of the loop frame at a depth from 1, counted from the outermost (R296). -/
def fmaskAt (v : Wave) (d : Nat) : Mask :=
  match ((v.ctl.frames.filter Frame.isLoop).reverse)[d - 1]? with
  | some f => f.mask
  | none => 0

/-- The first 0x100 bytes of the trap frame (R296). -/
def frameBytes (v : Wave) (q : TrapReq) : List Byte :=
  let p := v.slot q.slot
  bytesOfNat 8 (q.subcause * 256 + q.cause) ++ bytesOfNat 8 q.pc.toNat ++ bytesOfNat 8 q.addr.toNat
    ++ bytesOfNat 16 q.lanes.toNat ++ bytesOfNat 16 p.mask.toNat
    ++ bytesOfNat 8 (match p.join with | some j => j.toNat | none => noJoin)
    ++ bytesOfNat 4 (p.pos + 16 * q.slot.code + 32 * bnat p.pend) ++ bytesOfNat 4 v.regs.flags.toNat
    ++ bytesOfNat 8 v.ctl.rb
    ++ (List.range 4).flatMap (fun d => bytesOfNat 4 (mgetD v.ctl.lc d 0).toNat)
    ++ (List.range 4).flatMap (fun d => bytesOfNat 8 (mgetD v.ctl.ls d 0).toNat)
    ++ (List.range 4).flatMap (fun d => bytesOfNat 8 (mgetD v.ctl.le d 0).toNat)
    ++ (List.range 4).flatMap (fun d => bytesOfNat 16 (fmaskAt v (d + 1)).toNat)
    ++ bytesOfNat 8 q.code.toNat ++ bytesOfNat 24 0

/-- A slot as its handler starts in it (R290). -/
def handlerSlot (lanes : Mask) (pc : CAddr) (fw : Bool) : PcSlot :=
  { phase := .trap, pc := pc, mask := lanes, sup := true, firmware := fw }

/-- The wave as a handler begins (R290): the trap's registers set, the slot given to the handler's lanes, loop and
rotation state as CALL leaves it (R70). (DEDUCED: log 17) -/
def Wave.handle (v : Wave) (q : TrapReq) (pc : CAddr) (fw : Bool) : Wave :=
  let p := v.slot q.slot
  let run : TrapRun := { req := q, slot := p, o := v.regs.o, depth := v.ctl.listLen, frames := v.ctl.frames,
                         firmware := fw, bytes := [] }
  let t := { v.trap with
    xcause := BitVec.ofNat 64 (q.subcause * 256 + q.cause), xpc := q.pc.setWidth 64, xaddr := q.addr,
    xmasklo := q.lanes.setWidth 64, xmaskhi := BitVec.ofNat 64 (q.lanes.toNat / 2 ^ 64),
    xframe := frameVa v, xcode := q.code.setWidth 64, running := some run }
  let u := { v with trap := t }.setSlot q.slot (handlerSlot q.lanes pc fw)
  { u with ctl := { u.ctl with frames := .trap q.slot u.ctl.rb q.lanes :: u.ctl.frames, rb := 0 } }

/-- Take the exception at the head of the wave's queue (R290, R293), unless a handler runs: the memory part of the
frame is written, the trap's registers and the mode are set, and the slot goes to the handler. A frame page that misses
at stage 2 is requested, and the trap waits (R311). A frame that cannot be written, or a cause without a handler,
terminates the context. (DEDUCED: log 16) -/
def State.enter (s : State) (w : Nat) : State :=
  match s.wave? w with
  | none => s
  | some v =>
    match v.trap.running, v.trap.queue with
    | none, q :: rest =>
      let forged := match mget s.ctxs v.id.ctx with | some c => c.forged | none => 0
      match route v.id.kern forged q.cause q.subcause with
      | .fatal => s.terminate v.id.ctx q.cause q.code
      | r =>
        match s.selfMiss v 0x1800 256 with
        | some (p, o, s1) =>
          if 2 ≤ askedFor v.trap.asked p then s1.terminate v.id.ctx 0x06 0
          else (s1.request v.id.die v.id.ctx p .wr o).modWave w fun v =>
            { v with trap := { v.trap with asked := some (p, askedFor v.trap.asked p) } }
        | none =>
          match s.selfWrite w v (frameVa v) (frameBytes v q) with
          | (some c, s1) => s1.terminate v.id.ctx c 0
          | (none, s1) => s1.modWave w fun v =>
            { v with trap := { v.trap with queue := rest, asked := none } }.handle q
              (match r with | .handler pc => pc | _ => 0) (decide (r = Route.firmware))
    | _, _ => s

/-! ### The march waves of start-up (R393 to R395, R399) -/

/-- Core, kind and bank a repair entry names, as one number (R394). -/
def repairBank (e : Word) : Nat := fieldOf e.toNat 30 22
/-- Banks of a pair with an unrepairable row (R394, R395). -/
def Pair.badBanks (p : Pair) : List Nat :=
  (((p.repair.filter fun e => e.toNat.testBit 2).map repairBank) ++ p.lostBanks).eraseDups
/-- Banks with at least one failing row. -/
def Pair.failBanks (p : Pair) : List Nat := (p.repair.map repairBank ++ p.lostBanks).eraseDups
/-- FAIL, REP and UNREP of the status word, the verdict left 0 (R395). -/
def Pair.counts (p : Pair) : Nat :=
  let bad := p.badBanks.length
  min 255 p.failBanks.length * 2 ^ 24 + (p.failBanks.length - bad) % 256 * 2 ^ 16 + bad % 256 * 256
/-- The pair's status word at the retirement of its march wave. -/
def Pair.verdict (p : Pair) : Word :=
  if !p.uniformOk then 0xE1
  else BitVec.ofNat 32 (p.counts + if p.badBanks.isEmpty then 0x5A else 0xE1)
/-- Core i of a pair is excluded from placement (R28, R395). -/
def Pair.excludes (p : Pair) (i : Nat) : Bool := !p.uniformOk || p.badBanks.any fun b => b / 256 = i

/-- Step 5 of start-up (R393, R404): the reserve limits are set and the host port opens. (DESIGN CHOICE: log 6) -/
def State.openPort (s : State) : State :=
  let s1 := (List.range 4).foldl (fun s h =>
    s.setReg 0 (oMod (0x50 + 4 * h)) (min (Config.rsvlim h).toNat 53248)) s
  { s1 with trust := { s1.trust with boot_step := 6 } }
/-- The march wave of a pair has gone: the verdict, the cores left out, and step 5 once no march wave is left (R399). -/
def State.marchEnd (s : State) (p : Nat) : State :=
  let q := s.pair p
  let s1 := s.setPair p { q with status := q.verdict }
  let s2 := (List.range 2).foldl (fun s i =>
    if q.excludes i then s.modCore (2 * p + i) fun c => { c with usable := false } else s) s1
  if s2.waves.any fun e => e.2.id.march then s2 else s2.openPort
/-- The pair of a march wave. -/
def WId.pairIx (i : WId) : Nat := i.die * 20 + i.core / 2
/-- A march wave that takes a trap ends, and its pair reports that it is not usable (R399). -/
def State.marchTrap (s : State) (w : Nat) (v : Wave) : State :=
  let p := v.id.pairIx
  ((s.dropWave w).setPair p { s.pair p with uniformOk := false }).marchEnd p

/-- Raise a trap of slot x (R290): in supervisor mode it ends the context; otherwise the slot enters TRAP and the trap
is queued and, where no handler runs, entered. -/
def State.raise (s : State) (w : Nat) (q : TrapReq) : State :=
  match s.wave? w with
  | none => s
  | some v =>
    if v.id.march then s.marchTrap w v
    else if (v.slot q.slot).sup then s.terminate v.id.ctx q.cause q.code
    else
      (s.modWave w fun v =>
        { (v.modSlot q.slot fun p => { p with phase := .trap, wait := none }) with
          trap := { v.trap with queue := v.trap.queue ++ [q] } }).enter w

/-- A trap of lanes whose instruction issued in user mode and whose page reply failed later (R313): it is queued even
while the slot runs a handler. -/
def State.raiseLate (s : State) (w : Nat) (q : TrapReq) : State :=
  (s.modWave w fun v =>
    { (if v.handling q.slot then v else v.modSlot q.slot fun p => { p with phase := .trap, wait := none }) with
      trap := { v.trap with queue := v.trap.queue ++ [q] } }).enter w

/-- trap(cause) of R119: every lane of the slot traps at the instruction it stands at. -/
def State.trapAt (s : State) (w : Nat) (x : SlotId) (cause sub : Nat) (addr : DWord) (code : Word) : State :=
  match s.wave? w with
  | none => s
  | some v => s.raise w ⟨x, (v.slot x).mask, cause, sub, (v.slot x).at_, if addrCause cause then addr else 0, code, false⟩
def State.trapC (s : State) (w : Nat) (x : SlotId) (cause : Nat) : State := s.trapAt w x cause 0 0 0

/-- A trap at a header or a back edge (R63, R100): the PC is that header's address. -/
def State.trapHead (s : State) (w : Nat) (x : SlotId) (cause sub : Nat) (pc : CAddr) (addr : DWord) : State :=
  match s.wave? w with
  | none => s
  | some v => s.raise w ⟨x, (v.slot x).mask, cause, sub, pc, if addrCause cause then addr else 0, 0, false⟩

/-- lane_fault of R190: only the lanes of q.lanes trap, and only for them the instruction is still to be issued. -/
def State.laneTrap (s : State) (w : Nat) (x : SlotId) (lanes : Mask) (cause sub : Nat) (addr : DWord) : State :=
  match s.wave? w with
  | none => s
  | some v => s.raise w ⟨x, lanes, cause, sub, (v.slot x).at_, if addrCause cause then addr else 0, 0, true⟩

/-- The trap a user-mode slot takes before its next instruction: a pending overwrite (R73), or the matrix watchdog's
(R225). (DEDUCED: log 18) -/
def State.pendingTrap (s : State) (w : Nat) (x : SlotId) (v : Wave) : Option State :=
  if (v.slot x).sup then none
  else match v.trap.overwrite with
    | some r => some ((s.setWave w { v with trap := { v.trap with overwrite := none } }).trapAt w x 0x0A 0 0 (r.setWidth 32))
    | none =>
      if v.trap.watchdog then
        some ((s.setWave w { v with trap := { v.trap with watchdog := false } }).trapC w x 0x11)
      else none
/-- The slot takes a pending trap at once: it sleeps or waits for a mailbox register, in user mode (R73). -/
def PcSlot.takesNow (p : PcSlot) : Bool := !p.sup && (p.wait = some .sleep || p.wait = some .scoreboard)
/-- A trap has become pending for a wave: its sleepers wake, and a slot that takes it at once does (R73, R137, R225). -/
def State.pendNow (s : State) (w : Nat) : State :=
  match s.wave? w with
  | none => s
  | some v =>
    let u := v.wake
    let s1 := s.setWave w u
    match [SlotId.A, .B].find? fun x => (v.slot x).takesNow with
    | some x => (s1.pendingTrap w x u).getD s1
    | none => s1

/-! ### The end of a trap (R148, R291) -/

/-- The 0x5C bytes of the frame that SRET reads back (R296). -/
structure FrameBack where
  flags : BitVec 6
  rb : Nat
  lc : Map Word
  ls : Map CAddr
  le : Map CAddr
  deriving DecidableEq, Repr

/-- Loop registers from frame bytes; a depth that reads 0 is left out. -/
def frameMap (f : Nat → Nat) (w : Nat) : Map (BitVec w) :=
  ((List.range 4).map fun d => (d, BitVec.ofNat w (f d))).filter fun e => e.2 ≠ 0

def FrameBack.ofBytes (b : List Byte) : FrameBack :=
  let at_ := fun o n => natOfBytes ((b.drop (o - 0x44)).take n)
  ⟨BitVec.ofNat 6 (at_ 0x44 4), at_ 0x48 8 % 64, frameMap (fun d => at_ (0x50 + 4 * d) 4) 32,
    frameMap (fun d => at_ (0x60 + 8 * d) 8) 48, frameMap (fun d => at_ (0x80 + 8 * d) 8) 48⟩

/-- Frames below the running trap's own (R70). (DEDUCED: log 17) -/
def belowTrap : List Frame → List Frame
  | [] => []
  | .trap _ _ _ :: r => r
  | _ :: r => belowTrap r

/-- All 32 predicates of a lane as one word (R167). -/
def Wave.predWord (v : Wave) (t : Nat) : Word :=
  BitVec.ofNat 32 ((List.range 32).foldr (fun i n => 2 * n + bnat (mbit (v.preg i) t)) 0)
/-- A V instruction that SRET.skip passes over completes with b1 := b0 and b0 := its destination as it stands (R148).
(DEDUCED: log 19) -/
def Wave.skipB (v : Wave) (x : SlotId) (p : PcSlot) : PcSlot :=
  match p.clause, p.word? with
  | some c, some (word, ext) =>
    if Cls.ofCode c.hdr.cls ≠ .v then p
    else
      let d := (unpackV word).d.toNat
      let vote := (unpackV word).op = 0x64
      let preds := (unpackV word).op = 0x05 ∧ (unpackV word).b = 1
      let pred := (unpackV word).op = 0x03 ∨ (unpackV word).op = 0x04 ∨ (unpackV word).op = 0x0F
        ∨ (unpackV word).op = 0x47 ∨ (unpackV word).op = 0x48
        ∨ (vote ∧ (unpackVX (ext.getLastD 0)).sub.toNat < 3)
      let val : Lanes :=
        if preds then ofLanes v.predWord
        else if pred then ofLanes fun t => if mbit (v.preg (d % 32)) t then 1 else 0
        else if d < 160 then v.vreg (v.phys x d)
        else if d < 168 then v.oreg (d - 160)
        else []
      { p with b1 := p.b0, b0 := val }
  | _, _ => p

/-- The wave as a trap's lanes come back (R148, R291): FLAGS, RB, LC, LS and LE as the frame holds them, the slot as it
stood, o0 to o7 of the trapping lanes as they were. -/
def Wave.unhandle (v : Wave) (x : SlotId) (run : TrapRun) (f : FrameBack) (skip : Bool) : Wave :=
  let q := run.req
  let back := (v.slot x).mask &&& q.lanes
  let keep := (back ||| (run.slot.mask &&& ~~~q.lanes)) &&& v.ctl.live
  let o : Map Lanes := (List.range 8).foldl (fun m n =>
    mput m n (mergeLanes (keep &&& q.lanes) (fun t => laneAt (mgetD run.o n []) t) (mgetD m n []))) v.regs.o
  let u := { v with
    regs := { v.regs with o := o, flags := f.flags },
    ctl := { v.ctl with frames := belowTrap v.ctl.frames, rb := f.rb, lc := f.lc, ls := f.ls, le := f.le },
    trap := { v.trap with running := none } }
  let p := run.slot
  let p1 := if keep = 0 then { p.emptied with sup := false } else { p with mask := keep, phase := .run, wait := none }
  let p2 := if keep = 0 then p1
    else if skip then
      if q.part then { p1 with only := some ((p1.only.getD 0) &&& keep) }
      else if q.subcause = 1 ∧ q.cause = 0x09 then p1.goto p1.nextPc
      else if p1.clause.isNone then p1
      else { (u.skipB x p1) with only := some 0 }
    else if q.part then { p1 with only := some (((p1.only.getD 0) ||| q.lanes) &&& keep) }
    else p1
  let p3 := if v.missing x false ∨ v.trap.queue.any (fun e => e.slot = x) then { p2 with phase := .trap } else p2
  (u.setSlot x p3).popEmpty 36

/-- An instruction all of whose lanes have been served completes (R190, R313). -/
def Wave.finishOnly (v : Wave) (x : SlotId) : Wave :=
  if v.canRun x ∧ (v.slot x).only = some 0 then v.advance x else v
/-- A slot that neither awaits nor runs a handler leaves TRAP (R31). -/
def Wave.leaveTrap (v : Wave) (x : SlotId) : Wave :=
  if (v.slot x).phase = .trap ∧ !v.handling x ∧ !(v.trap.queue.any fun q => q.slot = x) then
    v.modSlot x fun p => { p with phase := .run }
  else v
/-- The last lane of slot x that waited for a page is served: the slot leaves TRAP, unless it awaits or runs a handler
(R313). -/
def Wave.missDone (v : Wave) (x : SlotId) : Wave :=
  if v.missing x (v.slot x).sup then v else (v.leaveTrap x).finishOnly x

/-- End the trap under way in slot x (R148, R291): the frame is read back, the lanes return, and the next queued trap
is entered. -/
def State.endTrap (s : State) (w : Nat) (x : SlotId) (skip : Bool) : State :=
  match s.wave? w with
  | none => s
  | some v =>
    match v.trap.running with
    | none => s
    | some run =>
      match s.selfRead v (frameVa v + 0x44) 0x5C with
      | (.error c, s1) => s1.terminate v.id.ctx c 0
      | (.ok b, s1) =>
        let s2 := s1.modWave w fun v => (v.unhandle x run (FrameBack.ofBytes b) skip).finishOnly x
        let s3 := match s2.wave? w with
          | some u => if (u.slot x).phase = Phase.empty then s2.settle w else s2
          | none => s2
        s3.enter w

/-! ### Deadlock of claims (R50) -/

/-- Every occupied slot of every live wave of the block waits for a CLAIM. -/
def State.blockStuck (s : State) (b : Nat) : Bool :=
  match mget s.blocks b with
  | none => false
  | some k =>
    let ws := k.waves.filterMap fun w => (s.wave? w).map fun v => (w, v)
    let occ := fun (v : Wave) (x : SlotId) => !decide ((v.slot x).phase = Phase.empty)
    let live := ws.filter fun e => occ e.2 .A || occ e.2 .B
    !live.isEmpty && live.all fun e => [SlotId.A, SlotId.B].all fun x => !occ e.2 x || (e.2.slot x).wait = some .claim

/-- The blocks with a request in a core's queue all of whose slots are stuck. -/
def State.stuckBlocks (s : State) (c : Nat) : List Nat :=
  ((s.core c).claims.filterMap fun q => (s.wave? q.wave).map (·.id.block)).eraseDups.filter s.blockStuck
/-- A stuck block's requests leave the queue, and each of its waves takes 0x10, slot A before slot B (R50, R290). -/
def State.unstick (s : State) (c b : Nat) : State :=
  let reqs := (s.core c).claims.filter fun q => match s.wave? q.wave with
    | some v => v.id.block = b | none => false
  let s1 := s.modCore c fun k => { k with claims := k.claims.filter fun q => !reqs.contains q }
  ((reqs.filter fun q => q.slot = .A) ++ reqs.filter fun q => q.slot = .B).foldl (fun s q => s.trapC q.wave q.slot 0x10) s1
/-- The deadlock test after an event of a core's pool (R50); a deadlock is itself such an event. -/
def State.deadlock (s : State) (c : Nat) : Nat → State
  | 0 => s
  | fuel + 1 => match s.stuckBlocks c with
    | [] => s
    | b :: _ => ((s.unstick c b).grantLoop c).deadlock c fuel
/-- The grant loop and then the deadlock test (R50). -/
def State.poolEvent (s : State) (c : Nat) : State :=
  let s1 := s.grantLoop c
  s1.deadlock c (s1.core c).claims.length

end Sys2Proof.Machine
end

