-- ==== Sys2Proof/Machine/Operands.lean ====
section
/-! DEFINITION. Machine/Operands.lean: what every operand code reads and writes (R57 to R61, R113 to R115, R162), the
mailbox scoreboard at a read and a write (R73, R74), and the gate every instruction passes before it has its effect
(R116, R118, R142). -/

namespace Sys2Proof

/-- A destination that is a queue (R113). -/
def VDst.isPush : VDst → Bool
  | .v _ => false
  | .o _ => false
  | .qa => true
  | .qg => true
  | .ql => true
  | .qn => true
/-- A register destination as a source. -/
def VDst.asSrc : VDst → VSrc
  | .v n => .v n
  | .o n => .o n
  | .qa => .const 0
  | .qg => .const 0
  | .ql => .const 0
  | .qn => .const 0

end Sys2Proof

namespace Sys2Proof.Machine

/-- The inline constants as 32-bit patterns (R113). -/
def constWord (n : Fin 14) : Word :=
  [0, 1, 2, 4, 0xFFFFFFFF, 0xFFFFFFFE, 0x3F000000, 0x3F800000, 0x40000000, 0x40800000, 0xBF800000, 0xBF000000,
    0x7FFFFFFF, 0x80000000].getD n 0
/-- The inline constants in U instructions (R114): the integers sign-extended, the others zero-extended. -/
def constDWord (n : Fin 14) : DWord := if n.val < 6 then (constWord n).signExtend 64 else (constWord n).setWidth 64

/-- The special values of R114. -/
def State.special (s : State) (v : Wave) (n : BitVec 4) : DWord :=
  let b := mget s.blocks v.id.block
  let g := fun (f : Card → Nat) => match s.task? v.id.task with | some t => f t.card | none => 0
  let k := fun (f : Block → Nat) => match b with | some b => f b | none => 0
  let i := v.id
  match n.toNat with
  | 0 => BitVec.ofNat 64 i.widx
  | 1 => BitVec.ofNat 64 (k (·.rank))
  | 2 => BitVec.ofNat 64 (k (·.cx))
  | 3 => BitVec.ofNat 64 (k (·.cy))
  | 4 => BitVec.ofNat 64 (k (·.cz))
  | 5 => BitVec.ofNat 64 (g (·.gx))
  | 6 => BitVec.ofNat 64 (g (·.gy))
  | 7 => BitVec.ofNat 64 (g (·.gz))
  | 8 => BitVec.ofNat 64 i.stage
  | 9 => BitVec.ofNat 64 i.core
  | 10 => BitVec.ofNat 64 i.die
  | 11 => BitVec.ofNat 64 i.ctx
  | 12 => BitVec.ofNat 64 s.time
  | 13 => v.copy.counter.setWidth 64
  | 14 => BitVec.ofNat 64 i.slot
  | _ => BitVec.ofNat 64 (g (·.waves))

/-! ### Rings between stages (R42, R43) -/

/-- Every wave of a stage of the block has exited. -/
def State.stageGone (s : State) (b : Block) (stage : Nat) : Bool :=
  b.waves.all fun w => match s.wave? w with
    | some v => v.id.stage ≠ stage || v.ctl.live = 0
    | none => true
def Block.ring (b : Block) (n : Nat) : List Lanes := mgetD b.rings n []
def ringCap (k : Kernel) : Nat := k.ring / 384

/-- The entry a pop of qp gets: the oldest, or zeros once the producers are gone; none while it waits. -/
def State.ringHead (s : State) (v : Wave) : Option Lanes :=
  match mget s.blocks v.id.block with
  | none => some []
  | some b => match b.ring v.id.stage with
    | e :: _ => some e
    | [] => if s.stageGone b (v.id.stage - 1) then some [] else none
/-- The ring a push of qn goes to has room, or its consumers are gone. -/
def State.ringOpen (s : State) (v : Wave) : Bool :=
  match mget s.blocks v.id.block with
  | none => true
  | some b => (b.ring (v.id.stage + 1)).length < ringCap v.id.kern || s.stageGone b (v.id.stage + 1)
/-- Remove the oldest entry; the end-of-stream flag is set where there is none (R43). -/
def State.ringPop (s : State) (w : Nat) : State :=
  match s.wave? w with
  | none => s
  | some v =>
    match (mget s.blocks v.id.block).map fun b => b.ring v.id.stage with
    | some (_ :: r) => s.modBlock v.id.block fun b => { b with rings := mput b.rings v.id.stage r }
    | _ => s.modWave w fun v => { v with regs := { v.regs with eos := true } }
/-- Append an entry; with no consumer left it is discarded (R43). -/
def State.ringPush (s : State) (v : Wave) (e : Lanes) : State :=
  match mget s.blocks v.id.block with
  | none => s
  | some b =>
    if s.stageGone b (v.id.stage + 1) then s
    else s.modBlock v.id.block fun b => { b with rings := mput b.rings (v.id.stage + 1) (b.ring (v.id.stage + 1) ++ [e]) }

/-! ### V operands (R113, R162) -/

/-- A main register as an instruction of slot x reads it: the instruction before it in the clause has not landed
(R115). -/
def Wave.mainLanes (v : Wave) (x : SlotId) (n : Nat) : Lanes :=
  let p := v.phys x n
  match (v.slot x).stale with
  | some st => if st.reg = p then mergeLanes st.mask (laneAt st.old) (v.vreg p) else v.vreg p
  | none => v.vreg p

def laneIndex : Lanes := ofLanes fun t => BitVec.ofNat 32 t

/-- The lanes a V source gives. -/
def State.readV (s : State) (v : Wave) (x : SlotId) : VSrc → Lanes
  | .v n => v.mainLanes x n
  | .o n => v.oreg n
  | .b0 => (v.slot x).b0
  | .b1 => (v.slot x).b1
  | .qz => v.mat.qz.headD []
  | .qp => (s.ringHead v).getD []
  | .const n => ofLanes fun _ => constWord n
  | .lane => laneIndex
  | .imm w => ofLanes fun _ => w
  | .s n => ofLanes fun _ => (v.sreg n).setWidth 32

/-- A V source may be read (R49, R58, R60, R113, R42). -/
def Wave.vSrcOk (v : Wave) (x : SlotId) : VSrc → Bool
  | .v n => v.vHeld (v.phys x n)
  | .b0 => 1 ≤ (v.slot x).pos
  | .b1 => 2 ≤ (v.slot x).pos
  | .qz => v.id.kern.matrix
  | .qp => v.id.stage ≠ 0
  | .s n => v.sHeld n
  | .o _ => true
  | .const _ => true
  | .lane => true
  | .imm _ => true
/-- A V destination may be written. -/
def Wave.vDstOk (v : Wave) (x : SlotId) : VDst → Bool
  | .v n => v.vHeld (v.phys x n)
  | .qa => v.id.kern.matrix
  | .qn => v.id.stage + 1 < v.id.kern.stages
  | .o _ => true
  | .qg => true
  | .ql => true

/-- What a V instruction writes: a register or queue, a predicate, or all predicates (R162, R167). -/
inductive VTgt where
  | reg (d : VDst)
  | pred (p : BitVec 5)
  | preds
  deriving DecidableEq, Repr

/-- A V instruction as the shared operations see it. -/
structure VOp where
  g : Bool
  srcs : List VSrc
  tgt : VTgt
  /-- Held while the other slot is in TRAP (R48). -/
  coll : Bool := false
  /-- D is read as well, which a push code does not allow (R113, R161). -/
  readsD : Bool := false
  deriving DecidableEq, Repr

/-! ### The mailbox scoreboard (R73, R74) -/

/-- REG code of a v or s register (R75). -/
def regV (n : Nat) : Nat := n
def regS (n : Nat) : Nat := 256 + n
/-- The register belongs to the wave's mailbox range (R72). -/
def Wave.inMailbox (v : Wave) (code : Nat) : Bool :=
  let k := v.id.kern
  let first := (if k.mbScalar then 256 else 0) + k.mbFirst
  k.mailboxes && first ≤ code && code < first + k.mbCount
def Wave.mbState (v : Wave) (code : Nat) : MbState :=
  match mget v.mb code with
  | some m => m.st
  | none => .local_
def Wave.mbRegn (v : Wave) (code : Nat) : Bool :=
  match mget v.mb code with
  | some m => m.regn
  | none => true
/-- Reads of FULL registers consume their values. -/
def Wave.consume (v : Wave) (reads : List Nat) : Wave :=
  { v with mb := v.mb.filter fun e => !(reads.contains e.1 && decide (e.2.st = .full)) }

/-- What stands before an instruction's effect: nothing, a wait, or a trap. -/
inductive Gate where
  | go
  | wait (r : Wait)
  | trap (cause : Nat)
  deriving DecidableEq, Repr

/-- The first gate that is not open decides. -/
def Gate.and (a b : Gate) : Gate := match a with
  | .go => b
  | g => g
def Gate.need (ok : Bool) (cause : Nat) : Gate := if ok then .go else .trap cause
def Gate.until (ok : Bool) (r : Wait) : Gate := if ok then .go else .wait r

/-- Reads and writes of mailbox registers by an instruction that executes (R73, R74). (DEDUCED: log 12) -/
def Wave.mbGate (v : Wave) (reads writes : List Nat) : Gate :=
  (Gate.until (!reads.any fun c => v.mbState c = .armed) .scoreboard).and <|
  (Gate.need (!reads.any fun c => v.mbState c = .full && !v.mbRegn c) 0x08).and <|
  Gate.need (!writes.any fun c => v.mbState c = .armed || (v.mbState c = .full && !reads.contains c)) 0x0A

/-- The checks and waits common to every instruction, in their order: the lookahead windows (R116), then checks 3 to 5
of R118, then the region contract (R142). (DEDUCED: log 12) -/
def Wave.baseGate (v : Wave) (x : SlotId) (declared allowed operands : Bool) : Gate :=
  (Gate.until (!v.windowShut x) .lookahead).and <|
  (Gate.need declared 0x01).and <| (Gate.need allowed 0x12).and <| (Gate.need operands 0x03).and <|
  Gate.need (!(v.slot x).pend || (v.slot x).sup) 0x08

/-! ### V instructions -/

def VOp.pops (op : VOp) (c : VSrc) : Bool := op.srcs.contains c
/-- (DEDUCED: log 19) -/
def VOp.pushes (op : VOp) (d : VDst) : Bool := op.tgt = .reg d
/-- Queue operations make an instruction non-idempotent (R142). -/
def VOp.queues (op : VOp) : Bool :=
  op.pops .qz || op.pops .qp || op.pushes .qa || op.pushes .qg || op.pushes .ql || op.pushes .qn

/-- REG codes of the registers a V instruction reads and writes (R73). -/
def Wave.vReads (v : Wave) (x : SlotId) (op : VOp) : List Nat :=
  op.srcs.filterMap fun o => match o with
    | .v n => some (regV (v.phys x n))
    | .s n => some (regS n)
    | _ => none
def Wave.vWrites (v : Wave) (x : SlotId) (op : VOp) : List Nat :=
  match op.tgt with
  | .reg (.v n) => [regV (v.phys x n)]
  | _ => []

/-- (DEDUCED: log 19) -/
def Wave.vOperandsOk (v : Wave) (x : SlotId) (op : VOp) : Bool :=
  op.srcs.all (v.vSrcOk x) && match op.tgt with
    | .reg d => v.vDstOk x d && !(op.readsD && d.isPush)
    | .pred _ => true
    | .preds => true

/-- Unretired qa-fed commands of a wave still need entries (R223). -/
def State.qaWanted (s : State) (w : Nat) (v : Wave) : Bool :=
  (s.core v.core).cmds.any fun c => c.wave = w && match c.kind with
    | .mac _ _ k fromPad _ _ _ _ _ _ => !fromPad && c.took.length < 16 * k
    | _ => false

/-- Waits and faults of queues (R43, R162, R223, R231). -/
def State.queueGate (s : State) (w : Nat) (v : Wave) (op : VOp) : Gate :=
  let full := 4 ≤ v.mat.qa.length
  (Gate.need (!(op.pushes .qa && full && !s.qaWanted w v)) 0x03).and <|
  (Gate.need (!(op.pushes .qg && 15 ≤ v.feed.qg.length)) 0x03).and <|
  (Gate.need (!(op.pushes .ql && 15 ≤ v.feed.ql.length)) 0x03).and <|
  Gate.until (!(op.pushes .qa && full) && !(op.pops .qz && v.mat.qz.isEmpty)
    && !(op.pops .qp && (s.ringHead v).isNone) && !(op.pushes .qn && !s.ringOpen v)) .queue

/-- Everything that stands before a V instruction's effect. (DEDUCED: log 12) -/
def State.vGate (s : State) (w : Nat) (v : Wave) (x : SlotId) (op : VOp) : Gate :=
  (v.baseGate x true true (v.vOperandsOk x op)).and <|
  (Gate.until (!(op.coll && (v.slot x.other).phase = .trap)) .collective).and <|
  if v.active x op.g = 0 then .go
  else (v.mbGate (v.vReads x op) (v.vWrites x op)).and (s.queueGate w v op)

/-- Entry of a push: the results of the active lanes, 0 elsewhere (R162). (DEDUCED: log 19) -/
def pushEntry (act : Mask) (r : Nat → Word) : Lanes := mergeLanes act r []

/-- Registers after a V result (R162), and the result as b0 takes it (R60). (DEDUCED: log 19) -/
def Wave.vPut (v : Wave) (x : SlotId) (act : Mask) (tgt : VTgt) (r : Nat → Word) : Wave × Lanes :=
  match tgt with
  | .reg (.v n) => let u := v.putV (v.phys x n) act r; (u, u.vreg (v.phys x n))
  | .reg (.o n) => let u := v.putO n act r; (u, u.oreg n)
  | .reg .qa => (if act = 0 then v else { v with mat := { v.mat with qa := v.mat.qa ++ [pushEntry act r] } },
      pushEntry act r)
  | .reg .qg => (if act = 0 then v else { v with feed := { v.feed with qg := v.feed.qg ++ [pushEntry act r] } },
      pushEntry act r)
  | .reg .ql => (if act = 0 then v else { v with feed := { v.feed with ql := v.feed.ql ++ [pushEntry act r] } },
      pushEntry act r)
  | .reg .qn => (v, pushEntry act r)
  | .pred p =>
    let u := v.setP p.toNat (maskOf fun t => if mbit act t then r t ≠ 0 else mbit (v.preg p.toNat) t)
    (u, ofLanes fun t => if mbit (u.preg p.toNat) t then 1 else 0)
  | .preds =>
    let u := (List.range 32).foldl (fun u i => u.setP i (maskOf fun t =>
      if mbit act t then (r t).toNat.testBit i else mbit (u.preg i) t)) v
    (u, ofLanes fun t => u.predWord t)

/-- The stale register a V instruction leaves to the one behind it (R115). -/
def Wave.vStale (v : Wave) (x : SlotId) (act : Mask) (tgt : VTgt) : Option Stale :=
  match tgt with
  | .reg (.v n) => some ⟨v.phys x n, act, v.vreg (v.phys x n)⟩
  | _ => none

/-- b1 takes b0 and b0 the result, as a V instruction completes (R60). -/
def PcSlot.shiftB (p : PcSlot) (res : Lanes) (st : Option Stale) : PcSlot :=
  { p with b1 := p.b0, b0 := res, stale := st }

/-- A V instruction completes with result r in its active lanes and the flags of those lanes (R60, R92, R162). -/
def State.vDone (s : State) (w : Nat) (x : SlotId) (v : Wave) (op : VOp) (r : Nat → Res Word) : State :=
  let act := v.active x op.g
  let fl := (lanesOf act).foldl (fun f t => f ||| (r t).fl) 0
  let v1 := if act = 0 then v else v.consume (v.vReads x op)
  let v2 := if act ≠ 0 ∧ op.pops .qz then { v1 with mat := { v1.mat with qz := v1.mat.qz.tail } } else v1
  let a := v2.vPut x act op.tgt fun t => (r t).val
  let v3 := a.1.raiseFlags fl
  let v4 := if act ≠ 0 ∧ op.queues then v3.markDue x else v3
  let v5 := (v4.advance x).modSlot x fun p => p.shiftB a.2 (v.vStale x act op.tgt)
  let s1 := s.setWave w v5
  let s2 := if act ≠ 0 ∧ op.pops .qp then s1.ringPop w else s1
  if act ≠ 0 ∧ op.pushes .qn then s2.ringPush v5 (pushEntry act fun t => (r t).val) else s2

/-! ### The frame of every instruction's meaning -/

/-- An instruction of the slot under issue: its gate, and its effect once the gate is open. With no slot under issue
nothing happens. -/
def State.issue (s : State) (gate : State → Nat → SlotId → Wave → Gate)
    (eff : State → Nat → SlotId → Wave → State) : Host.Outcome State Fault Refusal :=
  match s.cur with
  | none => .next s
  | some (w, x) =>
    match s.wave? w with
    | none => .next s
    | some v =>
      match gate s w x v with
      | .go => .next (eff s w x v)
      | .wait r => .next (s.hold w x r)
      | .trap c => .next (s.trapC w x c)

/-- A V instruction: f gives each lane's result from the lanes of its sources. -/
def State.runV (s : State) (op : VOp) (f : List Lanes → Nat → Res Word) : Host.Outcome State Fault Refusal :=
  s.issue (fun s w x v => s.vGate w v x op) fun s w x v => s.vDone w x v op (f (op.srcs.map (s.readV v x)))

/-- Lane t of source i. -/
def srcAt (l : List Lanes) (i t : Nat) : Word := laneAt (l.getD i []) t

/-- One, two and three sources, lane by lane. -/
def State.runV1 (s : State) (i : V1) (f : Word → Res Word) : Host.Outcome State Fault Refusal :=
  s.runV { g := i.g, srcs := [i.a], tgt := .reg i.d } fun l t => f (srcAt l 0 t)
def State.runV2 (s : State) (i : V2) (f : Word → Word → Res Word) : Host.Outcome State Fault Refusal :=
  s.runV { g := i.g, srcs := [i.a, i.b], tgt := .reg i.d } fun l t => f (srcAt l 0 t) (srcAt l 1 t)
def State.runV3 (s : State) (i : V2) (c : VSrc) (f : Word → Word → Word → Res Word) :
    Host.Outcome State Fault Refusal :=
  s.runV { g := i.g, srcs := [i.a, i.b, c], tgt := .reg i.d } fun l t => f (srcAt l 0 t) (srcAt l 1 t) (srcAt l 2 t)
/-- Two sources and the destination as it stands (FFMA, HFMA2, IMAD; R161). -/
def State.runV2D (s : State) (i : V2) (f : Word → Word → Word → Res Word) : Host.Outcome State Fault Refusal :=
  s.runV { g := i.g, srcs := [i.a, i.b, i.d.asSrc], tgt := .reg i.d, readsD := true } fun l t =>
    f (srcAt l 0 t) (srcAt l 1 t) (srcAt l 2 t)
def State.runP2 (s : State) (i : P2) (f : Word → Word → Res Bool) : Host.Outcome State Fault Refusal :=
  s.runV { g := i.g, srcs := [i.a, i.b], tgt := .pred i.pd } fun l t =>
    let r := f (srcAt l 0 t) (srcAt l 1 t)
    ⟨if r.val then 1 else 0, r.fl⟩
/-- A result without flags. -/
def pureRes (a : α) : Res α := ⟨a, 0⟩

/-! ### U operands (R114, R154) -/

/-- Loop registers of depths no open frame holds read as 0 (R62). -/
def Wave.lcAt (v : Wave) (d : Nat) : Word := if d < v.depth then mgetD v.ctl.lc d 0 else 0

def State.readU (s : State) (v : Wave) : USrc → DWord
  | .s n => v.sreg n.toNat
  | .k n => if v.kreg n.toNat then 1 else 0
  | .lc n => (v.lcAt n.toNat).setWidth 64
  | .rb => BitVec.ofNat 64 v.ctl.rb
  | .special n => s.special v n
  | .const n => constDWord n
  | .imm w => w.signExtend 64
def Wave.uSrcOk (v : Wave) : USrc → Bool
  | .s n => v.sHeld n.toNat
  | _ => true
def Wave.uDstOk (v : Wave) : UDst → Bool
  | .s n => v.sHeld n.toNat
  | .k _ => true
def Wave.uPut (v : Wave) (d : UDst) (r : DWord) : Wave :=
  match d with
  | .s n => v.setS n.toNat r
  | .k n => v.setK n.toNat (r ≠ 0)
def uReads (srcs : List USrc) : List Nat :=
  srcs.filterMap fun o => match o with
    | .s n => some (regS n.toNat)
    | _ => none
def uWrites (d : UDst) : List Nat :=
  match d with
  | .s n => [regS n.toNat]
  | .k _ => []

/-- Everything that stands before a U instruction's effect. (DEDUCED: log 12) -/
def Wave.uGate (v : Wave) (x : SlotId) (g : Bool) (d : UDst) (srcs : List USrc) : Gate :=
  (v.baseGate x true true (srcs.all v.uSrcOk && v.uDstOk d)).and <|
  if v.uActive x g then v.mbGate (uReads srcs) (uWrites d) else .go

/-- A U instruction completes (R104, R128, R154). -/
def State.uDone (s : State) (w : Nat) (x : SlotId) (v : Wave) (g : Bool) (d : UDst) (srcs : List USrc)
    (r : Res DWord) : State :=
  if v.uActive x g then
    s.setWave w ((((v.consume (uReads srcs)).uPut d r.val).raiseFlags r.fl).advance x)
  else s.setWave w (v.advance x)

/-- A U instruction: f gives the result from its sources' values. -/
def State.runU (s : State) (g : Bool) (d : UDst) (srcs : List USrc) (f : List DWord → Res DWord) :
    Host.Outcome State Fault Refusal :=
  s.issue (fun _ _ x v => v.uGate x g d srcs) fun s w x v => s.uDone w x v g d srcs (f (srcs.map (s.readU v)))
def uAt (l : List DWord) (i : Nat) : DWord := l.getD i 0
def State.runU1 (s : State) (i : U1) (f : DWord → Res DWord) : Host.Outcome State Fault Refusal :=
  s.runU i.g i.d [i.a] fun l => f (uAt l 0)
def State.runU2 (s : State) (i : U2) (f : DWord → DWord → Res DWord) : Host.Outcome State Fault Refusal :=
  s.runU i.g i.d [i.a, i.b] fun l => f (uAt l 0) (uAt l 1)
def State.runU3 (s : State) (i : U2) (c : USrc) (f : DWord → DWord → DWord → Res DWord) :
    Host.Outcome State Fault Refusal :=
  s.runU i.g i.d [i.a, i.b, c] fun l => f (uAt l 0) (uAt l 1) (uAt l 2)

/-! ### M operands (R109, R113) -/

def Wave.readM (v : Wave) (x : SlotId) : MOpd → Lanes
  | .v n => v.vreg (v.phys x n)
  | .o n => v.oreg n
  | .const n => ofLanes fun _ => constWord n
  | .lane => laneIndex
  | .imm w => ofLanes fun _ => w
  | .s n => ofLanes fun _ => (v.sreg n).setWidth 32
def Wave.mOpdOk (v : Wave) (x : SlotId) : MOpd → Bool
  | .v n => v.vHeld (v.phys x n)
  | .s n => v.sHeld n
  | .o _ => true
  | .const _ => true
  | .lane => true
  | .imm _ => true
def Wave.mReads (v : Wave) (x : SlotId) : MOpd → List Nat
  | .v n => [regV (v.phys x n)]
  | .s n => [regS n]
  | .o _ => []
  | .const _ => []
  | .lane => []
  | .imm _ => []

/-- A group of n main registers from a name (R110, R230): each is named and resolved by itself. -/
def Wave.groupOk (v : Wave) (x : SlotId) (d n : Nat) : Bool :=
  (List.range n).all fun i => d + i < 160 && v.vHeld (v.phys x (d + i))
def Wave.groupRegs (v : Wave) (x : SlotId) (d n : Nat) : List Nat := (List.range n).map fun i => v.phys x (d + i)

end Sys2Proof.Machine
end

