-- ==== Sys2Proof/Machine/Access.lean ====
section
/-! DEFINITION. Machine/Access.lean: what the instructions that access memory or a pad share: addresses (R109), the
checks per lane and lane faults (R190, R193), waits of releases (R195, R251), the records of loads and stores on their
way, and what a lane does again after a page reply (R313). -/

namespace Sys2Proof.Machine

/-! ### Addresses (R109, R192) -/

/-- Address of lane t. -/
def Wave.mAddr (v : Wave) (x : SlotId) (m : MAddr) (t : Nat) : DWord :=
  v.sreg m.base.toNat + ((laneAt (v.readM x m.x) t).signExtend 64 <<< m.sh.toNat) + m.ofs.signExtend 64
/-- Addresses of the active lanes. -/
def Wave.mAddrs (v : Wave) (x : SlotId) (m : MAddr) (act : Mask) : List (Nat × DWord) :=
  (lanesOf act).map fun t => (t, v.mAddr x m t)
/-- Base plus offset, for the forms without an index (R192). -/
def Wave.sAddr (v : Wave) (base : BitVec 7) (ofs : BitVec 16) : DWord := v.sreg base.toNat + ofs.signExtend 64
def Wave.addrOk (v : Wave) (x : SlotId) (m : MAddr) : Bool := v.sHeld m.base.toNat && v.mOpdOk x m.x
def Wave.addrReads (v : Wave) (x : SlotId) (m : MAddr) : List Nat := regS m.base.toNat :: v.mReads x m.x

/-! ### Gates of M instructions -/

/-- The gate of an M instruction (R116, R118, R142, R73); what stands behind it counts only with an active lane. The
result of an M instruction lands later, so its destination must be LOCAL at issue even where it is a source too (R73).
(DEDUCED: log 12) -/
def Wave.mGate (v : Wave) (x : SlotId) (g declared operands : Bool) (reads writes : List Nat) (rest : Gate) : Gate :=
  (v.baseGate x declared true operands).and <|
  if v.active x g = 0 then .go
  else (v.mbGate reads writes).and <| (Gate.need (!writes.any fun c => v.mbState c ≠ .local_) 0x0A).and rest
/-- Room in a counter (R102). -/
def roomGate (n : Nat) : Gate := Gate.until (n < 63) .counter

/-- A release may go on (R195, R201, R251): the wave's stores are done, and, at cluster scope or wider, so is every
store that was in the core's write path when the release began. -/
def State.released (s : State) (v : Wave) (x : SlotId) (scope : Nat) : Bool :=
  let c := s.core v.core
  v.mem.nSt = 0 && v.mem.nUa = 0 &&
    (scope < 2 || c.path.all fun e => ((v.slot x).mark.getD c.pathSeq) ≤ e.pseq)
/-- A release that must wait notes what it waits for. -/
def State.awaitRelease (s : State) (w : Nat) (x : SlotId) (r : Wait) : State :=
  s.modWave w fun v => v.modSlot x fun p =>
    { p with wait := some r, mark := some (p.mark.getD (s.core v.core).pathSeq) }

/-! ### Checks per lane (R190, R193) -/

/-- Subcause of a failed descriptor or card read (R295). -/
def descSub (cause sub : Nat) : Nat := if cause = 0x0D ∨ cause = 0x0E then 3 else sub

/-- The outcome of the checks of an instruction's lanes. -/
structure Served where
  ok : List LaneAcc
  /-- Lane, cause, subcause, address. -/
  bad : List (Nat × Nat × Nat × DWord)
  /-- Lane, page, ORIGIN, address. -/
  gone : List (Nat × Nat × Nat × DWord)
  deriving DecidableEq, Repr

def Served.add (r : Served) (lane : Nat) (va : DWord) : Chk → Served
  | .ok a => { r with ok := r.ok ++ [a] }
  | .fault c sub => { r with bad := r.bad ++ [(lane, c, sub, va)] }
  | .miss p o => { r with gone := r.gone ++ [(lane, p, o, va)] }

/-- How the lanes of an instruction reach their bytes. -/
inductive Reach where
  | memory (need : Need) (vaultOk : Bool)
  /-- An atomic: read and write, the vault refused at system scope (R255). -/
  | atomic (vaultOk : Bool)
  | pad (write : Bool)
  deriving DecidableEq, Repr

/-- The checks on a pad access (R193): alignment, range, tagged line, integrity. -/
def State.padChk (s : State) (v : Wave) (write : Bool) (lane : Nat) (va : DWord) (n : Nat) : Chk :=
  match mget s.blocks v.id.block with
  | none => .fault 0x07 1
  | some b =>
    let o := va.toNat
    if o % n ≠ 0 then .fault 0x04 0
    else if b.padLen < o + n then .fault 0x07 1
    else if write && b.valid.any fun p => p / 64 = o / 64 then .fault 0x0B 0
    else
      let ks := keysAt (padKey v.core (b.padOfs + o)) n
      match s.failsFor (if write then .wr else .rd) ks 0 with
      | some c => .fault c 1
      | none => .ok { lane := lane, va := va, keys := ks, label := 0, cached := false }

/-- An atomic must be able to read as well as to write (R308); a vault atomic at system scope is out of range (R255).
(DEDUCED: log 25) -/
def State.atomicChk (s : State) (who : Who) (vaultOk : Bool) (lane : Nat) (va : DWord) (n : Nat) : Chk × State :=
  if va.toNat % n = 0 ∧ va.toNat / 2 ^ 48 = 0xFE00 ∧ !vaultOk then (.fault 0x07 1, s)
  else
    let r := s.access who .wr true lane va n
    match r.1 with
    | .ok _ =>
      let q := r.2.access who .rd true lane va n
      match q.1 with
      | .ok _ => r
      | c => (c, q.2)
    | _ => r

/-- The checks on one lane. -/
def State.laneChk (s : State) (v : Wave) (who : Who) (how : Reach) (lane : Nat) (va : DWord) (n : Nat) :
    Chk × State :=
  match how with
  | .memory need vok => s.access who need vok lane va n
  | .atomic vok => s.atomicChk who vok lane va n
  | .pad wr => (s.padChk v wr lane va n, s)

/-- The checks on all lanes, in ascending order. -/
def State.chkLanes (s : State) (v : Wave) (who : Who) (how : Reach) (n : Nat) :
    List (Nat × DWord) → Served → Served × State
  | [], acc => (acc, s)
  | (t, va) :: r, acc =>
    let c := s.laneChk v who how t va n
    c.2.chkLanes v who how n r (acc.add t va c.1)
def Served.none : Served := ⟨[], [], []⟩
/-- Lanes that complete now or on a reply. -/
def Served.lanes (r : Served) : List Nat := r.ok.map (·.lane) ++ r.gone.map (·.1)
def Served.mask (r : Served) : Mask := maskOf fun t => r.lanes.contains t
def Served.whole (r : Served) : Bool := r.bad.isEmpty && r.gone.isEmpty

/-- The lane fault reported: the first cause in the order of R190, at the lowest lane that has it.
(DEDUCED: log 26) -/
def worst : List (Nat × Nat × Nat × DWord) → Option (Nat × Nat × Nat × DWord)
  | [] => .none
  | b :: r => match worst r with
    | .none => some b
    | some c => if causeRank c.2.1 c.2.2.1 < causeRank b.2.1 b.2.2.1 then some c else some b

/-- Requests for the pages that missed, in the order of their lowest lanes (R334). -/
def State.requestAll (s : State) (v : Wave) (need : Need) (l : List (Nat × Nat × Nat × DWord)) : State :=
  l.foldl (fun s e => s.request v.id.die v.id.ctx e.2.1 need e.2.2.1) s

/-- The slot after an issue some of whose lanes failed or missed: it stays at the instruction, with no lane left to be
issued, in TRAP while lanes wait for pages (R31, R313). -/
def PcSlot.partly (p : PcSlot) (waits : Bool) : PcSlot :=
  { p with only := some 0, wait := none, phase := if waits && p.phase = .run then .trap else p.phase }

/-- An issue ends (R190, R313): it completes where every lane was served; otherwise the lanes that missed wait and those
that failed trap. -/
def State.endAccess (s : State) (w : Nat) (x : SlotId) (v : Wave) (need : Need) (r : Served) : State :=
  if r.whole then s.modWave w (·.advance x)
  else
    let s1 := (s.requestAll v need r.gone).modWave w fun v =>
      (v.countIssue x).modSlot x (·.partly (!r.gone.isEmpty))
    match worst r.bad with
    | .none => s1
    | some b => s1.laneTrap w x (maskOf fun t => r.bad.any fun e => e.1 = t) b.2.1 b.2.2.1 b.2.2.2

/-- Lanes of an issue that missed, as the wave keeps them. -/
def missAccs (x : SlotId) (sup : Bool) (gone : List (Nat × Nat × Nat × DWord)) (k : Nat → MissKind) : List MissAcc :=
  gone.map fun e => ⟨x, sup, e.1, e.2.1, 0, e.2.2.2, k e.1⟩

/-! ### Loads (R191, R193, R196) -/

/-- What a load issues. -/
structure LoadOp where
  kind : LoadKind
  regs : List Nat
  isO : Bool := false
  la : BitVec 4
  acq : Nat := 0
  pol : Nat := 0
  args : List Lanes := []
  desc : Bytes := []
  index : List (Nat × Word) := []
  /-- All active lanes, where the instruction acts once for the wave (R116, R189). -/
  all : Option Mask := .none

/-- A load's record for the lanes that complete, with the outstanding-load counter raised once (R191, R313). -/
def Wave.addLoad (v : Wave) (x : SlotId) (op : LoadOp) (r : Served) (k : Nat → Nat → MissKind) : Wave :=
  if r.lanes.isEmpty then v
  else
    let u := v.countIssue x
    let id := v.mem.nextId
    let l : Load := { id := id, kind := op.kind, regs := op.regs, isO := op.isO, lanes := op.all.getD r.mask, todo := r.mask,
                      accs := r.ok, la := op.la.toNat, at_ := u.ctl.issued, acq := op.acq, pol := op.pol,
                      args := op.args, got := [], desc := op.desc, index := op.index }
    { u with mem := { u.mem with
      loads := u.mem.loads ++ [l], nLd := u.mem.nLd + 1, nextId := id + 1,
      miss := u.mem.miss ++ missAccs x (v.slot x).sup r.gone (k id) } }

/-- Issue a load of n bytes a lane. -/
def State.issueLoad (s : State) (w : Nat) (x : SlotId) (v : Wave) (op : LoadOp) (how : Reach) (n : Nat)
    (addrs : List (Nat × DWord)) (reads : List Nat) : State :=
  let r := s.chkLanes v (v.who x) how n addrs .none
  let s1 := r.2.modWave w fun v =>
    (if r.1.lanes.isEmpty then v else v.consume reads).addLoad x op r.1 fun id _ => .load id n
  s1.endAccess w x v .rd r.1

/-! ### Stores and atomics on their way (R194, R245) -/

/-- Lines of lane accesses. -/
def accLines (l : List LaneAcc) : List LineRef :=
  (l.flatMap fun a => (linesOf a.keys).map fun n => (⟨n, a.label, a.atHost⟩ : LineRef)).eraseDups
/-- Cells of a store: a higher lane's byte stands behind a lower lane's (R194). -/
def accCells (l : List LaneAcc) (data : Nat → Bytes) : List Host.Cell :=
  l.flatMap fun a => zipCells a.keys (data a.lane)

/-- Append an entry to the wave's store queue (R194). -/
def Wave.push (v : Wave) (e : StoreE) : Wave := { v with mem := { v.mem with queue := v.mem.queue ++ [e] } }

/-- A store of n bytes a lane, of accesses that passed their checks; none where there are none. -/
def Wave.pushStore (v : Wave) (w group : Nat) (pad acq : Bool) (n : Nat) (ok : List LaneAcc) (data : Nat → Bytes) : Wave :=
  if ok.isEmpty then v
  else v.push { wave := w, ctx := v.id.ctx, group := group, kind := .write (accCells ok data), lines := accLines ok,
                pad := pad, silent := false, unit := min 8 n, acq := acq }
/-- An atomic of accesses that passed their checks. -/
def Wave.pushAtomic (v : Wave) (w group op : Nat) (pad silent : Bool) (ok : List LaneAcc) (operand : Nat → Nat) :
    Wave :=
  if ok.isEmpty then v
  else v.push { wave := w, ctx := v.id.ctx, group := group, kind := .atomic op (ok.map fun a => (a, operand a.lane)),
                lines := accLines ok, pad := pad, silent := silent }
/-- A lane's place among those of an atomic, which are applied in ascending order (R200). -/
def joinAcc (a : LaneAcc × Nat) : List (LaneAcc × Nat) → List (LaneAcc × Nat)
  | [] => [a]
  | b :: r => if a.1.lane < b.1.lane then a :: b :: r else b :: joinAcc a r
/-- A lane joins the entry of its own instruction, where that one is still in the queue; else it has one to itself. -/
def Wave.joinAtomic (v : Wave) (w group op : Nat) (silent : Bool) (a : LaneAcc) (operand : Nat) : Wave :=
  if v.mem.queue.any fun e => e.group = group && e.isAtomic then
    { v with mem := { v.mem with queue := v.mem.queue.map fun e =>
      match e.kind with
      | .atomic o l =>
        if e.group = group then
          { e with kind := .atomic o (joinAcc (a, operand) l), lines := (e.lines ++ accLines [a]).eraseDups }
        else e
      | .write _ => e } }
  else v.pushAtomic w group op false silent [a] fun _ => operand

/-- A page of the access lies in a shareable window (R197). -/
def State.anyWindow (s : State) (ctx : Nat) (l : List LaneAcc) : Bool :=
  l.any fun a => a.cached && s.inWindow ctx (a.page * 4096)

/-- Issue a store of n bytes a lane (R191, R193, R197). -/
def State.issueStore (s : State) (w : Nat) (x : SlotId) (v : Wave) (pad acq : Bool) (n : Nat)
    (addrs : List (Nat × DWord)) (data : Nat → Bytes) (reads : List Nat) : State :=
  let r := s.chkLanes v (v.who x) (if pad then .pad true else .memory .wr true) n addrs .none
  let win := !pad && r.2.anyWindow v.id.ctx r.1.ok
  let s1 := r.2.modWave w fun v =>
    if r.1.lanes.isEmpty then v
    else
      let u := v.consume reads
      let g := u.mem.nextId
      let u1 : Wave := { u with mem := { u.mem with
        nextId := g + 1, nSt := u.mem.nSt + 1, nUa := u.mem.nUa + (if pad then 0 else 1),
        miss := u.mem.miss ++ missAccs x (v.slot x).sup r.1.gone fun t => .store g (data t) } }
      let u2 := u1.pushStore w g pad acq n r.1.ok data
      if win then u2.markDue x else u2
  s1.endAccess w x v .wr r.1

/-- Below system scope an atomic on device memory is performed at the home L2 even where the page is in host bias
(R255). -/
def LaneAcc.atScope (below5 : Bool) (a : LaneAcc) : LaneAcc :=
  if below5 && !a.keys.any isHost then { a with atHost := false } else a
def Served.atScope (r : Served) (below5 : Bool) : Served := { r with ok := r.ok.map (·.atScope below5) }

/-- Issue an atomic (R191, R199, R200): a returning one is a load as well. -/
def State.issueAtomic (s : State) (w : Nat) (x : SlotId) (v : Wave) (op : Nat) (pad vaultOk : Bool) (n : Nat)
    (addrs : List (Nat × DWord)) (operand : Nat → Nat) (ret : Option LoadOp) (reads : List Nat) : State :=
  let q := s.chkLanes v (v.who x) (if pad then .pad true else .atomic vaultOk) n addrs .none
  let r : Served × State := (q.1.atScope vaultOk, q.2)
  let s1 := r.2.modWave w fun v =>
    if r.1.lanes.isEmpty then v
    else
      let u := v.consume reads
      let g := u.mem.nextId
      let k := fun t => MissKind.atomic op g (operand t) ret.isSome !vaultOk
      let u1 : Wave := match ret with
        | some o =>
          let a := u.addLoad x o r.1 fun _ t => k t
          { a with mem := { a.mem with nUa := a.mem.nUa + (if pad then 0 else 1) } }
        | .none => { u with mem := { u.mem with
            nextId := g + 1, nSt := u.mem.nSt + 1, nUa := u.mem.nUa + (if pad then 0 else 1),
            miss := u.mem.miss ++ missAccs x (v.slot x).sup r.1.gone k } }
      (u1.pushAtomic w g op pad ret.isSome r.1.ok operand).markDue x
  s1.endAccess w x v .wr r.1

/-! ### Counters of an issue (R191) -/

/-- No entry of an issue's stores is left in the wave's queue or waits for a page. -/
def Wave.leftQueue (v : Wave) (group : Nat) : Bool :=
  !(v.mem.queue.any fun e => e.group = group) && !(v.mem.miss.any fun m => match m.kind with
    | .store g _ => g = group
    | .atomic _ g _ _ _ => g = group
    | _ => false)
/-- Nor in the write path. -/
def State.allAcked (s : State) (w group : Nat) : Bool :=
  match s.wave? w with
  | none => false
  | some v => v.leftQueue group && !((s.core v.core).path.any fun e => e.wave = w && e.group = group && !e.silent)
/-- An entry of the issue has left the store queue: the outstanding-store counter falls with the last. -/
def State.countLeft (s : State) (w group : Nat) : State :=
  s.modWave w fun v => if v.leftQueue group then { v with mem := { v.mem with nSt := v.mem.nSt - 1 } } else v
/-- An entry of the issue has been performed: the unacknowledged-store counter falls with the last. -/
def State.countAcked (s : State) (w group : Nat) : State :=
  if s.allAcked w group then s.modWave w fun v => { v with mem := { v.mem with nUa := v.mem.nUa - 1 } } else s

/-- A load all of whose lanes have landed leaves (R191, R195): the counters fall, and an acquire at cluster scope or
wider drops the core's L1. -/
def State.endLoad (s : State) (w id : Nat) : State :=
  match s.wave? w with
  | none => s
  | some v =>
    match v.mem.loads.find? fun l => l.id = id with
    | none => s
    | some l =>
      if l.todo ≠ 0 then s
      else
        let ua := match l.kind with
          | .atom _ => 1
          | _ => 0
        let s1 := s.setWave w { v with mem := { v.mem with
          loads := v.mem.loads.filter fun l => l.id ≠ id, nLd := v.mem.nLd - 1, nUa := v.mem.nUa - ua } }
        if 2 ≤ l.acq then s1.dropL1 v.core else s1

/-! ### A lane's access again, after its page reply (R313) -/

def Wave.modLoad (v : Wave) (id : Nat) (f : Load → Load) : Wave :=
  { v with mem := { v.mem with loads := v.mem.loads.map fun l => if l.id = id then f l else l } }
/-- A lane takes no further part in a load. -/
def Load.leave (l : Load) (t : Nat) : Load :=
  { l with lanes := l.lanes &&& ~~~oneLane t, todo := l.todo &&& ~~~oneLane t, accs := l.accs.filter fun a => a.lane ≠ t }
/-- The slot a user-mode instruction stands in, even while a handler runs there. -/
def Wave.modOwn (v : Wave) (x : SlotId) (sup : Bool) (f : PcSlot → PcSlot) : Wave :=
  match v.trap.running with
  | some r =>
    if r.req.slot = x ∧ !sup then { v with trap := { v.trap with running := some { r with slot := f r.slot } } }
    else v.modSlot x f
  | .none => v.modSlot x f
def Wave.own (v : Wave) (x : SlotId) (sup : Bool) : PcSlot :=
  match v.trap.running with
  | some r => if r.req.slot = x ∧ !sup then r.slot else v.slot x
  | .none => v.slot x

def MissAcc.need (m : MissAcc) : Need :=
  match m.kind with
  | .fetch => .fx
  | .load _ _ => .rd
  | .store _ _ => .wr
  | .atomic _ _ _ _ _ => .wr
  | .tex _ => .rd
def Wave.dropMiss (v : Wave) (m : MissAcc) : Wave := { v with mem := { v.mem with miss := v.mem.miss.erase m } }

/-- A lane's access that failed after a page reply: its cause and subcause. -/
abbrev MissFail := MissAcc × Nat × Nat
/-- The lane's access fails: it leaves its instruction (R312, R313). (DEDUCED: log 26) -/
def State.missLeave (s : State) (w : Nat) (m : MissAcc) : State :=
  let s1 := s.modWave w (·.dropMiss m)
  match m.kind with
  | .load id _ => (s1.modWave w fun v => v.modLoad id (·.leave m.lane)).endLoad w id
  | .tex id => (s1.modWave w fun v => v.modLoad id (·.leave m.lane)).endLoad w id
  | .store g _ => (s1.countLeft w g).countAcked w g
  | .atomic _ g _ silent _ =>
    if silent then (s1.modWave w fun v => v.modLoad g (·.leave m.lane)).endLoad w g
    else (s1.countLeft w g).countAcked w g
  | .fetch => s1
/-- Lanes of one instruction whose accesses failed on one reply trap together (R190, R312). (DEDUCED: log 26) -/
def State.trapMissed (s : State) (w : Nat) (fails : List MissFail) (x : SlotId) : State :=
  match s.wave? w with
  | .none => s
  | some v =>
    let l := (fails.filter fun e => e.1.slot = x && !e.1.sup).map fun e => (e.1.lane, e.2.1, e.2.2, e.1.va)
    match worst l with
    | .none => s
    | some b => s.raiseLate w ⟨x, maskOf fun t => l.any fun e => e.1 = t, b.2.1, b.2.2.1, (v.own x false).at_,
        if addrCause b.2.1 then b.2.2.2 else 0, 0, true⟩
/-- Traps of the accesses that failed on one reply; one of supervisor mode ends the context (R294). -/
def State.trapMissedAll (s : State) (w : Nat) (fails : List MissFail) : State :=
  match s.wave? w, fails.find? fun e => e.1.sup with
  | some v, some e => s.terminate v.id.ctx e.2.1 0
  | _, _ => (s.trapMissed w fails .A).trapMissed w fails .B

/-- The lane's access succeeds: its bytes can now be reached. -/
def State.missServed (s : State) (w : Nat) (m : MissAcc) (a : LaneAcc) : State :=
  let win := s.anyWindow ((s.wave? w).elim 0 (·.id.ctx)) [a]
  let s1 := s.modWave w fun v =>
    let u := v.dropMiss m
    match m.kind with
    | .load id _ => u.modLoad id fun l => { l with accs := l.accs ++ [a] }
    | .store g d => (u.pushStore w g false false d.length [a] fun _ => d).modOwn m.slot m.sup fun p =>
        { p with due := p.due || win }
    | .atomic op g k silent sys => (u.joinAtomic w g op silent (a.atScope !sys) k).modLoad g fun l =>
        { l with accs := l.accs ++ [a] }
    | _ => u
  s1.modWave w (·.missDone m.slot)

/-- The lane misses again: a second request is made, and a mapped reply to that one that still leaves the page missing
fails the access (R312). -/
def State.missAgain (s : State) (w : Nat) (v : Wave) (m : MissAcc) (page origin : Nat) : Option MissFail × State :=
  if page = m.page ∧ 1 ≤ m.replies then (some (m, 0x06, 2), s.missLeave w m)
  else
    let n := { m with page := page, replies := if page = m.page then m.replies + 1 else 0 }
    (.none, (s.request v.id.die v.id.ctx page m.need origin).modWave w fun v =>
      { v with mem := { v.mem with miss := v.mem.miss.map fun e => if e = m then n else e } })

/-- The checks of a lane again. -/
def State.missChk (s : State) (v : Wave) (m : MissAcc) : Chk × State :=
  let who : Who := ⟨v.id.ctx, v.core, m.sup, 0⟩
  match m.kind with
  | .load _ n => s.access who .rd true m.lane m.va n
  | .store _ d => s.access who .wr true m.lane m.va d.length
  | .atomic op _ _ _ _ => s.atomicChk who true m.lane m.va (if op = 1 ∨ op = 10 ∨ op = 12 then 8 else 4)
  | _ => (.fault 0 0, s)

/-- The lane performs its access again (R313). -/
def State.missRedo (s : State) (w : Nat) (m : MissAcc) : Option MissFail × State :=
  match s.wave? w with
  | .none => (.none, s)
  | some v =>
    let c := s.missChk v m
    match c.1 with
    | .ok a => (.none, c.2.missServed w m a)
    | .fault cause sub => (some (m, cause, sub), c.2.missLeave w m)
    | .miss p o => c.2.missAgain w v m p o

end Sys2Proof.Machine
end

