-- ==== Sys2Proof/Machine/Control.lean ====
section
/-! DEFINITION. Machine/Control.lean: branches, joins, calls, loops and the register pool (R129 to R140, R144), and the
steps of a slot between its instructions: the fetch of a clause, the header's wait, the back edge (R65, R98 to R102). -/

namespace Sys2Proof.Machine

/-! ### What C instructions share -/

/-- The gate of a C instruction: operands is whether it holds every s register it names (R129); reads are the REG codes
of those it reads, writes of those it writes (R73). (DEDUCED: log 12) -/
def Wave.cGate (v : Wave) (x : SlotId) (allowed operands : Bool) (reads writes : List Nat) : Gate :=
  (v.baseGate x true allowed operands).and (v.mbGate reads writes)
def Wave.sOk (v : Wave) (n : BitVec 7) : Bool := v.sHeld n.toNat
def Wave.sAt (v : Wave) (n : BitVec 7) : DWord := v.sreg n.toNat
def sCode (n : BitVec 7) : Nat := regS n.toNat
/-- A transfer that would transfer stands last in its clause (R103). (DEDUCED: log 12) -/
def PcSlot.lastGate (p : PcSlot) : Gate := Gate.need p.isLast 0x02
/-- The ownership rule (R63): a slot none of whose lanes lie in the innermost frame waits. (DEDUCED: log 15) -/
def Wave.frameWait (v : Wave) (x : SlotId) : Bool :=
  match v.ctl.frames with
  | f :: _ => (v.slot x).mask &&& f.mask = 0
  | [] => false
/-- Branch target: next plus a signed word offset (R111). (DEDUCED: log 13) -/
def target (next : CAddr) (ofs : BitVec n) : CAddr := next + 4 * ofs.signExtend 48
/-- A taken branch stays within the innermost loop frame of the current call frame (R63). -/
def Wave.targetOk (v : Wave) (t : CAddr) : Bool :=
  match openLoops v.ctl.frames with
  | [] => true
  | _ :: _ => (mgetD v.ctl.ls (v.depth - 1) 0).toNat ≤ t.toNat && t.toNat ≤ (mgetD v.ctl.le (v.depth - 1) 0).toNat
/-- The gate of an operation on the reconvergence list: a page of the spill area that misses is awaited (R311). -/
def State.listGate (s : State) (v : Wave) : Gate :=
  match s.listMiss v with
  | some _ => .wait .page
  | none => .go
/-- The slot waits for the page an operation on the list needs; a page that stays missing ends the context (R40).
(DEDUCED: log 16) -/
def State.listHold (s : State) (w : Nat) (x : SlotId) : State :=
  match s.wave? w with
  | none => s
  | some v => match s.listMiss v with
    | some (p, o, s1) => s1.pageHold w x .wr p o fun s => s.terminate v.id.ctx 0x06 0
    | none => s
/-- As issue, for an instruction that works on the reconvergence list. -/
def State.issueList (s : State) (gate : State → Nat → SlotId → Wave → Gate)
    (eff : State → Nat → SlotId → Wave → State) : Host.Outcome State Fault Refusal :=
  s.issue gate fun s w x v =>
    match s.listGate v with
    | .go => eff s w x v
    | .wait _ => s.listHold w x
    | .trap c => s.trapC w x c

/-! ### Branches and joins (R130 to R133) -/

/-- NOP (R117). -/
def execNop (s : State) : Host.Outcome State Fault Refusal :=
  s.issue (fun _ _ x v => v.cGate x true true [] []) fun s w x v => s.setWave w (v.advance x)

/-- A transfer to a checked target, or on to the next instruction. -/
def Wave.jumpGate (v : Wave) (x : SlotId) (t : CAddr) : Gate :=
  (Gate.need (v.targetOk t) 0x09).and (v.slot x).lastGate

/-- BRA's condition. -/
def Wave.braTaken (v : Wave) (cond : BCond) (sense : Bool) : Bool :=
  match cond with
  | .always => !sense
  | .k n => v.kreg n.toNat != sense
/-- BRA (R130). -/
def execBra (cond : BCond) (sense : Bool) (ofs : BitVec 19) (s : State) : Host.Outcome State Fault Refusal :=
  s.issue (fun _ _ x v => (v.cGate x true true [] []).and <|
      if v.braTaken cond sense then v.jumpGate x (target (v.slot x).nextPc ofs) else .go) fun s w x v =>
    s.setWave w (if v.braTaken cond sense then v.transfer x (target (v.slot x).nextPc ofs) else v.advance x)

/-- Lanes of slot x where a predicate under its sense holds. -/
def Wave.picked (v : Wave) (x : SlotId) (p : BitVec 5) (sense : Bool) : Mask :=
  (v.slot x).mask &&& (if sense then ~~~v.preg p.toNat else v.preg p.toNat)
/-- Entries a split adds to the list (R33). -/
def Wave.splitCost (v : Wave) (x : SlotId) : Nat := if (v.slot x.other).phase = .empty then 1 else 2
/-- The split of R33. -/
def splitPath (x : SlotId) (taken : Mask) (t j : CAddr) (v : Wave) (l : List REntry) : Wave × List REntry :=
  let p := v.slot x
  let rest := p.mask &&& ~~~taken
  let l1 := l ++ [⟨true, j, p.mask, 0, p.join, 0⟩]
  let u := (v.transfer x p.nextPc).modSlot x fun q => { q with mask := rest, join := some j }
  let path : REntry := ⟨false, t, taken, 0, some j, 0⟩
  if (v.slot x.other).phase = .empty then (u.modSlot x.other (·.take v.id.march path), l1) else (u, l1 ++ [path])
/-- BRP (R33, R131). -/
def execBrp (p : BitVec 5) (sense : Bool) (ofs : BitVec 19) (join : BitVec 24) (s : State) :
    Host.Outcome State Fault Refusal :=
  s.issueList (fun _ _ x v =>
      let t := v.picked x p sense
      let n := (v.slot x).mask &&& ~~~t
      (v.cGate x true true [] []).and <|
      if t = 0 then .go
      else (Gate.need (n = 0 || v.ctl.listLen + v.splitCost x ≤ 134) 0x03).and <|
        v.jumpGate x (target (v.slot x).nextPc ofs)) fun s w x v =>
    let t := v.picked x p sense
    let tgt := target (v.slot x).nextPc ofs
    if t = 0 then s.setWave w (v.advance x)
    else if (v.slot x).mask &&& ~~~t = 0 then s.setWave w (v.transfer x tgt)
    else s.modSettle w (splitPath x t tgt (target (v.slot x).nextPc join))

/-- An arrival by slot x; f continues where no entry matches. -/
def State.arriveOr (s : State) (w : Nat) (x : SlotId) (f : State → State) : State :=
  match s.arrive w x with
  | (true, s1) => s1
  | (false, s1) => f s1
/-- JOIN (R132). -/
def execJoin (s : State) : Host.Outcome State Fault Refusal :=
  s.issueList (fun _ _ x v => (v.cGate x true true [] []).and <|
      (Gate.need (v.slot x).join.isSome 0x03).and (v.slot x).lastGate) fun s w x v =>
    let s1 := s.modWave w fun v => { v.countIssue x with ctl := { (v.countIssue x).ctl with last := x } }
    s1.arriveOr w x fun s => s.modWave w fun u => u.transfer x ((v.slot x).join.getD 0)

/-- The checks JMPI and CALLI make of the address in a register (R133): the cause and subcause it raises. -/
def regTarget (d : DWord) : Option (Nat × Nat) :=
  if d.toNat % 4 ≠ 0 then some (0x04, 0) else if d.toNat / 2 ^ 48 ≠ 0 then some (0x05, 3) else none
/-- An instruction whose target is in a register: the checks of the address come first of its own faults (R133). -/
def State.issueReg (s : State) (r : BitVec 7) (own : SlotId → Wave → CAddr → Gate)
    (eff : State → Nat → SlotId → Wave → CAddr → State) : Host.Outcome State Fault Refusal :=
  s.issue (fun _ _ x v => (v.cGate x true (v.sOk r) [sCode r] [])) fun s w x v =>
    match regTarget (v.sAt r) with
    | some (c, sub) => s.trapAt w x c sub (v.sAt r) 0
    | none =>
      match own x v ((v.sAt r).setWidth 48) with
      | .go => eff s w x (v.consume [sCode r]) ((v.sAt r).setWidth 48)
      | .wait q => s.hold w x q
      | .trap c => s.trapC w x c
/-- JMPI (R133). -/
def execJmpi (r : BitVec 7) (s : State) : Host.Outcome State Fault Refusal :=
  s.issueReg r (fun x v t => v.jumpGate x t) fun s w x v t => s.setWave w (v.transfer x t)

/-! ### Calls (R69, R134) -/

/-- Call frames of the whole stack. -/
def Wave.calls (v : Wave) : Nat := (v.ctl.frames.filter Frame.isCall).length
/-- A call frame is open above the running trap, if any (R70). (DEDUCED: log 17) -/
def callOpen : List Frame → Bool
  | [] => false
  | .call _ _ _ _ :: _ => true
  | .loop _ _ _ _ _ :: r => callOpen r
  | .trap _ _ _ :: _ => false
def Wave.callGate (v : Wave) (x : SlotId) : Gate :=
  (Gate.until (!v.frameWait x) .frame).and <| (Gate.need (v.calls < 32) 0x03).and (v.slot x).lastGate
/-- The push of CALL and CALLI. -/
def Wave.pushCall (v : Wave) (x : SlotId) (t : CAddr) : Wave :=
  let u := v.transfer x t
  { u with ctl := { u.ctl with
    frames := .call (v.slot x).nextPc v.ctl.rb (v.slot x).mask v.depth :: u.ctl.frames, rb := 0 } }
/-- CALL (R134). -/
def execCall (ofs : BitVec 19) (s : State) : Host.Outcome State Fault Refusal :=
  s.issue (fun _ _ x v => (v.cGate x true true [] []).and (v.callGate x)) fun s w x v =>
    s.setWave w (v.pushCall x (target (v.slot x).nextPc ofs))
/-- CALLI (R133, R134). -/
def execCalli (r : BitVec 7) (s : State) : Host.Outcome State Fault Refusal :=
  s.issueReg r (fun x v _ => v.callGate x) fun s w x v t => s.setWave w (v.pushCall x t)
/-- RET's own checks. -/
def Wave.retGate (v : Wave) (x : SlotId) : Gate :=
  (Gate.until (!v.frameWait x) .frame).and <| (Gate.need (callOpen v.ctl.frames) 0x03).and <|
  match v.ctl.frames with
  | .call _ _ m _ :: _ => (Gate.need ((v.slot x).mask = m) 0x09).and (v.slot x).lastGate
  | _ => .trap 0x09
/-- RET (R134). -/
def execRet (s : State) : Host.Outcome State Fault Refusal :=
  s.issue (fun _ _ x v => (v.cGate x true true [] []).and (v.retGate x)) fun s w x v =>
    match v.ctl.frames with
    | .call ret _ _ _ :: _ => s.setWave w ((v.transfer x ret).popFrame)
    | _ => s

/-! ### EXIT, YIELD, SLEEP (R135 to R137) -/

/-- Lanes leave the wave: the live mask, the slot, the frames and every MERGE mask (R36, R135). -/
def exitLanes (x : SlotId) (v : Wave) (l : List REntry) : Wave × List REntry :=
  let m := (v.slot x).mask
  let u := { v.countIssue x with ctl := { (v.countIssue x).ctl with live := v.ctl.live &&& ~~~m, last := x } }
  (((u.leaveFrames m).popEmpty 36).modSlot x PcSlot.emptied,
    l.map fun e => if e.merge then { e with mask := e.mask &&& ~~~m, arrived := e.arrived &&& ~~~m } else e)
/-- The slot waits for a page of the trap frame that its reading back would miss (R311); f goes on otherwise. -/
def State.withFrame (s : State) (w : Nat) (x : SlotId) (f : State → State) : State :=
  match s.wave? w with
  | none => s
  | some v => match s.selfMiss v 0x1800 256 with
    | some (p, o, s1) => s1.pageHold w x .wr p o fun s => s.terminate v.id.ctx 0x06 0
    | none => f s
/-- An EXIT by slot x removes the last of the lanes of the trap that is being handled: the slot its handler runs in
(R291). (DEDUCED: log 17) -/
def Wave.endsTrap (v : Wave) (x : SlotId) : Option SlotId :=
  match v.trap.running with
  | some r => if v.ctl.live &&& r.req.lanes &&& ~~~(v.slot x).mask = 0 then some r.req.slot else none
  | none => none
/-- EXIT by the last lanes of a handler: they leave the wave, and the trap ends as under SRET.skip (R291). -/
def State.handlerExit (s : State) (w : Nat) (x h : SlotId) : State :=
  s.withFrame w x fun s =>
    let s1 := s.modSettle w fun v l =>
      let a := exitLanes x v l
      (a.1.modSlot h fun p => { p with phase := .trap }, a.2)
    (s1.endTrap w h true).settle w
/-- EXIT (R36, R135, R291). -/
def execExit (s : State) : Host.Outcome State Fault Refusal :=
  s.issueList (fun _ _ x v => (v.cGate x true true [] []).and (v.slot x).lastGate) fun s w x v =>
    match v.endsTrap x with
    | some h => s.handlerExit w x h
    | none => s.modSettle w (exitLanes x)

/-- YIELD (R37, R136). -/
def execYield (s : State) : Host.Outcome State Fault Refusal :=
  s.issue (fun _ _ x v => v.cGate x true true [] []) fun s w x v =>
    s.setWave w ((v.advance x).modSlot x fun p => { p with yieldDue := true })

/-- SLEEP (R137). -/
def execSleep (n : BitVec 20) (s : State) : Host.Outcome State Fault Refusal :=
  s.issue (fun _ _ x v => v.cGate x true true [] []) fun s w x v =>
    if n = 0 then s.setWave w (v.advance x)
    else s.setWave w ((v.countIssue x).modSlot x fun p =>
      { p with wait := some .sleep, deadline := s.time + n.toNat })
/-- The end of a sleep (R137): nothing before the deadline. -/
def execSleepTimeout (w : Nat) (x : SlotId) (s : State) : Host.Outcome State Fault Refusal :=
  match s.wave? w with
  | none => .next s
  | some v =>
    if (v.slot x).wait = some .sleep ∧ (v.slot x).deadline ≤ s.time then .next (s.setWave w (v.complete x))
    else .next s

/-! ### Loops (R63 to R66, R138 to R140) -/

/-- An end address beyond the end of an open loop of the current call frame (R64). -/
def Wave.pastOuter (v : Wave) (le : CAddr) : Bool :=
  (List.range (openLoops v.ctl.frames).length).any fun i =>
    (mgetD v.ctl.le (v.depth - 1 - i) 0).toNat < le.toNat
/-- v32 to v(31 + 8 nb) meets the mailbox range (R64). -/
def Wave.rotMeetsMailbox (v : Wave) (z : Nat) : Bool :=
  let k := v.id.kern
  k.mailboxes && !k.mbScalar && k.mbFirst < 32 + z && 32 < k.mbFirst + k.mbCount

/-- The checks of R64 and R138 on a loop of count c. (DEDUCED: log 14) -/
def Wave.loopGate (v : Wave) (x : SlotId) (c : Nat) (cx : LoopCx) : Gate :=
  let stages := cx.sm1.toNat + 1
  let z := 8 * cx.nb.val
  let next := (v.slot x).nextPc
  let le := next + 4 * cx.fin.setWidth 48
  let piped := 0 < z || 1 < stages
  (Gate.until (!v.frameWait x) .frame).and <|
  (Gate.need (v.depth < 4 && v.depth < v.id.kern.loopDepth) 0x09).and <|
  (Gate.need (next.toNat ≤ le.toNat) 0x09).and <|
  (Gate.need (!v.pastOuter le) 0x09).and <|
  (Gate.need (!(0 < z && (openLoops v.ctl.frames).any Frame.pipelined)) 0x09).and <|
  (Gate.need (!(0 < z && (8 * v.regs.g < 32 + z || v.rotMeetsMailbox z))) 0x03).and <|
  (Gate.need (v.ctl.listLen < 134) 0x03).and <|
  (Gate.need (!piped || c + stages - 1 < 2 ^ 32) 0x03)

/-- Bytes of code at a clause address as a slot fetches them now (R98, R302); a march wave's code is firmware's own
(R399). (DEDUCED: log 14) -/
def State.codeBytes (s : State) (v : Wave) (x : SlotId) (a : CAddr) (n : Nat) :
    Except (Chk × DWord) Bytes × State :=
  if v.id.march then (.ok ((List.range n).map fun i => Config.marchCode (a.toNat + i)), s)
  else
    let r := s.rangeOf (v.who x) .fx (a.setWidth 64) n
    match r.1.2 with
    | some f => (.error f, r.2)
    | none =>
      let c := r.2.codeLines v.core (pieceLines r.1.1)
      (.ok ((pieceKeys r.1.1).map (lineByte c.1)), c.2)
def bytesWord (b : List Byte) : Word := BitVec.ofNat 32 (natOfBytes b)
/-- Bytes a clause with this header occupies (R98). (DEDUCED: log 14) -/
def hdrSize (h : Header) : Nat := 4 * (1 + h.n.toNat + h.xw.toNat)

/-- What failed when code was read: integrity failures of a fetch carry subcause 2 (R295). -/
def fetchSub (cause sub : Nat) : Nat := if cause = 0x0D ∨ cause = 0x0E then 2 else sub

/-- The frame and list entry LOOP opens (R64). -/
def openLoop (x : SlotId) (c : Nat) (cx : LoopCx) (exit : CAddr) (v : Wave) (l : List REntry) : Wave × List REntry :=
  let p := v.slot x
  let stages := cx.sm1.toNat + 1
  let z := 8 * cx.nb.val
  let piped := 0 < z || 1 < stages
  let d := v.depth
  let tag := v.ctl.nextTag + 1
  let u := (v.advance x).modSlot x fun q => { q with join := some exit }
  let ctl := { u.ctl with
    frames := .loop p.mask stages z exit tag :: u.ctl.frames, nextTag := tag,
    ls := mput u.ctl.ls d p.nextPc, le := mput u.ctl.le d (p.nextPc + 4 * cx.fin.setWidth 48),
    lc := mput u.ctl.lc d (BitVec.ofNat 32 (if piped then c + stages - 1 else c)),
    rb := if piped then 0 else u.ctl.rb }
  let u1 := { u with ctl := ctl }
  let u2 := if piped then
      ((List.range (stages - 1)).foldl (fun u i => u.setP (25 + i) (u.preg (25 + i) &&& ~~~p.mask)) u1).setP 24
        (u1.preg 24 ||| p.mask)
    else u1
  (u2, l ++ [⟨true, exit, p.mask, 0, p.join, tag⟩])

/-- LOOP and LOOPI with a count (R64, R138). The exit address is that of the clause behind the one at le, whose header
is read as code; where that reading fails, the loop instruction takes its fault. (DEDUCED: log 14) -/
def State.loopWith (s : State) (w : Nat) (x : SlotId) (v : Wave) (c : Nat) (cx : LoopCx) : State :=
  let le := (v.slot x).nextPc + 4 * cx.fin.setWidth 48
  match s.codeBytes v x le 4 with
  | (.error (.miss p o, a), s1) => s1.pageHold w x .fx p o fun s => s.trapAt w x 0x06 2 a 0
  | (.error (.fault cause sub, a), s1) => s1.trapAt w x cause (fetchSub cause sub) a 0
  | (.error (.ok _, _), s1) => s1
  | (.ok b, s1) =>
    let exit := le + BitVec.ofNat 48 (hdrSize (unpackHeader (bytesWord b)))
    if c = 0 then
      if (v.slot x).isLast then s1.setWave w (v.transfer x exit) else s1.trapC w x 0x02
    else s1.modSettle w fun _ l => openLoop x c cx exit v l
/-- LOOP (R138). -/
def execLoop (r : BitVec 7) (cx : LoopCx) (s : State) : Host.Outcome State Fault Refusal :=
  s.issueList (fun _ _ x v => (v.cGate x true (v.sOk r) [sCode r] []).and
      (v.loopGate x ((v.sAt r).toNat % 2 ^ 32) cx)) fun s w x v =>
    s.loopWith w x (v.consume [sCode r]) ((v.sAt r).toNat % 2 ^ 32) cx
/-- LOOPI (R138). -/
def execLoopi (c : BitVec 25) (cx : LoopCx) (s : State) : Host.Outcome State Fault Refusal :=
  s.issueList (fun _ _ x v => (v.cGate x true true [] []).and (v.loopGate x c.toNat cx)) fun s w x v =>
    s.loopWith w x v c.toNat cx

/-- LBRK's effect on lanes that leave (R66). -/
def breakLanes (x : SlotId) (m : Mask) (tag : Nat) (v : Wave) (l : List REntry) : Wave × List REntry :=
  let start := (l.findIdx? fun e => e.tag = tag).getD l.length
  let l1 := l.mapIdx fun i e => if start ≤ i ∧ e.merge then { e with arrived := e.arrived ||| (m &&& e.mask) } else e
  let u := v.advance x
  let left := (v.slot x).mask &&& ~~~m
  let u1 := match u.ctl.frames with
    | f :: r => { u with ctl := { u.ctl with frames := f.setMask (f.mask &&& ~~~m) :: r } }
    | [] => u
  let u2 := match u1.ctl.frames with
    | f :: _ => if f.mask = 0 then u1.popFrame else u1
    | [] => u1
  (u2.modSlot x fun p => if left = 0 then p.emptied else { p with mask := left }, l1)
/-- The exit MERGE tag of the innermost frame, where it is a loop frame (R140). -/
def Wave.innerTag (v : Wave) : Option Nat :=
  match v.ctl.frames with
  | .loop _ _ _ _ t :: _ => some t
  | _ => none
/-- LBRK (R66, R140). -/
def execLbrk (p : BitVec 5) (sense : Bool) (s : State) : Host.Outcome State Fault Refusal :=
  s.issueList (fun _ _ x v => (v.cGate x true true [] []).and <|
      (Gate.until (!v.frameWait x) .frame).and (Gate.need v.innerTag.isSome 0x09)) fun s w x v =>
    let m := v.picked x p sense
    if m = 0 then s.setWave w (v.advance x)
    else s.modSettle w (breakLanes x m (v.innerTag.getD 0))

/-! ### The register pool (R50, R51, R144) -/

/-- CLAIM (R50, R144). -/
def execClaim (n : BitVec 8) (s : State) : Host.Outcome State Fault Refusal :=
  s.issue (fun _ _ x v => (v.cGate x true true [] []).and <|
      Gate.need (n.toNat % 8 = 0 && 8 * v.regs.g + n.toNat ≤ 160) 0x03) fun s w x v =>
    if n = 0 then s.setWave w (v.advance x)
    else
      let s1 := s.setWave w ((v.countIssue x).modSlot x (·.held .claim))
      (s1.modCore v.core fun k => { k with claims := k.claims ++ [⟨w, x, n.toNat / 8⟩] }).poolEvent v.core

/-- Registers from lo up may not be given back (R50). -/
def Wave.pinned (v : Wave) (lo : Nat) : Bool :=
  let k := v.id.kern
  (k.mailboxes && !k.mbScalar && lo < k.mbFirst + k.mbCount && k.mbFirst < 8 * v.regs.g)
    || v.ctl.frames.any fun f => 0 < f.rot && lo < 32 + f.rot && 32 < 8 * v.regs.g
/-- RELEASE (R50, R144). -/
def execRelease (n : BitVec 8) (s : State) : Host.Outcome State Fault Refusal :=
  s.issue (fun _ _ x v => (v.cGate x true true [] []).and <|
      Gate.need (n.toNat % 8 = 0 && n.toNat ≤ 8 * v.regs.g
        && !(n ≠ 0 && v.pinned (8 * v.regs.g - n.toNat))) 0x03) fun s w x v =>
    let s1 := s.setWave w (({ v with regs := v.regs.shrink (n.toNat / 8) } : Wave).advance x)
    (s1.modCore v.core fun k => { k with free := k.free + n.toNat / 8 }).poolEvent v.core

/-! ### TRAP and SRET (R147, R148, R291) -/

/-- TRAP (R147). -/
def execTrap (code : BitVec 16) (s : State) : Host.Outcome State Fault Refusal :=
  s.issue (fun _ _ x v => (v.cGate x true true [] []).and (v.slot x).lastGate) fun s w x _ =>
    s.trapAt w x 0x0F 0 0 (code.setWidth 32)

/-- The lanes and the list are as the handler must leave them (R291). -/
def Wave.sretOk (v : Wave) (x : SlotId) : Bool :=
  match v.trap.running with
  | some r => (v.slot x).mask = r.req.lanes && v.ctl.listLen ≤ r.depth
  | none => false
/-- SRET (R148, R291). -/
def execSret (skip : Bool) (s : State) : Host.Outcome State Fault Refusal :=
  s.issue (fun _ _ x v => (v.cGate x (v.slot x).sup true [] []).and <|
      (Gate.need (v.handling x) 0x03).and (v.slot x).lastGate) fun s w x v =>
    if !v.sretOk x then s.terminate v.id.ctx 0x03 0
    else
      s.withFrame w x fun s =>
        (s.modWave w fun v => { v.countIssue x with ctl := { (v.countIssue x).ctl with last := x } }).endTrap w x skip

/-! ### Between instructions: clause fetch, header wait, back edge, clause end -/

/-- The instruction words of a clause, each with its extension words; none where XW does not fit (R98, R100). -/
def splitItems (cl : Cls) : Nat → List Word → Option (List (Word × List Word))
  | 0, [] => some []
  | 0, _ :: _ => none
  | _ + 1, [] => none
  | n + 1, w :: ws =>
    let e := extCount cl w
    if ws.length < e then none
    else match splitItems cl n (ws.drop e) with
      | some l => some ((w, ws.take e) :: l)
      | none => none
/-- The clause whose bytes are b at an address, where it is legal (R100). -/
def clauseOf (a : CAddr) (b : Bytes) : Option Clause :=
  let h := unpackHeader (bytesWord (b.take 4))
  let cl := Cls.ofCode h.cls
  match splitItems cl h.n.toNat (wordsOfBytes (h.n.toNat + h.xw.toNat) (b.drop 4)) with
  | none => none
  | some items =>
    if cl = .u ∧ 8 ≤ h.pg.toNat ∧ items.any (fun i => bit i.1 24) then none
    else some ⟨a, h, items, a + BitVec.ofNat 48 (hdrSize h), true⟩
/-- The counter tests of a header hold (R102). -/
def Wave.headerOpen (v : Wave) (h : Header) : Bool :=
  (h.lw = 7 || v.mem.nLd ≤ h.lw.toNat) && (h.sw = 7 || v.mem.nSt ≤ h.sw.toNat)
/-- The slot holds a decoded clause; the clause starts where its tests hold (R102). -/
def Wave.loadClause (v : Wave) (x : SlotId) (c : Clause) : Wave :=
  v.modSlot x fun p => { p with pos := 0, stale := none, b0 := p.b0, wait := if v.headerOpen c.hdr then none else some .header,
                                clause := some { c with waiting := !v.headerOpen c.hdr } }
/-- A clause fetch waits for a page with its slot in TRAP (R31, R311): its entry stands for lane 96. -/
def Wave.fetchMiss (v : Wave) (x : SlotId) (page : Nat) : Wave :=
  let k := askedFor (v.slot x).asked page
  let m : MissAcc := ⟨x, (v.slot x).sup, 96, page, k, (v.slot x).pc.setWidth 64, .fetch⟩
  let u : Wave := { v with mem := { v.mem with miss := v.mem.miss ++ [m] } }
  u.modSlot x fun p => { p with wait := none, asked := some (page, k), phase := if p.phase = .run then .trap else p.phase }

/-- The fetch proper (R98, R100): the header, then the whole clause, with every page it touches. -/
def State.fetchAt (s : State) (w : Nat) (x : SlotId) (v : Wave) : State :=
  let a := (v.slot x).pc
  let stop := fun (f : Chk × DWord) (s : State) => match f.1 with
    | .miss p o =>
      if 2 ≤ askedFor (v.slot x).asked p then s.trapHead w x 0x06 2 a f.2
      else (s.request v.id.die v.id.ctx p .fx o).modWave w (·.fetchMiss x p)
    | .fault c sub => s.trapHead w x c (fetchSub c sub) a f.2
    | .ok _ => s
  if a.toNat % 4 ≠ 0 then s.trapHead w x 0x02 0 a 0
  else
    match s.codeBytes v x a 4 with
    | (.error f, s1) => stop f s1
    | (.ok b, s1) =>
      let h := unpackHeader (bytesWord b)
      if h.n = 0 ∨ h.low ≠ 0 then s1.trapHead w x 0x02 0 a 0
      else
        match s1.codeBytes v x a (hdrSize h) with
        | (.error f, s2) => stop f s2
        | (.ok all, s2) =>
          match clauseOf a all with
          | none => s2.trapHead w x 0x02 0 a 0
          | some c => s2.modWave w (·.loadClause x c)

/-- CLAUSE_FETCH (R34, R98 to R102): a slot at its own join address arrives first. -/
def execClauseFetch (w : Nat) (x : SlotId) (s : State) : Host.Outcome State Fault Refusal :=
  match s.wave? w with
  | none => .next s
  | some v =>
    let p := v.slot x
    if !v.canRun x ∨ p.clause.isSome ∨ p.firmware ∨ v.id.held then .next s
    else if p.join ≠ some p.pc then .next (s.fetchAt w x v)
    else if p.pend && !p.sup then .next (s.trapHead w x 0x08 0 p.pc 0)
    else match s.listGate v with
      | .go => .next (s.arriveOr w x fun s => s.fetchAt w x v)
      | _ => .next (s.listHold w x)

/-- HEADER_WAIT_END (R102): the clause starts once both tests hold at once. -/
def execHeaderWaitEnd (w : Nat) (x : SlotId) (s : State) : Host.Outcome State Fault Refusal :=
  match s.wave? w with
  | none => .next s
  | some v =>
    match (v.slot x).clause with
    | some c =>
      if c.waiting ∧ v.headerOpen c.hdr then .next (s.setWave w (v.modSlot x fun p =>
        { p with wait := none, clause := some { c with waiting := false } }))
      else .next s
    | none => .next s

/-- The exchange of YIELD (R37): the continuation stands where the youngest path stood. -/
def exchange (x : SlotId) (pc : CAddr) (v : Wave) (l : List REntry) : Wave × List REntry :=
  let p := v.slot x
  match l.reverse.findIdx? fun e => !e.merge with
  | none => (v.modSlot x (·.goto pc), l)
  | some i =>
    let j := l.length - 1 - i
    match l[j]? with
    | none => (v.modSlot x (·.goto pc), l)
    | some e => (v.modSlot x fun q => { q.goto e.pc with mask := e.mask, join := e.join },
        l.set j ⟨false, pc, p.mask, 0, p.join, 0⟩)
/-- The clause of slot x ends, and the slot goes on at an address (R136). (DEDUCED: log 15) -/
def State.endClause (s : State) (w : Nat) (x : SlotId) (pc : CAddr) : State :=
  match s.wave? w with
  | none => s
  | some v =>
    if (v.slot x).yieldDue then s.modSettle w (exchange x pc)
    else s.setWave w (v.modSlot x (·.goto pc))

/-- The wave as a back edge leaves it and the address the slot goes on at (R65). (DEDUCED: log 15) -/
def Wave.loopBack (v : Wave) : Wave × CAddr :=
  match v.ctl.frames with
  | .loop m st z exit t :: _ =>
    let d := v.depth - 1
    let f := Frame.loop m st z exit t
    let c := mgetD v.ctl.lc d 0 - 1
    if c ≠ 0 then
      let rb1 := if 0 < z then (v.ctl.rb + z - 1) % z else v.ctl.rb
      let u := { v with ctl := { v.ctl with lc := mput v.ctl.lc d c, rb := rb1 } }
      let shift := fun (u : Wave) (i : Nat) =>
        u.setP (23 + st - i) ((u.preg (23 + st - i) &&& ~~~m) ||| (u.preg (22 + st - i) &&& m))
      let u1 := if f.pipelined then
          ((List.range (st - 1)).foldl shift u).setP 24 ((u.preg 24 &&& ~~~m) ||| (if st - 1 < c.toNat then m else 0))
        else u
      (u1, mgetD v.ctl.ls d 0)
    else (v.popFrame, exit)
  | _ => (v, 0)

/-- BACK_EDGE (R63, R65): a slot that has completed the clause at le of the innermost loop frame without a transfer. -/
def execBackEdge (w : Nat) (x : SlotId) (s : State) : Host.Outcome State Fault Refusal :=
  match s.wave? w with
  | none => .next s
  | some v =>
    let p := v.slot x
    let ended := match p.clause with | some c => c.items.length ≤ p.pos | none => false
    if !v.canRun x ∨ !ended ∨ p.cont.isSome ∨ !v.atLoopEnd x then .next s
    else if v.frameWait x then .next (s.hold w x .frame)
    else match v.ctl.frames with
      | f :: _ =>
        if p.mask ≠ f.mask then .next (s.trapHead w x 0x09 1 p.headPc 0)
        else match s.listGate v with
          | .go =>
            let b := v.loopBack
            .next ((s.setWave w b.1).endClause w x b.2)
          | _ => .next (s.listHold w x)
      | [] => .next s

/-- A slot at the end of the clause at le of a loop frame that is not the innermost waits for it (R63).
(DEDUCED: log 15) -/
def Wave.outerLoopEnd (v : Wave) (x : SlotId) : Bool :=
  match v.ctl.frames.findIdx? fun f => (v.slot x).mask &&& f.mask ≠ 0 with
  | some (i + 1) =>
    match v.ctl.frames[i + 1]? with
    | some f => f.isLoop && mgetD v.ctl.le (((v.ctl.frames.drop (i + 1)).filter Frame.isLoop).length - 1) 0
        = (v.slot x).headPc
    | none => false
  | _ => false

end Sys2Proof.Machine
end

