-- ==== Sys2Proof/Machine/Memory.lean ====
section
/-! DEFINITION. Machine/Memory.lean: loads, stores, prefetch, atomics and fences (R192 to R201), and the events that
carry them out (R191, R194, R245, R255). -/

namespace Sys2Proof.Machine

/-! ### Data (R110) -/

/-- Bytes of a load or store of a size code. -/
def szBytes (sz : Nat) : Nat := [1, 2, 4, 8, 16, 1, 2].getD sz 1
/-- Main registers of a size code. -/
def szRegs (sz : Nat) : Nat := if sz = 3 then 2 else if sz = 4 then 4 else 1
/-- A size code is 32 bits or fewer. -/
def szSmall (sz : Nat) : Bool := sz != 3 && sz != 4

/-- The destination of a load of n registers may be written: groups are aligned, o registers take one (R110, R192). -/
def Wave.mDstOk (v : Wave) (x : SlotId) (d : MDst) (n : Nat) : Bool :=
  match d with
  | .v r => r.val % n = 0 && v.groupOk x r.val n
  | .o _ => n = 1
def Wave.mDstRegs (v : Wave) (x : SlotId) (d : MDst) (n : Nat) : List Nat :=
  match d with
  | .v r => v.groupRegs x r.val n
  | .o r => [r.val]
def mdstO : MDst → Bool
  | .v _ => false
  | .o _ => true
/-- REG codes a load writes. -/
def Wave.mWrites (v : Wave) (x : SlotId) (d : MDst) (n : Nat) : List Nat :=
  match d with
  | .v r => (v.groupRegs x r.val n).map regV
  | .o _ => []
/-- The data source of a store of n registers may be read (R192). -/
def Wave.mSrcOk (v : Wave) (x : SlotId) (d : MOpd) (n : Nat) : Bool :=
  match d with
  | .v r => r.val % n = 0 && v.groupOk x r.val n
  | o => n = 1 && v.mOpdOk x o
/-- REG codes a store's data reads. -/
def Wave.mSrcReads (v : Wave) (x : SlotId) (d : MOpd) (n : Nat) : List Nat :=
  match d with
  | .v r => (v.groupRegs x r.val n).map regV
  | o => v.mReads x o
/-- The words of lane t of a store's data. -/
def Wave.mSrcWords (v : Wave) (x : SlotId) (d : MOpd) (n t : Nat) : List Word :=
  match d with
  | .v r => (v.groupRegs x r.val n).map fun p => laneAt (v.vreg p) t
  | o => [laneAt (v.readM x o) t]
def wordsBytes (l : List Word) : Bytes := l.flatMap fun w => bytesOfNat 4 w.toNat
/-- Bytes a lane of a store writes. -/
def Wave.mData (v : Wave) (x : SlotId) (d : MOpd) (sz t : Nat) : Bytes :=
  (wordsBytes (v.mSrcWords x d (szRegs sz) t)).take (szBytes sz)

/-! ### LD, ST, SLD, SST, LDP, STP (R192 to R197) -/

/-- LD (R192). -/
def execLd (g : Bool) (d : MDst) (m : MAddr) (la : BitVec 4) (sz : Fin 7) (scope : Fin 6) (pol : Fin 5)
    (s : State) : Host.Outcome State Fault Refusal :=
  let n := szRegs sz
  s.issue (fun _ _ x v => v.mGate x g true (v.addrOk x m && v.mDstOk x d n) (v.addrReads x m) (v.mWrites x d n)
      (roomGate v.mem.nLd)) fun s w x v =>
    if v.active x g = 0 then s.setWave w (v.advance x)
    else s.issueLoad w x v
      { kind := .ld sz, regs := v.mDstRegs x d n, isO := mdstO d, la := la, acq := scope, pol := pol }
      (.memory .rd true) (szBytes sz) (v.mAddrs x m (v.active x g)) (v.addrReads x m)

/-- What a store of a scope waits for, and its effect (R195). -/
def State.releaseThen (s : State) (w : Nat) (x : SlotId) (v : Wave) (scope : Nat) (f : State) : State :=
  if scope = 0 ∨ s.released v x scope then f else s.awaitRelease w x .release

/-- Room for a store to memory in its counters (R191). -/
def Wave.storeRoom (v : Wave) : Gate := (roomGate v.mem.nSt).and (roomGate v.mem.nUa)

/-- ST (R192, R195, R197). -/
def execSt (g : Bool) (d : MOpd) (m : MAddr) (sz : Fin 5) (scope : Fin 6) (_pol : Fin 5)
    (s : State) : Host.Outcome State Fault Refusal :=
  let n := szRegs sz
  s.issue (fun _ _ x v => v.mGate x g true (v.addrOk x m && v.mSrcOk x d n)
      (v.addrReads x m ++ v.mSrcReads x d n) [] v.storeRoom) fun s w x v =>
    if v.active x g = 0 then s.setWave w (v.advance x)
    else s.releaseThen w x v scope <| s.issueStore w x v false false (szBytes sz) (v.mAddrs x m (v.active x g))
      (v.mData x d sz) (v.addrReads x m ++ v.mSrcReads x d n)

/-- The lowest active lane, with one address (R189). -/
def onceAddr (act : Mask) (a : DWord) : List (Nat × DWord) := [((lowest act).getD 0, a)]
/-- s registers of a size code from a name (R110). -/
def sRegs (d : BitVec 7) (sz : Nat) : List Nat := if sz = 4 then [d.toNat, d.toNat + 1] else [d.toNat]
def Wave.sRegsOk (v : Wave) (d : BitVec 7) (sz : Nat) : Bool :=
  (sz != 4 || d.toNat % 2 == 0) && (sRegs d sz).all v.sHeld

/-- SLD (R192). -/
def execSld (g : Bool) (d base : BitVec 7) (ofs : BitVec 16) (la : BitVec 4) (sz : Fin 7) (scope : Fin 6) (pol : Fin 5)
    (s : State) : Host.Outcome State Fault Refusal :=
  s.issue (fun _ _ x v => v.mGate x g true (v.sOk base && v.sRegsOk d sz) [sCode base] ((sRegs d sz).map regS)
      (roomGate v.mem.nLd)) fun s w x v =>
    let act := v.active x g
    if act = 0 then s.setWave w (v.advance x)
    else s.issueLoad w x v
      { kind := .sld sz, regs := sRegs d sz, la := la, acq := scope, pol := pol, all := some act }
      (.memory .rd true) (szBytes sz) (onceAddr act (v.sAddr base ofs)) [sCode base]

def Wave.sData (v : Wave) (d : BitVec 7) (sz : Nat) : Bytes :=
  ((sRegs d sz).flatMap fun n => bytesOfNat 8 (v.sreg n).toNat).take (szBytes sz)
/-- SST (R192). -/
def execSst (g : Bool) (d base : BitVec 7) (ofs : BitVec 16) (sz : Fin 5) (scope : Fin 6) (_pol : Fin 5)
    (s : State) : Host.Outcome State Fault Refusal :=
  let reads := sCode base :: (sRegs d sz).map regS
  s.issue (fun _ _ x v => v.mGate x g true (v.sOk base && v.sRegsOk d sz) reads [] v.storeRoom) fun s w x v =>
    let act := v.active x g
    if act = 0 then s.setWave w (v.advance x)
    else s.releaseThen w x v scope <| s.issueStore w x v false false (szBytes sz) (onceAddr act (v.sAddr base ofs))
      (fun _ => v.sData d sz) reads

/-- None of the wave's pad writes is still in its queue. (DEDUCED: log 24) -/
def Wave.padDrained (v : Wave) : Bool := !v.mem.queue.any (·.pad)

/-- LDP (R192, R193); at block scope an acquire and a release within the pad (R195, R251). -/
def execLdp (g : Bool) (d : MDst) (m : MAddr) (la : BitVec 4) (sz : Fin 7) (acq : Bool)
    (s : State) : Host.Outcome State Fault Refusal :=
  let n := szRegs sz
  s.issue (fun _ _ x v => v.mGate x g true (v.addrOk x m && v.mDstOk x d n) (v.addrReads x m) (v.mWrites x d n)
      ((roomGate v.mem.nLd).and (Gate.until (!acq || v.padDrained) .release))) fun s w x v =>
    if v.active x g = 0 then s.setWave w (v.advance x)
    else s.issueLoad w x v { kind := .ldp sz, regs := v.mDstRegs x d n, isO := mdstO d, la := la, acq := bnat acq }
      (.pad false) (szBytes sz) (v.mAddrs x m (v.active x g)) (v.addrReads x m)
/-- STP (R192, R193, R195); at block scope no later read of the pad passes it (R251). -/
def execStp (g : Bool) (d : MOpd) (m : MAddr) (sz : Fin 5) (rel : Bool)
    (s : State) : Host.Outcome State Fault Refusal :=
  let n := szRegs sz
  s.issue (fun _ _ x v => v.mGate x g true (v.addrOk x m && v.mSrcOk x d n)
      (v.addrReads x m ++ v.mSrcReads x d n) []
      ((roomGate v.mem.nSt).and (Gate.until (!rel || v.padDrained) .release))) fun s w x v =>
    if v.active x g = 0 then s.setWave w (v.advance x)
    else s.issueStore w x v true rel (szBytes sz) (v.mAddrs x m (v.active x g)) (v.mData x d sz)
      (v.addrReads x m ++ v.mSrcReads x d n)

/-! ### PREF (R198) -/

/-- The line at an address comes into the core's L1, where the translation gives it without a request. -/
def State.prefetch (s : State) (who : Who) (pol : Nat) (va : DWord) : State :=
  let r := s.translate who .rd va
  match r.1 with
  | .ok k label _ _ =>
    if pol = 2 ∨ (r.2.badCause [k] label).isSome then r.2 else (r.2.l1Line who.core (lineOf k) label true).2
  | _ => s
/-- PREF (R198): levels 1 and 2 change nothing a program can see (R238, R246). -/
def execPref (g : Bool) (m : MAddr) (lvl : Fin 3) (pol : Fin 5) (s : State) : Host.Outcome State Fault Refusal :=
  s.issue (fun _ _ x v => v.mGate x g true (v.addrOk x m) (v.addrReads x m) [] .go) fun s w x v =>
    let s1 := if lvl.val ≠ 0 then s else (v.mAddrs x m (v.active x g)).foldl (fun s a =>
      if a.2.toNat / 2 ^ 48 = 0xFE00 then s else s.prefetch (v.who x) pol a.2) s
    s1.modWave w fun u => (if v.active x g = 0 then u else u.consume (v.addrReads x m)).advance x

/-! ### Atomics (R199, R200) -/

/-- The 64-bit operations. -/
def atomWide (op : Nat) : Bool := op = 1 || op = 10 || op = 12
def atomBytes (op : Nat) : Nat := if atomWide op then 8 else 4
/-- Main registers of a returning operation's D: those it supplies, and those that receive the old value. -/
def atomIn (op : Nat) : Nat := if op = 12 then 4 else if op = 11 ∨ op = 1 ∨ op = 10 then 2 else 1
def atomOut (op : Nat) : Nat := if atomWide op then 2 else 1
/-- Two's complement of 32 bits. -/
def sgn32 (n : Nat) : Int := sextN 32 n
/-- old → new. The operand of a compare-and-swap is a1 + a2 · 2^64. -/
def atomNew (op old a : Nat) : Nat :=
  let o := old % 2 ^ 32
  let b := a % 2 ^ 32
  match op with
  | 0 => (o + b) % 2 ^ 32
  | 1 => (old + a) % 2 ^ 64
  | 2 => if sgn32 o ≤ sgn32 b then o else b
  | 3 => if sgn32 o ≤ sgn32 b then b else o
  | 4 => min o b
  | 5 => max o b
  | 6 => o &&& b
  | 7 => o ||| b
  | 8 => o ^^^ b
  | 9 => b
  | 10 => a % 2 ^ 64
  | 11 => if o = b then a / 2 ^ 64 % 2 ^ 32 else o
  | 12 => if old = a % 2 ^ 64 then a / 2 ^ 64 % 2 ^ 64 else old
  | 13 => (roundNum f32 .rne (sumNums [f32.read o, f32.read b] .rne).val).val
  | 14 => (fminmax f32 false o b).val
  | _ => (fminmax f32 true o b).val

/-- Lane t's operand of a returning form. -/
def Wave.atomArg (v : Wave) (x : SlotId) (d : MDst) (op t : Nat) : Nat :=
  match d with
  | .o r => (laneAt (v.oreg r.val) t).toNat
  | .v r =>
    let w := fun i => (laneAt (v.vreg (v.phys x (r.val + i))) t).toNat
    if op = 12 then w 0 + w 1 * 2 ^ 32 + (w 2 + w 3 * 2 ^ 32) * 2 ^ 64
    else if op = 11 then w 0 + w 1 * 2 ^ 64
    else if op = 1 ∨ op = 10 then w 0 + w 1 * 2 ^ 32
    else w 0
/-- The D field of an atomic may be used by the operation (R199). (DEDUCED: log 19) -/
def Wave.atomDOk (v : Wave) (x : SlotId) (op : Nat) : AtomD → Bool
  | .ret (.v r) _ => r.val % atomIn op = 0 && v.groupOk x r.val (atomIn op)
  | .ret (.o _) _ => atomIn op = 1
  | .s n => op ≠ 11 && op ≠ 12 && v.sHeld n.val
  | .const _ => op ≠ 11 && op ≠ 12
  | .imm _ => op ≠ 11 && op ≠ 12
def Wave.atomReads (v : Wave) (x : SlotId) (op : Nat) : AtomD → List Nat
  | .ret (.v r) _ => (v.groupRegs x r.val (atomIn op)).map regV
  | .ret (.o _) _ => []
  | .s n => [regS n.val]
  | .const _ => []
  | .imm _ => []
def Wave.atomWrites (v : Wave) (x : SlotId) (op : Nat) : AtomD → List Nat
  | .ret (.v r) _ => (v.groupRegs x r.val (atomOut op)).map regV
  | .ret (.o _) _ => []
  | .s _ => []
  | .const _ => []
  | .imm _ => []
def Wave.atomOperand (v : Wave) (x : SlotId) (op : Nat) (d : AtomD) (t : Nat) : Nat :=
  match d with
  | .ret r _ => v.atomArg x r op t
  | .s n => (v.sreg n.val).toNat
  | .const n => ((constWord n).signExtend 64).toNat
  | .imm w => (w.signExtend 64).toNat
/-- The load a returning form is. -/
def Wave.atomRet (v : Wave) (x : SlotId) (op : Nat) (pad : Bool) : AtomD → Option LoadOp
  | .ret r la => some { kind := if pad then .atomp op else .atom op, regs := v.mDstRegs x r (atomOut op),
                        isO := mdstO r, la := la }
  | .s _ => none
  | .const _ => none
  | .imm _ => none
/-- Room in the counters an atomic raises (R191). -/
def Wave.atomRoom (v : Wave) (pad : Bool) (d : AtomD) : Gate :=
  (match d with
    | .ret _ _ => roomGate v.mem.nLd
    | .s _ => roomGate v.mem.nSt
    | .const _ => roomGate v.mem.nSt
    | .imm _ => roomGate v.mem.nSt).and (if pad then .go else roomGate v.mem.nUa)

/-- What ATOM and ATOMP share. -/
def State.runAtomic (s : State) (pad : Bool) (g : Bool) (op : BitVec 4) (d : AtomD) (m : MAddr) (scope : Nat) :
    Host.Outcome State Fault Refusal :=
  let o := op.toNat
  s.issue (fun _ _ x v => v.mGate x g true (v.addrOk x m && v.atomDOk x o d)
      (v.addrReads x m ++ v.atomReads x o d) (v.atomWrites x o d) (v.atomRoom pad d)) fun s w x v =>
    if v.active x g = 0 then s.setWave w (v.advance x)
    else s.issueAtomic w x v o pad (scope ≠ 5) (atomBytes o) (v.mAddrs x m (v.active x g)) (v.atomOperand x o d)
      (v.atomRet x o pad d) (v.addrReads x m ++ v.atomReads x o d)
/-- ATOM (R199, R200). -/
def execAtom (g : Bool) (op : BitVec 4) (d : AtomD) (m : MAddr) (scope : Fin 6) (s : State) :
    Host.Outcome State Fault Refusal := s.runAtomic false g op d m scope.val
/-- ATOMP (R199, R200). -/
def execAtomp (g : Bool) (op : BitVec 4) (d : AtomD) (m : MAddr) (s : State) :
    Host.Outcome State Fault Refusal := s.runAtomic true g op d m 0

/-! ### FENCE (R201) -/

/-- The acquire half. -/
def State.acquireNow (s : State) (w : Nat) (x : SlotId) (v : Wave) (scope : Nat) : State :=
  if v.mem.nLd ≠ 0 then s.hold w x .fence
  else
    let s1 := s.setWave w (v.advance x)
    if 2 ≤ scope then s1.dropL1 v.core else s1
/-- FENCE.acq. -/
def execFenceAcq (scope : Fin 6) (s : State) : Host.Outcome State Fault Refusal :=
  s.issue (fun _ _ x v => v.mGate x false true true [] [] .go) fun s w x v => s.acquireNow w x v scope
/-- FENCE.rel. -/
def execFenceRel (scope : Fin 6) (s : State) : Host.Outcome State Fault Refusal :=
  s.issue (fun _ _ x v => v.mGate x false true true [] [] .go) fun s w x v =>
    if s.released v x scope then s.setWave w (v.advance x) else s.awaitRelease w x .fence
/-- FENCE.ar. -/
def execFenceAr (scope : Fin 6) (s : State) : Host.Outcome State Fault Refusal :=
  s.issue (fun _ _ x v => v.mGate x false true true [] [] .go) fun s w x v =>
    if s.released v x scope then s.acquireNow w x v scope else s.awaitRelease w x .fence

/-! ### Loads are performed and land (R191, R196, R248) -/

def LoadKind.isAtom : LoadKind → Bool
  | .atom _ => true
  | .atomp _ => true
  | _ => false
def LoadKind.isTex : LoadKind → Bool
  | .tex _ => true
  | .tld => true
  | .tq => true
  | _ => false
/-- A load of 16 bytes a lane. -/
def LoadKind.wide : LoadKind → Bool
  | .ld sz => sz = 4
  | .sld sz => sz = 4
  | .ldp sz => sz = 4
  | .atom _ => false
  | .atomp _ => false
  | .tex _ => false
  | .tld => false
  | .tq => false
/-- The two halves of a 16-byte access (R253). -/
def LaneAcc.halves (a : LaneAcc) : List LaneAcc :=
  [{ a with keys := a.keys.take 8 }, { a with va := a.va + 8, keys := a.keys.drop 8 }]
/-- The single-copy atomic accesses of a load (R253). -/
def Load.parts (l : Load) : List LaneAcc := if l.kind.wide then l.accs.flatMap LaneAcc.halves else l.accs
/-- Key of an access among a load's bytes. -/
def Load.key (l : Load) (a : LaneAcc) : Nat :=
  if l.kind.isTex then a.lane + 96 * a.va.toNat
  else if l.kind.wide then a.lane + 96 * (a.va.toNat / 8 % 2)
  else a.lane
def Load.has (l : Load) (k : Nat) : Bool := l.got.any fun e => e.1 = k
def Load.bytesAt (l : Load) (k : Nat) : Bytes := match l.got.find? fun e => e.1 = k with
  | some e => e.2
  | none => []
/-- Accesses not yet performed. -/
def Load.open_ (l : Load) : List LaneAcc := l.parts.filter fun a => !l.has (l.key a)
/-- Bytes of a lane of a load that is no texture read. -/
def Load.laneBytes (l : Load) (t : Nat) : Bytes := l.bytesAt t ++ if l.kind.wide then l.bytesAt (t + 96) else []

/-- An atomic that must be performed first reaches these bytes: one of the core's write path, or an older one of the
wave's own queue (R245, R248). (DEDUCED: log 24) -/
def State.atomicAhead (s : State) (v : Wave) (id : Nat) (keys : List Key) : Bool :=
  (v.mem.queue.any fun e => decide (e.group < id) && e.isAtomic && meets e.keys keys)
    || (s.core v.core).path.any fun e => e.isAtomic && meets e.keys keys
/-- A block-scope STP of the wave that comes before a read of the pad is still in its queue (R251). -/
def Wave.padAcquire (v : Wave) (l : Load) : Bool :=
  (match l.kind with
    | .ldp _ => true
    | .ld _ => false
    | .sld _ => false
    | .atom _ => false
    | .atomp _ => false
    | .tex _ => false
    | .tld => false
    | .tq => false) && v.mem.queue.any fun e => e.acq && decide (e.group < l.id)
/-- Loads older than one, in order. -/
def Wave.olderLoads (v : Wave) (id : Nat) : List Load := v.mem.loads.filter fun l => l.id < id
/-- Nothing keeps the accesses of a load from being performed (R195, R248): no older acquire is under way, no older
atomic is still to be performed, nor one on the same bytes. -/
def State.mayPerform (s : State) (v : Wave) (l : Load) (accs : List LaneAcc) : Bool :=
  (v.olderLoads l.id).all (fun o => (o.acq = 0 || o.todo = 0) && (!o.kind.isAtom || o.open_.isEmpty))
    && !v.padAcquire l && accs.all fun a => !s.atomicAhead v l.id a.keys

/-- Perform one lane's read. An acquire at cluster scope or wider and a policy that does not allocate read below the
L1; the latter leaves no older copy of the line there (R195, R243). (DEDUCED: log 24) -/
def State.performAcc (s : State) (w : Nat) (l : Load) (a : LaneAcc) : State :=
  match s.wave? w with
  | none => s
  | some v =>
    let older := v.mem.queue.filter fun e => e.group < l.id
    let r := s.loadBytes v.core older a (decide (l.acq < 2) && l.pol ≠ 2) (l.pol ≠ 2)
    let s1 := if a.cached && l.pol = 2 then
        let gone := fun (x : L1Line) => (linesOf a.keys).contains x.line && x.label = a.label && x.use = .data
        r.2.modCore v.core fun c => { c with l1 := dropLines c.l1 gone }
      else r.2
    s1.modWave w fun v => v.modLoad l.id fun l => { l with got := l.got ++ [(l.key a, r.1)] }
def State.performAll (s : State) (w : Nat) (l : Load) (accs : List LaneAcc) : State :=
  accs.foldl (fun s a => s.performAcc w l a) s

/-- What of the open accesses is performed now: all of them or, of a 16-byte load, one half of each lane (R253).
(DESIGN CHOICE: log 3) -/
def State.someHalf (s : State) (l : Load) (accs : List LaneAcc) : List LaneAcc × State :=
  if !l.kind.wide ∨ accs.isEmpty then (accs, s)
  else
    let s1 := { s with fresh := s.fresh + 2 }
    let second := Config.freeBit (s.fresh + 1)
    (if Config.freeBit s.fresh then accs else accs.filter fun a => decide (96 ≤ l.key a) = second, s1)
/-- Perform the older loads of a wave, oldest first, and then the lanes of one load; none where something stands in the
way. (DEDUCED: log 24) -/
def State.performUpTo (s : State) (w : Nat) (v : Wave) (l : Load) (lanes : Mask) : Option State :=
  let older := (v.olderLoads l.id).filter fun o => !o.kind.isAtom
  let mine := if l.kind.isAtom then [] else l.open_.filter fun a => mbit lanes a.lane
  if older.all (fun o => o.open_.isEmpty || s.mayPerform v o o.open_) && (mine.isEmpty || s.mayPerform v l mine) then
    let r := (older.foldl (fun s o => s.performAll w o o.open_) s).someHalf l mine
    some (r.2.performAll w l r.1)
  else none

/-- Register values of bytes read (R110). -/
def loadWords (sz : Nat) (b : Bytes) : List Word :=
  let n := natOfBytes b
  match sz with
  | 5 => [(BitVec.ofNat 8 n).signExtend 32]
  | 6 => [(BitVec.ofNat 16 n).signExtend 32]
  | _ => (List.range (szRegs sz)).map fun i => BitVec.ofNat 32 (n / 2 ^ (32 * i))
/-- s register values of bytes read (R110). -/
def loadDWords (sz : Nat) (b : Bytes) : List DWord :=
  let n := natOfBytes b
  match sz with
  | 4 => [BitVec.ofNat 64 n, BitVec.ofNat 64 (n / 2 ^ 64)]
  | 5 => [(BitVec.ofNat 8 n).signExtend 64]
  | 6 => [(BitVec.ofNat 16 n).signExtend 64]
  | _ => [BitVec.ofNat 64 n]
/-- Write the words of lane t into registers. -/
def Wave.landWords (v : Wave) (l : Load) (t : Nat) (ws : List Word) : Wave :=
  (l.regs.zip ws).foldl (fun v e => if l.isO then v.putO e.1 (oneLane t) fun _ => e.2
    else v.putV e.1 (oneLane t) fun _ => e.2) v
def Wave.landS (v : Wave) (l : Load) (ds : List DWord) : Wave :=
  (l.regs.zip ds).foldl (fun v e => v.setS e.1 e.2) v

end Sys2Proof.Machine
end

