-- ==== Sys2Proof/Machine/Texture.lean ====
section
/-! DEFINITION. Machine/Texture.lean: texture sample, fetch and query (R202 to R206) and the texel formats (R354 to
R356). -/

namespace Sys2Proof.Machine

/-- A texture descriptor (R203). -/
structure Tex where
  bias : Nat
  border : Nat
  mipf : Nat
  minf : Bool
  magf : Bool
  addrv : Nat
  addru : Nat
  tfmt : Nat
  levels : Nat
  h : Nat
  w : Nat
  index : Nat
  payload : Nat
  deriving DecidableEq, Repr

/-- (DEDUCED: log 30) -/
def Tex.ofBytes (b : Bytes) : Tex :=
  let n := natOfBytes b
  ⟨fieldOf n 255 224, fieldOf n 223 192, fieldOf n 175 174, n.testBit 173, n.testBit 172, fieldOf n 171 170,
    fieldOf n 169 168, fieldOf n 167 164, fieldOf n 163 160, fieldOf n 159 144 + 1, fieldOf n 143 128 + 1,
    fieldOf n 127 64, fieldOf n 63 0⟩
/-- No reserved value and no must-be-zero bit set (R203). (DEDUCED: log 30) -/
def texLegal (b : Bytes) : Bool :=
  let n := natOfBytes b
  let t := Tex.ofBytes b
  fieldOf n 511 256 = 0 && fieldOf n 191 176 = 0 && t.mipf ≠ 3 && t.tfmt < 2 && t.levels ≤ 14
    && t.payload % 16 = 0 && t.index % 16 = 0 && (t.tfmt = 1 || t.index = 0)
    && t.levels ≤ Nat.log2 (max t.w t.h)

def Tex.lw (t : Tex) (l : Nat) : Nat := max 1 (t.w / 2 ^ l)
def Tex.lh (t : Tex) (l : Nat) : Nat := max 1 (t.h / 2 ^ l)
def up16 (n : Nat) : Nat := (n + 15) / 16 * 16
/-- Offset of level l from PAYLOAD (R354). -/
def Tex.levelAt (t : Tex) (l : Nat) : Nat := ((List.range l).map fun i => up16 (4 * t.lw i * t.lh i)).sum
def ceil8 (n : Nat) : Nat := (n + 7) / 8
/-- Address of the index entry of a texel's block (R355). -/
def Tex.entryAt (t : Tex) (l x y : Nat) : Nat :=
  let before := ((List.range l).map fun i => ceil8 (t.lw i) * ceil8 (t.lh i)).sum
  (t.index + 4 * (before + y / 8 * ceil8 (t.lw l) + x / 8)) % 2 ^ 64
/-- Address of a TFMT 0 texel. -/
def Tex.texelAt (t : Tex) (l x y : Nat) : Nat := (t.payload + t.levelAt l + 4 * (y * t.lw l + x)) % 2 ^ 64
/-- A block's payload address, and the bytes of a texel's deltas in it (R355). -/
def Tex.blockAt (t : Tex) (e : Nat) : Nat := (t.payload + 16 * (e % 2 ^ 28)) % 2 ^ 64
def entryClass (e : Nat) : Nat := e / 2 ^ 28
def texelIx (x y : Nat) : Nat := 8 * (y % 8) + x % 8
def deltaFirst (c i : Nat) : Nat := (64 + c * (4 * i)) / 8
def deltaLen (c i : Nat) : Nat := (64 + c * (4 * i + 4) + 7) / 8 - deltaFirst c i
/-- Addresses of the payload bytes of a texel, with their lengths. -/
def Tex.payloadNeeds (t : Tex) (e x y : Nat) : List (Nat × Nat) :=
  let c := entryClass e
  if 8 < c then []
  else (t.blockAt e, 8) :: (if c = 0 then [] else
    (List.range (deltaLen c (texelIx x y))).map fun j => ((t.blockAt e + deltaFirst c (texelIx x y) + j) % 2 ^ 64, 1))

/-- Channels of a texel from its bytes. -/
def Tex.texel (t : Tex) (entry : Nat → Nat) (rd : Nat → Bytes) (l x y : Nat) : List Nat :=
  if t.tfmt = 0 then (rd (t.texelAt l x y)).map BitVec.toNat
  else
    let e := entry (t.entryAt l x y)
    let c := entryClass e
    let i := texelIx x y
    if 8 < c then [0, 0, 0, 0]
    else
      let hd := rd (t.blockAt e)
      let sh := natOfBytes ((hd.drop 4).take 2)
      let d := natOfBytes ((List.range (deltaLen c i)).map fun j =>
        (rd ((t.blockAt e + deltaFirst c i + j) % 2 ^ 64)).headD 0)
      (List.range 4).map fun k =>
        let delta := d / 2 ^ (64 + c * (4 * i + k) - 8 * deltaFirst c i) % 2 ^ c
        min 255 ((hd.getD k 0).toNat + delta * 2 ^ (sh / 2 ^ (4 * k) % 16))

/-- A coordinate as an exact fraction; a NaN or an infinity reads as 0 (R204). -/
def coordOf (w : Word) : Int × Nat :=
  match f32.read w.toNat with
  | .fin s n d => (if s then -(n : Int) else n, d)
  | _ => (0, 1)
/-- Address modes; none is a border texel. -/
def wrapCoord (mode : Nat) (n : Nat) (i : Int) : Option Nat :=
  match mode with
  | 0 => some (i % n).toNat
  | 1 => some (if i < 0 then 0 else min i.toNat (n - 1))
  | 2 => let m := (i % (2 * n : Nat)).toNat; some (if m < n then m else 2 * n - 1 - m)
  | _ => if 0 ≤ i ∧ i < n then some i.toNat else none

/-- A texel that enters a sample with its weight in units of 2^-24; none is the border colour. -/
structure Tap where
  weight : Nat
  at_ : Option (Nat × Nat × Nat)
  deriving DecidableEq, Repr

/-- The integer and the weight of the next texel along one axis, in 256ths, for a linear filter. -/
def linearAt (c : Int × Nat) (n : Nat) : Int × Nat :=
  let p := 256 * (2 * c.1 * n - c.2) / (2 * c.2 : Nat)
  (p / 256, (p % 256).toNat)
/-- Taps of one level (R204). -/
def Tex.tapsAt (t : Tex) (l : Nat) (linear : Bool) (u v : Int × Nat) (wl : Nat) : List Tap :=
  let at_ := fun (i j : Int) => match wrapCoord t.addru (t.lw l) i, wrapCoord t.addrv (t.lh l) j with
    | some x, some y => some (l, x, y)
    | _, _ => none
  if !linear then [⟨wl * 65536, at_ (u.1 * (t.lw l : Nat) / (u.2 : Nat)) (v.1 * (t.lh l : Nat) / (v.2 : Nat))⟩]
  else
    let a := linearAt u (t.lw l)
    let b := linearAt v (t.lh l)
    [⟨wl * ((256 - a.2) * (256 - b.2)), at_ a.1 b.1⟩, ⟨wl * (a.2 * (256 - b.2)), at_ (a.1 + 1) b.1⟩,
      ⟨wl * ((256 - a.2) * b.2), at_ a.1 (b.1 + 1)⟩, ⟨wl * (a.2 * b.2), at_ (a.1 + 1) (b.1 + 1)⟩]
/-- Taps of a sample at a level given in 256ths (R204, R205). -/
def Tex.taps (t : Tex) (u v : Int × Nat) (lod : Nat) : List Tap :=
  let lin := if lod = 0 then t.magf else t.minf
  (match t.mipf with
    | 0 => t.tapsAt 0 lin u v 256
    | 1 => t.tapsAt ((lod + 128) / 256) lin u v 256
    | _ =>
      let f := lod % 256
      t.tapsAt (lod / 256) lin u v (256 - f) ++ (if f = 0 then [] else t.tapsAt (lod / 256 + 1) lin u v f)).filter
    fun k => k.weight ≠ 0

/-- The nearest FP32 value of n / d. -/
def f32Of (n d : Nat) : Word := if n = 0 then 0 else BitVec.ofNat 32 (roundFin f32 .rne false n d).val
/-- The four channels of a sample. -/
def Tex.sample (t : Tex) (entry : Nat → Nat) (rd : Nat → Bytes) (taps : List Tap) : List Word :=
  let rows := taps.map fun k => (k.weight, match k.at_ with
    | some (l, x, y) => t.texel entry rd l x y
    | none => (bytesOfNat 4 t.border).map BitVec.toNat)
  (List.range 4).map fun c => f32Of ((rows.map fun r => r.1 * r.2.getD c 0).sum) (255 * 2 ^ 24)

/-! ### The level (R205) -/

/-- a + b of two signed fractions. -/
def addFrac (a b : Int × Nat) : Int × Nat := (a.1 * b.2 + b.1 * a.2, a.2 * b.2)
def subFrac (a b : Int × Nat) : Int × Nat := addFrac a (-b.1, b.2)
def sqFrac (a : Int × Nat) : Nat × Nat := (a.1.natAbs * a.1.natAbs, a.2 * a.2)
def addNat2 (a b : Nat × Nat) : Nat × Nat := (a.1 * b.2 + b.1 * a.2, a.2 * b.2)
def maxNat2 (a b : Nat × Nat) : Nat × Nat := if a.1 * b.2 < b.1 * a.2 then b else a
/-- floor(128 · log2(n / d) + b), the logarithm taken to 240 fraction bits where it is not an integer. -/
def floorLod (n d : Nat) (b : Int × Nat) : Int :=
  if n = 0 then b.1 / (b.2 : Nat)
  else
    let e := ilog2 n d
    let p := scaled d e
    let y := n * p.2 * 2 ^ wp / p.1
    let fr : Nat := if n * p.2 = p.1 then 0 else log2Bits 240 y 0
    (128 * (e * (2 ^ 240 : Nat) + fr) * b.2 + b.1 * (2 ^ 240 : Nat)) / (2 ^ 240 * b.2 : Nat)
/-- ρ² of a quad, from its coordinates at level 0 (R205). -/
def Tex.rho (t : Tex) (u v : Lanes) (q : Nat) : Nat × Nat :=
  let c := fun (l : Lanes) (n i : Nat) => let a := coordOf (laneAt l (4 * q + i)); (a.1 * (n : Int), a.2)
  let d := fun (i : Nat) => addNat2 (sqFrac (subFrac (c u t.w i) (c u t.w 0))) (sqFrac (subFrac (c v t.h i) (c v t.h 0)))
  maxNat2 (d 1) (d 2)
/-- λ of lane i in 256ths, after clamping. A level that is not a number is a free value. (DEDUCED: log 30) -/
def Tex.lod (t : Tex) (mode : Nat) (u v x2 : Lanes) (free i : Nat) : Nat :=
  let terms := [f32.read t.bias] ++ (if mode = 0 then [] else [f32.read (laneAt x2 i).toNat])
  let top := 256 * t.levels
  match (sumNums terms .rne).val with
  | .nan _ => Config.freeNat free % (top + 1)
  | .inf s => if s then 0 else top
  | .fin s n d =>
    let b : Int × Nat := (256 * (if s then -(n : Int) else n), d)
    let r := if mode = 1 then (0, 1) else t.rho u v (i / 4)
    let f := floorLod r.1 r.2 b
    if f < 0 then 0 else min f.toNat top

/-! ### The checks on a lane's texels (R356) -/

/-- What the checks of a texture lane give. -/
inductive TexChk where
  | ok (accs : List LaneAcc) (index : List (Nat × Word))
  | fault (cause sub : Nat) (va : DWord)
  | miss (page origin : Nat) (va : DWord)
  deriving DecidableEq, Repr

def indexAt (ix : List (Nat × Word)) (a : Nat) : Nat := match ix.find? fun e => e.1 = a with
  | some e => e.2.toNat
  | none => 0
/-- Runs of bytes of a lane, each checked once. -/
def State.texNeeds (s : State) (who : Who) (lane : Nat) (ix : List (Nat × Word)) :
    List (Nat × Nat) → List LaneAcc → TexChk × State
  | [], acc => (.ok acc ix, s)
  | (a, n) :: r, acc =>
    if acc.any fun e => e.va.toNat = a ∧ e.keys ≠ [] then s.texNeeds who lane ix r acc
    else
      let c := s.access who .rd false lane (BitVec.ofNat 64 a) n
      match c.1 with
      | .ok e => c.2.texNeeds who lane ix r (acc ++ [e])
      | .fault cause sub => (.fault cause sub (BitVec.ofNat 64 a), c.2)
      | .miss p o => (.miss p o (BitVec.ofNat 64 a), c.2)
/-- The texels of a lane: with TFMT 1 the index entry is read here, then its payload bytes are checked.
(DEDUCED: log 30) -/
def State.texTexels (s : State) (v : Wave) (who : Who) (t : Tex) (lane : Nat) :
    List (Nat × Nat × Nat) → List (Nat × Word) → List LaneAcc → TexChk × State
  | [], ix, acc => (.ok acc ix, s)
  | (l, x, y) :: r, ix, acc =>
    let go := fun (s : State) (ix : List (Nat × Word)) (needs : List (Nat × Nat)) =>
      match s.texNeeds who lane ix needs acc with
      | (.ok acc' ix', s1) => s1.texTexels v who t lane r ix' acc'
      | f => f
    if t.tfmt = 0 then go s ix [(t.texelAt l x y, 4)]
    else
      let ea := t.entryAt l x y
      if ix.any fun e => e.1 = ea then go s ix (t.payloadNeeds (indexAt ix ea) x y)
      else
        let c := s.access who .rd false lane (BitVec.ofNat 64 ea) 4
        match c.1 with
        | .fault cause sub => (.fault cause sub (BitVec.ofNat 64 ea), c.2)
        | .miss p o => (.miss p o (BitVec.ofNat 64 ea), c.2)
        | .ok a =>
          let b := c.2.indexBytes v.core v.mem.queue a
          let ix' := (ea, BitVec.ofNat 32 (natOfBytes b.1)) :: ix
          go b.2 ix' (t.payloadNeeds (indexAt ix' ea) x y)

/-- A lane's entry in a load's accesses even where it reads nothing. -/
def laneEntry (t : Nat) : LaneAcc := { lane := t, va := 0, keys := [], label := 0, cached := false }
/-- Texels lane i of a load reads. -/
def Tex.lanePlan (t : Tex) (kind : LoadKind) (args : List Lanes) (i : Nat) : List Tap :=
  match kind with
  | .tex _ => t.taps (coordOf (srcAt args 0 i)) (coordOf (srcAt args 1 i)) (srcAt args 2 i).toNat
  | .tld =>
    let l := (srcAt args 2 i).toNat
    let x := (srcAt args 0 i).toNat
    let y := (srcAt args 1 i).toNat
    if l ≤ t.levels ∧ x < t.lw l ∧ y < t.lh l then [⟨2 ^ 24, some (l, x, y)⟩] else []
  | _ => []
def State.texLane (s : State) (v : Wave) (who : Who) (kind : LoadKind) (desc : Bytes) (args : List Lanes)
    (ix : List (Nat × Word)) (i : Nat) : TexChk × State :=
  let t := Tex.ofBytes desc
  s.texTexels v who t i ((t.lanePlan kind args i).filterMap (·.at_)).eraseDups ix [laneEntry i]

/-- The checks of all lanes, in ascending order. -/
def State.texLanes (s : State) (v : Wave) (who : Who) (kind : LoadKind) (desc : Bytes) (args : List Lanes) :
    List Nat → List (Nat × Word) → Served → (Served × List (Nat × Word)) × State
  | [], ix, r => ((r, ix), s)
  | i :: is, ix, r =>
    let c := s.texLane v who kind desc args ix i
    match c.1 with
    | .ok accs ix' => c.2.texLanes v who kind desc args is ix' { r with ok := r.ok ++ accs }
    | .fault cause sub va => c.2.texLanes v who kind desc args is ix { r with bad := r.bad ++ [(i, cause, sub, va)] }
    | .miss p o va => c.2.texLanes v who kind desc args is ix { r with gone := r.gone ++ [(i, p, o, va)] }

/-- The result of lane i once its bytes are read: four words (R204, R206). -/
def Load.texWords (l : Load) (i : Nat) : List Word :=
  let t := Tex.ofBytes l.desc
  let rd := fun a => l.bytesAt (i + 96 * a)
  match l.kind with
  | .tq =>
    let n := (srcAt l.args 0 i).toNat
    [if n ≤ t.levels then BitVec.ofNat 32 (t.lw n) else 0, if n ≤ t.levels then BitVec.ofNat 32 (t.lh n) else 0,
      BitVec.ofNat 32 (t.levels + 1), BitVec.ofNat 32 t.tfmt]
  | k => t.sample (indexAt l.index) rd (t.lanePlan k l.args i)

/-! ### TEX, TLD, TQ (R202) -/

/-- No acquire of the wave is under way (R195). (DEDUCED: log 30) -/
def Wave.noAcquire (v : Wave) : Bool := v.mem.loads.all fun l => l.acq = 0 || l.todo = 0
/-- The gate of the texture instructions: D names a group of 4, X one of n. -/
def Wave.texGate (v : Wave) (x : SlotId) (g : Bool) (d : Fin 160) (xs : List Nat) (base : BitVec 7) : Gate :=
  v.mGate x g true (v.sOk base && d.val % 4 = 0 && v.groupOk x d.val 4
      && xs.all fun n => n < 160 && v.vHeld (v.phys x n))
    (sCode base :: xs.map fun n => regV (v.phys x n)) ((v.groupRegs x d.val 4).map regV)
    ((roomGate v.mem.nLd).and (Gate.until v.noAcquire .scoreboard))

/-- A texture instruction once its gate is open: the descriptor, then the lanes (R203, R356). args gives the lanes the
load keeps, from the descriptor and a free number. (DEDUCED: log 30) -/
def State.runTexture (s : State) (w : Nat) (x : SlotId) (v : Wave) (g : Bool) (kind : LoadKind) (d : Fin 160)
    (base : BitVec 7) (ofs : BitVec 16) (la : BitVec 4) (pol : Nat) (reads : List Nat)
    (args : Tex → Nat → List Lanes) : State :=
  let act := v.active x g
  let low := (lowest act).getD 0
  let va := v.sAddr base ofs
  if act = 0 then s.setWave w (v.advance x)
  else
    let c := s.access (v.who x) .rd false low va 64
    match c.1 with
    | .fault cause sub =>
      if cause = 0x04 then
        (c.2.modWave w fun v => v.modSlot x fun p => { p with only := some (act &&& ~~~oneLane low) }).laneTrap w x
          (oneLane low) cause (descSub cause sub) va
      else (c.2.modWave w fun v => v.modSlot x fun p => { p with only := some 0 }).laneTrap w x act cause (descSub cause sub) va
    | .miss p o => c.2.pageHold w x .rd p o fun s =>
        (s.modWave w fun v => v.modSlot x fun p => { p with only := some 0 }).laneTrap w x act 0x06 2 va
    | .ok a =>
      if c.2.atomicAhead v v.mem.nextId a.keys then c.2.hold w x .atomicPath
      else
        let b := c.2.loadBytes v.core v.mem.queue a true true
        if !texLegal b.1 then b.2.trapC w x 0x03
        else
          let t := Tex.ofBytes b.1
          let as_ := args t b.2.fresh
          let s1 := { b.2 with fresh := b.2.fresh + 1 }
          let r := s1.texLanes v (v.who x) kind b.1 as_ (lanesOf act) [] .none
          let op : LoadOp := { kind := kind, regs := v.groupRegs x d.val 4, la := la, pol := pol, args := as_,
                               desc := b.1, index := r.1.2 }
          let s2 := r.2.modWave w fun v =>
            (if r.1.1.lanes.isEmpty then v else v.consume reads).addLoad x op r.1.1 fun id _ => .tex id
          s2.endAccess w x v .rd r.1.1

/-- TEX (R202 to R205). -/
def execTex (g : Bool) (mode : Fin 3) (d x_ : Fin 160) (base : BitVec 7) (ofs : BitVec 16) (la : BitVec 4)
    (pol : Fin 5) (s : State) : Host.Outcome State Fault Refusal :=
  let xs := (List.range (if mode.val = 0 then 2 else 3)).map (x_.val + ·)
  s.issue (fun _ _ x v => v.texGate x g d xs base) fun s w x v =>
    let c := fun i => v.vreg (v.phys x (x_.val + i))
    s.runTexture w x v g (.tex mode) d base ofs la pol (sCode base :: xs.map fun n => regV (v.phys x n)) fun t free =>
      [c 0, c 1, ofLanes fun i => BitVec.ofNat 32 (t.lod mode (c 0) (c 1) (c 2) free i)]
/-- TLD (R206). -/
def execTld (g : Bool) (d x_ : Fin 160) (base : BitVec 7) (ofs : BitVec 16) (la : BitVec 4) (pol : Fin 5)
    (s : State) : Host.Outcome State Fault Refusal :=
  let xs := (List.range 3).map (x_.val + ·)
  s.issue (fun _ _ x v => v.texGate x g d xs base) fun s w x v =>
    let c := fun i => v.vreg (v.phys x (x_.val + i))
    s.runTexture w x v g .tld d base ofs la pol (sCode base :: xs.map fun n => regV (v.phys x n)) fun _ _ =>
      [c 0, c 1, c 2]
/-- TQ (R206). -/
def execTq (g : Bool) (d : Fin 160) (x_ : Option (Fin 160)) (base : BitVec 7) (ofs : BitVec 16) (la : BitVec 4)
    (pol : Fin 5) (s : State) : Host.Outcome State Fault Refusal :=
  let xs := match x_ with
    | some n => [n.val]
    | none => []
  s.issue (fun _ _ x v => v.texGate x g d xs base) fun s w x v =>
    s.runTexture w x v g .tq d base ofs la pol (sCode base :: xs.map fun n => regV (v.phys x n)) fun _ _ =>
      [match x_ with
        | some n => v.vreg (v.phys x n.val)
        | none => []]

/-! ### A texture lane after its page reply (R313) -/

/-- As missRedo, for a texture lane: all of its texels are checked again. -/
def State.texRedo (s : State) (w : Nat) (m : MissAcc) (id : Nat) : Option MissFail × State :=
  match s.wave? w with
  | none => (none, s)
  | some v =>
    match v.mem.loads.find? fun l => l.id = id with
    | none => (none, s.modWave w (·.dropMiss m))
    | some l =>
      let c := s.texLane v ⟨v.id.ctx, v.core, m.sup, 0⟩ l.kind l.desc l.args l.index m.lane
      match c.1 with
      | .ok accs ix => (none, c.2.modWave w fun v =>
          ((v.dropMiss m).modLoad id fun l => { l with accs := l.accs ++ accs, index := ix }).missDone m.slot)
      | .fault cause sub va => (some ({ m with va := va }, cause, sub), c.2.missLeave w m)
      | .miss p o _ => c.2.missAgain w v m p o

end Sys2Proof.Machine
end

