-- ==== Sys2Proof/Machine/Landing.lean ====
section
/-! DEFINITION. Machine/Landing.lean: the events that carry a wave's accesses out: a load's results land, a store
leaves its queue, a write or an atomic is performed (R191, R194, R245, R248, R255). -/

namespace Sys2Proof.Machine

/-! ### LOAD_LANDING (R191, R196) -/

/-- The results of lane t of a load are written, a whole group at once (R196). (DESIGN CHOICE: log 23) -/
def Wave.landLane (v : Wave) (l : Load) (t : Nat) : Wave :=
  let b := l.laneBytes t
  match l.kind with
  | .ld sz => v.landWords l t (loadWords sz b)
  | .ldp sz => v.landWords l t (loadWords sz b)
  | .sld sz => v.landS l (loadDWords sz b)
  | .atom op => v.landWords l t (loadWords (if atomWide op then 3 else 2) b)
  | .atomp op => v.landWords l t (loadWords (if atomWide op then 3 else 2) b)
  | .tex _ => v.landWords l t (l.texWords t)
  | .tld => v.landWords l t (l.texWords t)
  | .tq => v.landWords l t (l.texWords t)
/-- Every access of lane t has been performed. -/
def Load.laneDone (l : Load) (t : Nat) : Bool :=
  let mine := l.parts.filter fun a => a.lane = t
  !mine.isEmpty && mine.all fun a => l.has (l.key a)
/-- Land the lanes of a mask that are due and performed. -/
def Wave.landAll (v : Wave) (id : Nat) (lanes : Mask) : Wave :=
  match v.mem.loads.find? fun l => l.id = id with
  | none => v
  | some l =>
    let ts := (lanesOf (lanes &&& l.todo)).filter l.laneDone
    (ts.foldl (fun u t => u.landLane l t) v).modLoad id fun l =>
      { l with todo := l.todo &&& ~~~(maskOf fun t => ts.contains t) }
/-- LOAD_LANDING: results of some lanes of a load are written, once its reads, and those of the wave's older loads, can
be performed. (DESIGN CHOICE: log 23) -/
def execLoadLanding (w id : Nat) (lanes : Mask) (s : State) : Host.Outcome State Fault Refusal :=
  match s.wave? w with
  | none => .next s
  | some v =>
    match v.mem.loads.find? fun l => l.id = id with
    | none => .next s
    | some l =>
      match s.performUpTo w v l lanes with
      | none => .next s
      | some s1 => .next ((s1.modWave w (·.landAll id lanes)).endLoad w id)

/-! ### STORE_LEAVES_QUEUE (R194, R243) -/

/-- Older loads of the wave have been performed, as far as they can be reached (R248). -/
def Wave.loadsBefore (v : Wave) (group : Nat) : Bool := (v.olderLoads group).all fun l => l.open_.isEmpty
/-- A store that leaves its queue enters the core's write path and updates the L1 line, if present. -/
def Core.takeStore (c : Core) (e : StoreE) : Core :=
  { (c.enqueue [e]) with l1 := updateLines e.lines e.cells c.l1 }
/-- An access of a pad store that is performed apart from the others (R253), none before it on the same bytes (R194):
its number, or none where the whole entry goes at once. (DESIGN CHOICE: log 3) -/
def State.padPart (s : State) (e : StoreE) : Option Nat × State :=
  let n := e.parts.length
  if n ≤ 1 then (none, s)
  else
    let s1 := { s with fresh := s.fresh + 2 }
    let i := Config.freeNat (s.fresh + 1) % n
    let clear := match e.parts[i]? with
      | some p => !(e.parts.take i).any fun q => meets q.keys p.keys
      | none => false
    (if Config.freeBit s.fresh then none else if clear then some i else some 0, s1)
/-- STORE_LEAVES_QUEUE: the oldest entry of the wave's store queue leaves it, where the core has quota left for its packet
(R284); of one to the pad, it may be one access only (R253). A pad atomic stays until it is performed. -/
def execStoreLeavesQueue (w : Nat) (s : State) : Host.Outcome State Fault Refusal :=
  match s.wave? w with
  | none => .next s
  | some v =>
    match v.mem.queue with
    | [] => .next s
    | e :: rest =>
      if !v.loadsBefore e.group ∨ (e.pad && e.isAtomic) then .next s
      else
        let left := fun (s : State) => s.setWave w { v with mem := { v.mem with queue := rest } }
        let count := fun (s : State) => if e.silent then s else s.countLeft w e.group
        if !e.pad then
          match s.stampFor v.id.die v.id.core v.id.ctx with
          | none => .next s
          | some p =>
            let s1 := (left s).countFlit v.id.die v.id.core v.id.ctx p
            let s2 := s1.modCore v.core (·.takeStore { e with stamp := p })
            .next (count (s2.refuseNew v.core (s.core v.core).path.length))
        else
          let r := s.padPart e
          match r.1 with
          | none => .next (count ((left r.2).perform e.cells e.lines))
          | some i =>
            let p := e.withCells ((e.cells.drop (i * e.unit)).take e.unit)
            let s1 := r.2.setWave w { v with mem := { v.mem with queue := e.without i :: rest } }
            .next (s1.perform p.cells p.lines)

/-! ### STORE_ACK and ATOMIC_PERFORM (R245, R255) -/

/-- An entry of the write path may be performed: no slice refuses it or an older one of the core that goes to the same slice
(R285), and no older entry touches the same bytes. -/
def pathClear (path : List StoreE) (ix : Nat) (keys : List Key) : Bool :=
  let refused := ((path.take (ix + 1)).filter fun e => e.hint.isSome).flatMap StoreE.slices
  !(((path[ix]?).elim [] StoreE.slices).any fun q => refused.contains q) && (path.take ix).all fun e => !meets e.keys keys
/-- Entry ix leaves a core's write path. -/
def State.dropPath (s : State) (c ix : Nat) : State := s.modCore c fun k => { k with path := k.path.eraseIdx ix }
/-- STORE_ACK: the point of coherence performs a write of a core's write path and acknowledges it. -/
def execStoreAck (core ix : Nat) (s : State) : Host.Outcome State Fault Refusal :=
  match (s.core core).path[ix]? with
  | none => .next s
  | some e =>
    if e.isAtomic ∨ !pathClear (s.core core).path ix e.keys then .next s
    else
      let s1 := (s.perform e.cells e.lines).dropPath core ix
      .next (if e.silent then s1 else s1.countAcked e.wave e.group)

/-- Lane accesses of an atomic that are in a mask. -/
def pickAccs (lanes : Mask) (l : List (LaneAcc × Nat)) : List (LaneAcc × Nat) := l.filter fun a => mbit lanes a.1.lane
def restAccs (lanes : Mask) (l : List (LaneAcc × Nat)) : List (LaneAcc × Nat) := l.filter fun a => !mbit lanes a.1.lane
/-- Lanes of one location are applied as one group (R200). -/
def closedAccs (lanes : Mask) (l : List (LaneAcc × Nat)) : Bool :=
  (pickAccs lanes l).all fun a => (restAccs lanes l).all fun b => !meets a.1.keys b.1.keys
/-- One indivisible read and write (R200): the bytes read, and the state after. -/
def State.atomicStep (s : State) (op : Nat) (a : LaneAcc × Nat) : Bytes × State :=
  let old := a.1.keys.map (memByte s.mem)
  let new := bytesOfNat old.length (atomNew op (natOfBytes old) a.2)
  (old, s.perform (zipCells a.1.keys new) (accLines [a.1]))
/-- The atomics of lanes in ascending order, with the old value of each. -/
def State.atomicSteps (s : State) (op : Nat) : List (LaneAcc × Nat) → List (Nat × Bytes) × State
  | [] => ([], s)
  | a :: r =>
    let b := s.atomicStep op a
    let c := b.2.atomicSteps op r
    ((a.1.lane, b.1) :: c.1, c.2)
/-- The core's L1 copies of the lines are dropped, with the code they may hold (R255, R302). -/
def Core.dropAtomic (c : Core) (l : List (LaneAcc × Nat)) : Core :=
  let lines := l.flatMap fun a => linesOf a.1.keys
  { c with l1 := dropLines c.l1 fun x => lines.contains x.line }
/-- The old values reach the wave's returning instruction. -/
def State.giveOld (s : State) (w group : Nat) (old : List (Nat × Bytes)) : State :=
  s.modWave w fun v => v.modLoad group fun l => { l with got := l.got ++ old }
/-- Lanes of an atomic's entry are performed; put says what becomes of the entry. -/
def State.atomicLanes (s : State) (core : Nat) (e : StoreE) (op : Nat) (accs : List (LaneAcc × Nat)) (lanes : Mask)
    (put : State → List (LaneAcc × Nat) → State) : State :=
  let r := s.atomicSteps op (pickAccs lanes accs)
  let s1 := (put r.2 (restAccs lanes accs)).modCore core (·.dropAtomic (pickAccs lanes accs))
  if e.silent then s1.giveOld e.wave e.group r.1 else s1

/-- An atomic of the core's write path. -/
def State.pathAtomic (s : State) (core w id : Nat) (lanes : Mask) : State :=
  match (s.core core).path.findIdx? fun e => e.wave = w && e.group = id && e.isAtomic with
  | none => s
  | some ix =>
    match (s.core core).path[ix]? with
    | none => s
    | some e =>
      match e.kind with
      | .write _ => s
      | .atomic op accs =>
        let mine := pickAccs lanes accs
        if mine.isEmpty ∨ !closedAccs lanes accs
            ∨ !pathClear (s.core core).path ix (mine.flatMap fun a => a.1.keys) then s
        else s.atomicLanes core e op accs lanes fun s rest =>
          if rest.isEmpty then
            let s1 := s.dropPath core ix
            if e.silent then s1 else s1.countAcked w id
          else s.modCore core fun k => { k with path := k.path.set ix { e with kind := .atomic op rest } }
/-- A pad atomic at the head of its wave's queue. -/
def State.padAtomic (s : State) (w : Nat) (v : Wave) (id : Nat) (lanes : Mask) : State :=
  match v.mem.queue with
  | [] => s
  | e :: q =>
    match e.kind with
    | .write _ => s
    | .atomic op accs =>
      if !e.pad ∨ e.group ≠ id ∨ (pickAccs lanes accs).isEmpty ∨ !closedAccs lanes accs ∨ !v.loadsBefore id then s
      else s.atomicLanes v.core e op accs lanes fun s rest =>
        let queue := if rest.isEmpty then q else { e with kind := .atomic op rest } :: q
        let s1 := s.modWave w fun v => { v with mem := { v.mem with queue := queue } }
        if e.silent ∨ !rest.isEmpty then s1 else s1.countLeft w id
/-- ATOMIC_PERFORM: lanes of an atomic of wave w, its number id among the wave's accesses, are performed at their
location. (DESIGN CHOICE: log 29) -/
def execAtomicPerform (w id : Nat) (lanes : Mask) (s : State) : Host.Outcome State Fault Refusal :=
  match s.wave? w with
  | none =>
    -- an atomic whose wave has gone stays in its core's write path
    .next ((List.range 160).foldl (fun s c => if noWave ≤ w then s.pathAtomic c w id lanes else s) s)
  | some v =>
    match v.mem.queue with
    | e :: _ => if e.pad ∧ e.isAtomic ∧ e.group = id then .next (s.padAtomic w v id lanes)
      else .next (s.pathAtomic v.core w id lanes)
    | [] => .next (s.pathAtomic v.core w id lanes)

end Sys2Proof.Machine
end

