-- ==== Sys2Proof/Machine/Barriers.lean ====
section
/-! DEFINITION. Machine/Barriers.lean: barrier objects in a block's pad (R44 to R46) and BARI, BARA, BARW, BART
(R217, R257). -/

namespace Sys2Proof.Machine

/-- A barrier object (R44). -/
structure Bar where
  xb : Nat
  exp : Nat
  arr : Nat
  ph : Bool
  deriving DecidableEq, Repr

def Bar.ofBytes (b : Bytes) : Bar :=
  let n := natOfBytes b
  ⟨fieldOf n 127 96, fieldOf n 95 80, fieldOf n 79 64, n.testBit 63⟩
def Bar.bytes (b : Bar) : Bytes :=
  bytesOfNat 16 (b.xb % 2 ^ 32 * 2 ^ 96 + b.exp * 2 ^ 80 + b.arr * 2 ^ 64 + bnat b.ph * 2 ^ 63)
/-- The flip test after an event (R46). -/
def Bar.flip (b : Bar) : Bar :=
  if b.arr = b.exp ∧ b.xb % 2 ^ 32 = 0 then { b with arr := 0, xb := 0, ph := !b.ph } else b

def State.barAt (s : State) (k : Block) (o : Nat) : Bar :=
  Bar.ofBytes (s.peek (padKey (k.die * 40 + k.core) (k.padOfs + o)) 16)
def State.putBar (s : State) (k : Block) (o : Nat) (b : Bar) : State :=
  s.poke (cellsAt (padKey (k.die * 40 + k.core) (k.padOfs + o)) b.bytes)
/-- An event has changed the object at o (R46): the flip test, and with a flip the slots that wait at the object go on and
the block's sleepers wake (R137). (DEDUCED: log 32) -/
def State.barEvent (s : State) (k : Block) (o : Nat) (b : Bar) : State :=
  let s1 := s.putBar k o b.flip
  if b.flip.ph = b.ph then s1 else k.waves.foldl (fun s w => s.modWave w fun v => (v.release o).wake) s1
def Block.isValid (k : Block) (o : Nat) : Bool := k.valid.contains o
/-- A 64-byte line of a block's pad is tagged (R45). -/
def Block.tagged (k : Block) (o : Nat) : Bool := k.valid.any fun p => p / 64 = o / 64

/-- A copy landing of n bytes names the object at o of block b (R46): the state, and whether the batch gets
barrier-line status. -/
def State.barLanding (s : State) (b o n : Nat) : Bool × State :=
  match mget s.blocks b with
  | none => (true, s)
  | some k =>
    if k.isValid o then
      let r := s.barAt k o
      (false, s.barEvent k o { r with xb := (r.xb + 2 ^ 32 - n % 2 ^ 32) % 2 ^ 32 })
    else (true, s)

/-- The elected lane's value of an operand (R217). (DEDUCED: log 32) -/
def Wave.elected (v : Wave) (x : SlotId) (o : MOpd) : Nat :=
  (laneAt (v.readM x o) ((lowest (v.slot x).mask).getD 0)).toNat
/-- What a barrier instruction does with its block's object: a trap with its address, a wait, or an effect. -/
def State.withBar (s : State) (w : Nat) (x : SlotId) (v : Wave) (base : BitVec 7) (ofs : BitVec 16)
    (f : Block → Nat → State) : State :=
  let a := v.sAddr base ofs
  match mget s.blocks v.id.block with
  | none => s.trapAt w x 0x07 1 a 0
  | some k =>
    if k.padLen < a.toNat + 16 then s.trapAt w x 0x07 1 a 0 else f k a.toNat

/-- BARI (R46, R217). (DEDUCED: log 32) -/
def execBari (e : MOpd) (base : BitVec 7) (ofs : BitVec 16) (s : State) : Host.Outcome State Fault Refusal :=
  let reads := fun (v : Wave) (x : SlotId) => sCode base :: v.mReads x e
  s.issue (fun _ _ x v => v.mGate x false true (v.sOk base && v.mOpdOk x e) (reads v x) [] .go) fun s w x v =>
    if (v.sAddr base ofs).toNat % 16 ≠ 0 then s.trapAt w x 0x04 0 (v.sAddr base ofs) 0
    else s.withBar w x v base ofs fun k o =>
      let n := v.elected x e
      let r := s.barAt k o
      if n = 0 ∨ 65535 < n then s.trapC w x 0x03
      else if k.isValid o then
        if r.arr ≠ 0 ∨ r.xb ≠ 0 then s.trapC w x 0x03
        else ((s.putBar k o { r with exp := n }).modWave w fun v => (v.consume (reads v x)).advance x)
      else
        ((s.putBar k o ⟨0, n, 0, false⟩).modBlock v.id.block fun k => { k with valid := o :: k.valid }).modWave w
          fun v => (v.consume (reads v x)).advance x

/-- BARA (R46, R217, R257). (DEDUCED: log 32) -/
def execBara (c b : MOpd) (base : BitVec 7) (ofs : BitVec 16) (s : State) : Host.Outcome State Fault Refusal :=
  let reads := fun (v : Wave) (x : SlotId) => sCode base :: (v.mReads x c ++ v.mReads x b)
  s.issue (fun _ _ x v => v.mGate x false true (v.sOk base && v.mOpdOk x c && v.mOpdOk x b) (reads v x) []
      (Gate.until (v.mem.nSt = 0) .bara)) fun s w x v =>
    s.withBar w x v base ofs fun k o =>
      let n := v.elected x c
      let r := s.barAt k o
      if 65535 < n ∨ !k.isValid o ∨ r.exp < r.arr + n then s.trapC w x 0x03
      else (s.barEvent k o { r with arr := r.arr + n, xb := (r.xb + v.elected x b) % 2 ^ 32 }).modWave w fun v =>
        ((v.consume (reads v x)).markDue x).advance x

/-- BARW (R46, R217): the slot waits until the phase differs from v; the next flip of the object ends the wait. -/
def execBarw (ph : MOpd) (base : BitVec 7) (ofs : BitVec 16) (s : State) : Host.Outcome State Fault Refusal :=
  let reads := fun (v : Wave) (x : SlotId) => sCode base :: v.mReads x ph
  s.issue (fun _ _ x v => v.mGate x false true (v.sOk base && v.mOpdOk x ph) (reads v x) [] .go) fun s w x v =>
    s.withBar w x v base ofs fun k o =>
      if !k.isValid o then s.trapC w x 0x03
      else if (s.barAt k o).ph = (v.elected x ph % 2 == 1) then
        s.modWave w fun v => ((v.consume (reads v x)).countIssue x).modSlot x fun p => { p.held .barw with bar := some o }
      else s.modWave w fun v => (v.consume (reads v x)).advance x

/-- BART (R46, R217): p[pd] := whether the phase differs from v, in the slot's lanes. -/
def execBart (pd : BitVec 5) (ph : MOpd) (base : BitVec 7) (ofs : BitVec 16) (s : State) :
    Host.Outcome State Fault Refusal :=
  let reads := fun (v : Wave) (x : SlotId) => sCode base :: v.mReads x ph
  s.issue (fun _ _ x v => v.mGate x false true (v.sOk base && v.mOpdOk x ph) (reads v x) [] .go) fun s w x v =>
    s.withBar w x v base ofs fun k o =>
      if !k.isValid o then s.trapC w x 0x03
      else
        let r := (s.barAt k o).ph != (v.elected x ph % 2 == 1)
        let act := v.active x false
        s.modWave w fun v => ((v.consume (reads v x)).setP pd.toNat
          (maskOf fun t => if mbit act t then r else mbit (v.preg pd.toNat) t)).advance x

end Sys2Proof.Machine
end

