-- ==== Sys2Proof/Machine/Crypto.lean ====
section
/-! DEFINITION. Machine/Crypto.lean: KMAC128 (R403; NIST SP 800-185) and SHA-384 (R360, R393; FIPS 180-4). -/

namespace Sys2Proof.Machine

/-- Lane x, y of a Keccak state of 25 words. -/
def kAt (s : List DWord) (x y : Nat) : DWord := s.getD (5 * (y % 5) + x % 5) 0
def kMap (f : Nat → Nat → DWord) : List DWord := (List.range 25).map fun i => f (i % 5) (i / 5)

def keccakRc : List DWord :=
  [0x0000000000000001, 0x0000000000008082, 0x800000000000808a, 0x8000000080008000,
    0x000000000000808b, 0x0000000080000001, 0x8000000080008081, 0x8000000000008009,
    0x000000000000008a, 0x0000000000000088, 0x0000000080008009, 0x000000008000000a] ++
  [0x000000008000808b, 0x800000000000008b, 0x8000000000008089, 0x8000000000008003,
    0x8000000000008002, 0x8000000000000080, 0x000000000000800a, 0x800000008000000a,
    0x8000000080008081, 0x8000000000008080, 0x0000000080000001, 0x8000000080008008]

/-- Rotation of lane (x, y). -/
def keccakRot : List Nat :=
  [0, 1, 62, 28, 27, 36, 44, 6, 55, 20, 3, 10, 43] ++ [25, 39, 41, 45, 15, 21, 8, 18, 2, 61, 56, 14]

def keccakRound (s : List DWord) (rc : DWord) : List DWord :=
  let c := (List.range 5).map fun x => kAt s x 0 ^^^ kAt s x 1 ^^^ kAt s x 2 ^^^ kAt s x 3 ^^^ kAt s x 4
  let d := (List.range 5).map fun x => c.getD ((x + 4) % 5) 0 ^^^ (c.getD ((x + 1) % 5) 0).rotateLeft 1
  let t := kMap fun x y => kAt s x y ^^^ d.getD x 0
  -- rho and pi: B[y, 2x + 3y] := rot(A[x, y])
  let b := kMap fun x y =>
    let x' := (x + 3 * y) % 5
    (kAt t x' x).rotateLeft (keccakRot.getD (5 * x + x') 0)
  let r := kMap fun x y => kAt b x y ^^^ (~~~(kAt b (x + 1) y) &&& kAt b (x + 2) y)
  match r with
  | [] => []
  | a :: l => (a ^^^ rc) :: l

def keccakF (s : List DWord) : List DWord := keccakRc.foldl keccakRound s

/-- Bytes in groups of n. -/
def chunks (n : Nat) : Nat → List Byte → List (List Byte)
  | 0, _ => []
  | k + 1, l => if l.isEmpty then [] else l.take n :: chunks n k (l.drop n)

/-- XOR one block of 168 bytes into the state, then permute. -/
def absorb (s : List DWord) (b : List Byte) : List DWord :=
  keccakF ((List.range 25).map fun i =>
    s.getD i 0 ^^^ BitVec.ofNat 64 (natOfBytes ((b.drop (8 * i)).take 8)))

/-- The 128-bit output of the sponge of rate 168 over a message padded with the cSHAKE suffix. -/
def sponge128 (msg : List Byte) : BitVec 128 :=
  let n := msg.length % 168
  let pad : List Byte := if n = 167 then [0x84] else 0x04 :: (List.replicate (166 - n) 0 ++ [0x80])
  let full := msg ++ pad
  let s := (chunks 168 (full.length / 168) full).foldl absorb (List.replicate 25 0)
  BitVec.ofNat 128 ((s.getD 0 0).toNat + (s.getD 1 0).toNat * 2 ^ 64)

/-- left_encode, right_encode and encode_string of SP 800-185, for values below 2^24. -/
def encBytes (n : Nat) : List Byte :=
  if n < 256 then [BitVec.ofNat 8 n]
  else if n < 65536 then [BitVec.ofNat 8 (n / 256), BitVec.ofNat 8 n]
  else [BitVec.ofNat 8 (n / 65536), BitVec.ofNat 8 (n / 256), BitVec.ofNat 8 n]
def leftEnc (n : Nat) : List Byte := BitVec.ofNat 8 (encBytes n).length :: encBytes n
def rightEnc (n : Nat) : List Byte := encBytes n ++ [BitVec.ofNat 8 (encBytes n).length]
def encString (b : List Byte) : List Byte := leftEnc (8 * b.length) ++ b
def bytepad168 (b : List Byte) : List Byte :=
  let l := leftEnc 168 ++ b
  l ++ List.replicate ((168 - l.length % 168) % 168) 0

/-- KMAC128 with an empty customization string and 128 bits of output, read as a little-endian number (R403).
(DESIGN CHOICE: log 73) -/
def kmac128 (key : BitVec 256) (msg : List Byte) : BitVec 128 :=
  sponge128 (bytepad168 (encString [0x4B, 0x4D, 0x41, 0x43] ++ encString [])
    ++ bytepad168 (encString (bytesOfNat 32 key.toNat)) ++ msg ++ rightEnc 128)

/-- The whole part of the k-th root of n, found from bit b - 1 down, above the part r already found. -/
def rootBelow (k n : Nat) : Nat → Nat → Nat
  | 0, r => r
  | b + 1, r => rootBelow k n b (if (r + 2 ^ b) ^ k ≤ n then r + 2 ^ b else r)

/-- The first 64 bits of the fractional part of the k-th root of p, for a root below 32. -/
def rootFraction (k p : Nat) : DWord := BitVec.ofNat 64 (rootBelow k (p * 2 ^ (64 * k)) 69 0)

/-- The 80 primes below 410: each number that none of 2 … n - 1 divides. -/
def first80Primes : List Nat :=
  (List.range 410).filter fun n => 2 ≤ n && (List.range n).all fun q => q < 2 || n % q != 0

/-- FIPS 180-4: the round constants are the fractions of the cube roots of the first 80 primes, and SHA-384 starts
from those of the square roots of the ninth to sixteenth primes. -/
def shaK : List DWord := first80Primes.map (rootFraction 3)
def shaInit : List DWord := ((first80Primes.drop 8).take 8).map (rootFraction 2)

/-- The 80 schedule words, newest first. -/
def shaSchedule : Nat → List DWord → List DWord
  | 0, w => w
  | n + 1, w =>
    let a := w.getD 1 0
    let b := w.getD 14 0
    let s1 := a.rotateRight 19 ^^^ a.rotateRight 61 ^^^ (a >>> 6)
    let s0 := b.rotateRight 1 ^^^ b.rotateRight 8 ^^^ (b >>> 7)
    shaSchedule n ((s1 + w.getD 6 0 + s0 + w.getD 15 0) :: w)

def shaRound (h : List DWord) (kw : DWord × DWord) : List DWord :=
  let g (i : Nat) := h.getD i 0
  let e := g 4
  let a := g 0
  let t1 := g 7 + (e.rotateRight 14 ^^^ e.rotateRight 18 ^^^ e.rotateRight 41)
    + ((e &&& g 5) ^^^ (~~~e &&& g 6)) + kw.1 + kw.2
  let t2 := (a.rotateRight 28 ^^^ a.rotateRight 34 ^^^ a.rotateRight 39)
    + ((a &&& g 1) ^^^ (a &&& g 2) ^^^ (g 1 &&& g 2))
  [t1 + t2, a, g 1, g 2, g 3 + t1, e, g 5, g 6]

/-- A big-endian number of bytes. -/
def natOfBytesBE (b : List Byte) : Nat := b.foldl (fun a x => a * 256 + x.toNat) 0
def bytesOfNatBE (len n : Nat) : List Byte := (bytesOfNat len n).reverse

def shaBlock (h : List DWord) (b : List Byte) : List DWord :=
  let w16 := (List.range 16).map fun i => BitVec.ofNat 64 (natOfBytesBE ((b.drop (8 * i)).take 8))
  let w := (shaSchedule 64 w16.reverse).reverse
  let r := (shaK.zip w).foldl shaRound h
  (List.range 8).map fun i => h.getD i 0 + r.getD i 0

/-- SHA-384; the digest's first byte is the most significant byte of the number. (DESIGN CHOICE: log 73) -/
def sha384 (msg : List Byte) : BitVec 384 :=
  let n := msg.length
  let z := (239 - n % 128) % 128
  let full := msg ++ [0x80] ++ List.replicate z 0 ++ bytesOfNatBE 16 (8 * n)
  let h := (chunks 128 (full.length / 128) full).foldl shaBlock shaInit
  BitVec.ofNat 384 ((h.take 6).foldl (fun a x => a * 2 ^ 64 + x.toNat) 0)

end Sys2Proof.Machine
end

