-- ==== Sys2Proof/Machine/Copies.lean ====
section
/-! DEFINITION. Machine/Copies.lean: copy jobs, batches and their instructions CPY, CPYB, CPYW and QSTAT (R207 to
R216), and the events of the copy engine (R208 to R211). -/

namespace Sys2Proof.Machine

/-! ### Accounts (R212 to R216) -/

/-- Jobs of a wave that have not completed. -/
def State.jobsOf (s : State) (w : Nat) (v : Wave) : Nat :=
  ((s.core v.core).jobs.filter fun j => j.wave = w && j.block = v.id.block).length
/-- A job has completed: it counts in its wave's pending jobs or in its batch (R212). (DEDUCED: log 31) -/
def WCopy.jobDone (c : WCopy) (id cause : Nat) (addr : DWord) (line : Bool) : WCopy :=
  if c.pending.contains id then { c with done := c.done ++ [(id, cause, addr, line)] }
  else { c with batches := c.batches.map fun b =>
    if b.jobs.contains id then
      { b with left := b.left - 1, cause := if b.cause = 0 then cause else b.cause,
               addr := if b.cause = 0 then addr else b.addr, barLine := b.barLine || line }
    else b }
/-- Close the pending jobs into the next batch (R213). -/
def WCopy.close (c : WCopy) : WCopy :=
  let n := c.counter.toNat + 1
  let first := c.done.find? fun d => d.2.1 ≠ 0
  let b : Batch := { n := n, jobs := c.pending, left := c.pending.length - c.done.length,
                     cause := (first.map (·.2.1)).getD 0, addr := (first.map (·.2.2.1)).getD 0,
                     barLine := c.done.any (·.2.2.2),
                     ranges := (c.ranges.filter fun r => c.pending.contains r.1).map (·.2) }
  { c with pending := [], done := [], ranges := [], counter := BitVec.ofNat 32 n, batches := c.batches ++ [b] }
/-- Every batch numbered 1 to n has completed. -/
def WCopy.doneTo (c : WCopy) (n : Nat) : Bool := c.batches.all fun b => n < b.n || b.left = 0
/-- The largest n such that batches 1 to n have completed. -/
def WCopy.doneCount (c : WCopy) : Nat :=
  match c.batches.find? fun b => b.left ≠ 0 with
  | some b => b.n - 1
  | none => c.counter.toNat
/-- The status of batch n (R216): state, cause, address. -/
def WCopy.status (c : WCopy) (n : Nat) : Nat × Nat × DWord :=
  if n + 16 ≤ c.counter.toNat then (4, 0, 0)
  else match c.batches.find? fun b => b.n = n with
    | none => (1, 0, 0)
    | some b =>
      if b.left ≠ 0 then (0, b.cause, b.addr)
      else if b.cause ≠ 0 then (3, b.cause, b.addr)
      else (if b.barLine then 2 else 1, 0, 0)

/-! ### CPY (R207) -/

/-- The four registers of a copy job. -/
structure CpyArgs where
  src : DWord
  dst : DWord
  w2 : DWord
  w3 : DWord
  deriving DecidableEq, Repr
def CpyArgs.f (a : CpyArgs) (hi lo : Nat) : Nat := fieldOf a.w2.toNat hi lo
def CpyArgs.ssp (a : CpyArgs) : Nat := a.f 35 32
def CpyArgs.dsp (a : CpyArgs) : Nat := a.f 39 36
def CpyArgs.len (a : CpyArgs) : Nat := a.f 31 0
def CpyArgs.bv (a : CpyArgs) : Bool := a.w3.toNat.testBit 31

/-- The block of a cluster with a rank. -/
def State.blockOfRank (s : State) (k : Block) (rank : Nat) : Option Nat :=
  (s.blocks.find? fun e => e.2.ctx = k.ctx && e.2.cluster = k.cluster && e.2.rank = rank).map (·.1)
/-- A core of the die that holds a block of the cluster. -/
def State.coreOfCluster (s : State) (k : Block) (c : Nat) : Option Nat :=
  (s.blocks.find? fun e => e.2.ctx = k.ctx && e.2.cluster = k.cluster && e.2.core = c).map fun e => e.2.die * 40 + c
/-- What a space code names: a block's key, a core's number, or nothing for virtual memory. -/
def State.spaceOf (s : State) (b : Nat) (k : Block) (sp rank core : Nat) : Option Nat :=
  match sp with
  | 0 => some 0
  | 1 => some b
  | 2 => s.blockOfRank k rank
  | 3 => s.coreOfCluster k core
  | _ => none
/-- A pad or vault range at issue (R207). -/
def State.rangeIn (s : State) (ctx sp id : Nat) (a : DWord) (n : Nat) : Bool :=
  match sp with
  | 0 => true
  | 3 => a.toNat + n ≤ 0x300000 && s.vaultHeld ctx id a.toNat n
  | _ => match mget s.blocks id with
    | some k => a.toNat + n ≤ k.padLen
    | none => false
/-- Subcause of a range that is refused at issue (R295): 4 for a vault range below 3 MiB that is not held. -/
def rangeSub (sp : Nat) (a : DWord) (n : Nat) : Nat := if sp = 3 ∧ a.toNat + n ≤ 0x300000 then 4 else 1
/-- The fields of a job are legal. (DEDUCED: log 31) -/
def CpyArgs.legal (a : CpyArgs) : Bool :=
  a.ssp < 4 && a.dsp < 4 && 1 ≤ a.len && a.len ≤ 16777216 && a.f 63 56 = 0 && fieldOf a.w3.toNat 63 32 = 0
    && fieldOf a.w3.toNat 30 20 = 0
    && !(a.dsp = 2 && !a.bv) && !(a.bv && a.dsp ≠ 1 && a.dsp ≠ 2)

/-- CPY (R207, R212). -/
def execCpy (base : BitVec 7) (pol : Fin 5) (s : State) : Host.Outcome State Fault Refusal :=
  let rs := (List.range 4).map (base.toNat + ·)
  s.issue (fun _ _ x v => v.mGate x false true (base.toNat % 4 = 0 && rs.all v.sHeld) (rs.map regS) [] .go)
    fun s w x v =>
      let r := fun i => v.sreg (base.toNat + i)
      let a : CpyArgs := ⟨r 0, r 1, r 2, r 3⟩
      match mget s.blocks v.id.block with
      | none => s.trapC w x 0x03
      | some k =>
        match s.spaceOf v.id.block k a.ssp (a.f 41 40) (a.f 49 44), s.spaceOf v.id.block k a.dsp (a.f 43 42) (a.f 55 50) with
        | some si, some di =>
          if !a.legal then s.trapC w x 0x03
          else if !s.rangeIn v.id.ctx a.ssp si a.src a.len then s.trapAt w x 0x07 (rangeSub a.ssp a.src a.len) a.src 0
          else if !s.rangeIn v.id.ctx a.dsp di a.dst a.len then s.trapAt w x 0x07 (rangeSub a.dsp a.dst a.len) a.dst 0
          else if 64 ≤ s.jobsOf w v then s.hold w x .copyLimit
          else
            let id := (s.core v.core).nextJob
            let j : CopyJob := { id := id, wave := w, ctx := v.id.ctx, task := v.id.task, block := v.id.block,
                                 src := a.src, dst := a.dst, ssp := a.ssp, dsp := a.dsp, scoreOrRank := si,
                                 dcoreOrRank := di, len := a.len, bv := a.bv, bar := fieldOf a.w3.toNat 19 0,
                                 pol := pol, running := none, left := [(0, a.len)], cause := 0, addr := 0,
                                 barLine := false, missed := none }
            let s1 := s.modCore v.core fun c => { c with jobs := c.jobs ++ [j], nextJob := id + 1 }
            s1.modWave w fun v =>
              let c := { v.copy with pending := v.copy.pending ++ [id],
                                     ranges := if a.dsp = 0 then v.copy.ranges ++ [(id, a.dst, a.len)] else v.copy.ranges }
              ((({ v with copy := c } : Wave).consume (rs.map regS)).markDue x).advance x
        | _, _ => s.trapC w x 0x03

/-! ### CPYB, CPYW, QSTAT (R213 to R216) -/

/-- CPYB (R213). -/
def execCpyb (base : BitVec 7) (s : State) : Host.Outcome State Fault Refusal :=
  s.issue (fun _ _ x v => v.mGate x false true (v.sOk base) [] [sCode base]
      (Gate.need (v.copy.counter ≠ 0xFFFFFFFF) 0x03)) fun s w x v =>
    let u := { v with copy := v.copy.close }
    s.setWave w ((u.setS base.toNat (u.copy.counter.setWidth 64)).advance x)

/-- Lines of the core's L1 in a virtual range, as its translation stands. -/
def State.vaLines (s : State) (who : Who) (va : DWord) (n : Nat) : Nat → List Nat
  | 0 => []
  | fuel + 1 =>
    if n = 0 then []
    else
      let k := min n (1024 - va.toNat % 1024)
      (match (s.translate who .rd va).1 with
        | .ok key _ _ _ => linesOf (keysAt key k)
        | _ => []) ++ s.vaLines who (va + BitVec.ofNat 64 k) (n - k) fuel
/-- The L1 of a core without the lines of some virtual ranges. -/
def State.dropRanges (s : State) (v : Wave) (x : SlotId) (rs : List (DWord × Nat)) : State :=
  let gone := rs.flatMap fun r => s.vaLines (v.who x) r.1 r.2 (r.2 / 1024 + 2)
  s.modCore v.core fun c => { c with l1 := dropLines c.l1 fun l => gone.contains l.line }
/-- CPYW (R214). -/
def execCpyw (base : BitVec 7) (s : State) : Host.Outcome State Fault Refusal :=
  s.issue (fun _ _ x v => v.mGate x false true (v.sOk base) [sCode base] [] .go) fun s w x v =>
    let n := (v.sAt base).toNat % 2 ^ 32
    if v.copy.counter.toNat < n then s.trapC w x 0x03
    else if !v.copy.doneTo n then s.hold w x .cpyw
    else
      let rs := (v.copy.batches.filter fun b => b.n ≤ n).flatMap (·.ranges)
      (s.dropRanges v x rs).modWave w fun v => (v.consume [sCode base]).advance x

/-- Words of QSTAT.ring (R215). -/
def State.ringWord (s : State) (v : Wave) : Nat :=
  match mget s.blocks v.id.block with
  | none => bnat v.regs.eos
  | some k =>
    let qp := if v.id.stage = 0 then 0 else min 255 (k.ring v.id.stage).length
    let qn := if v.id.stage + 1 < v.id.kern.stages then
        min 255 (ringCap v.id.kern - (k.ring (v.id.stage + 1)).length) else 0
    bnat v.regs.eos + qp * 256 + qn * 65536
/-- Word of QSTAT.feed. -/
def Wave.feedWord (v : Wave) : Nat :=
  v.mat.qa.length % 8 + v.mat.qz.length % 16 * 256 + v.feed.qg.length % 16 * 65536 + v.feed.ql.length % 16 * 16777216
def qstatReads : QStat → List Nat
  | .batch r => [sCode r]
  | .ring => []
  | .done => []
  | .feed => []
def Wave.qstatOk (v : Wave) : QStat → Bool
  | .batch r => v.sOk r
  | .ring => true
  | .done => true
  | .feed => true
def qstatRegs : QStat → Nat
  | .batch _ => 3
  | .ring => 1
  | .done => 1
  | .feed => 1
/-- The words QSTAT writes; none where the batch number is out of range. -/
def State.qstatWords (s : State) (v : Wave) : QStat → Option (List Nat)
  | .ring => some [s.ringWord v]
  | .done => some [v.copy.doneCount]
  | .feed => some [v.feedWord]
  | .batch r =>
    let n := (v.sAt r).toNat % 2 ^ 32
    if n = 0 ∨ v.copy.counter.toNat < n then none
    else
      let st := v.copy.status n
      some [st.1 + st.2.1 * 256, st.2.2.toNat % 2 ^ 32, st.2.2.toNat / 2 ^ 32]
/-- Write words to a group of main registers in the slot's lanes. -/
def Wave.putWords (v : Wave) (x : SlotId) (d : Nat) (ws : List Nat) : Wave :=
  let act := v.active x false
  ((v.groupRegs x d ws.length).zip ws).foldl (fun v e => v.putV e.1 act fun _ => BitVec.ofNat 32 e.2) v
/-- QSTAT (R215, R216). -/
def execQstat (k : QStat) (d : Fin 160) (s : State) : Host.Outcome State Fault Refusal :=
  s.issue (fun _ _ x v => v.mGate x false true (v.qstatOk k && v.groupOk x d.val (qstatRegs k)) (qstatReads k)
      ((v.groupRegs x d.val (qstatRegs k)).map regV) .go) fun s w x v =>
    match s.qstatWords v k with
    | none => s.trapC w x 0x03
    | some ws => s.setWave w (((v.consume (qstatReads k)).putWords x d.val ws).advance x)

/-! ### The copy engine (R208 to R211) -/

/-- Two byte ranges meet. -/
def meetRange (a n b m : Nat) : Bool := decide (a < b + m) && decide (b < a + n)
/-- A space as a name: spaces 1 and 2 both name the pad of a block. -/
def spaceName (sp id : Nat) : Nat × Nat := if sp = 0 then (0, 0) else if sp = 3 then (3, id) else (1, id)
def CopyJob.srcName (j : CopyJob) : Nat × Nat := spaceName j.ssp j.scoreOrRank
def CopyJob.dstName (j : CopyJob) : Nat × Nat := spaceName j.dsp j.dcoreOrRank
/-- The overlap of R209. -/
def CopyJob.overlaps (a b : CopyJob) : Bool :=
  (a.dstName = b.dstName && meetRange a.dst.toNat a.len b.dst.toNat b.len)
    || (a.dstName = b.srcName && meetRange a.dst.toNat a.len b.src.toNat b.len)
    || (a.srcName = b.dstName && meetRange a.src.toNat a.len b.dst.toNat b.len)
/-- The job's own ranges overlap: its source is read first (R208). -/
def CopyJob.selfMeets (j : CopyJob) : Bool := j.srcName = j.dstName && meetRange j.src.toNat j.len j.dst.toNat j.len
/-- (DEDUCED: log 31) -/
def CopyJob.who (j : CopyJob) (core : Nat) : Who := ⟨j.ctx, core, false, 2⟩

/-- Bytes of a space: those before the first failure, and that failure with its address. -/
def State.spaceRead (s : State) (j : CopyJob) (core ofs n : Nat) : (Bytes × Option (Chk × DWord)) × State :=
  let a := j.src + BitVec.ofNat 64 ofs
  let there := fun (k : Key) =>
    match s.firstBad true false (keysAt k n) 0 with
    | some (i, c) => ((s.peek k i, some (.fault c 1, a + BitVec.ofNat 64 i)), s)
    | none => ((s.peek k n, none), s)
  match j.ssp with
  | 0 =>
    let r := s.rangeOf (j.who core) .rd a n
    (((pieceKeys r.1.1).map (memByte s.mem), r.1.2), r.2)
  | 3 => there (vaultKey j.scoreOrRank a.toNat)
  | _ => match mget s.blocks j.scoreOrRank with
    | some k => there (padKey (k.die * 40 + k.core) (k.padOfs + a.toNat))
    | none => (([], some (.fault 0x07 1, a)), s)

def Core.modJob (c : Core) (id : Nat) (f : CopyJob → CopyJob) : Core :=
  { c with jobs := c.jobs.map fun j => if j.id = id then f j else j }
/-- Byte offset of an address in a run that starts at another. -/
def ofsIn (base a : DWord) : Nat := (a - base).toNat
/-- Where a failure cuts a run: before the failing page of virtual memory (R211), or at the failing byte. -/
def failOfs (sp : Nat) (base a : DWord) : Nat := if sp = 0 then ofsIn base a - a.toNat % 4096 else ofsIn base a
/-- What is left of the ranges below an offset. -/
def cutRanges (l : List (Nat × Nat)) (at_ : Nat) : List (Nat × Nat) :=
  (l.map fun r => (r.1, min r.2 (at_ - r.1))).filter fun r => r.2 ≠ 0
/-- A job meets a failure: it writes what lies before a byte offset and no more (R211). -/
def CopyJob.fail (j : CopyJob) (cause ofs : Nat) (addr : DWord) : CopyJob :=
  { j with left := cutRanges j.left ofs, missed := none,
           cause := if j.cause = 0 ∨ addr.toNat < j.addr.toNat then cause else j.cause,
           addr := if j.cause = 0 ∨ addr.toNat < j.addr.toNat then addr else j.addr }
/-- A job meets a page that misses at stage 2: a request is made and the job waits; two mapped replies that leave the
page missing make it a failure (R211, R312). -/
def State.jobMiss (s : State) (core : Nat) (j : CopyJob) (need : Need) (page origin ofs : Nat) (addr : DWord) : State :=
  let k := askedFor j.missed page
  if 2 ≤ k then s.modCore core fun c => c.modJob j.id fun j => j.fail 0x06 ofs addr
  else (s.request (core / 40) j.ctx page need origin).modCore core fun c => c.modJob j.id fun j =>
    { j with missed := some (page, k) }

/-- The wave that issued the job lets it start (R195, R210): no acquire is under way, and its pad stores have been
made. (DEDUCED: log 31) -/
def State.jobReady (s : State) (j : CopyJob) : Bool :=
  match s.wave? j.wave with
  | none => true
  | some v => v.id.block ≠ j.block || (v.noAcquire && v.padDrained)
/-- COPY_JOB_START: a job starts once no earlier job of its context on the engine overlaps it, and reads its source as
far as it can. (DEDUCED: log 31) -/
def execCopyJobStart (core id : Nat) (s : State) : Host.Outcome State Fault Refusal :=
  match (s.core core).jobs.find? fun j => j.id = id with
  | none => .next s
  | some j =>
    let earlier := (s.core core).jobs.filter fun e => e.id < id && e.ctx = j.ctx
    if j.running.isSome ∨ earlier.any (·.overlaps j) ∨ !s.jobReady j then .next s
    else
      let r := s.spaceRead j core 0 j.len
      let start := fun (s : State) => s.modCore core fun c => c.modJob id fun j => { j with running := some r.1.1 }
      match r.1.2 with
      | none => .next (start r.2)
      | some (.fault cause _, a) =>
        .next ((start r.2).modCore core fun c => c.modJob id fun j => j.fail cause (failOfs j.ssp j.src a) a)
      | some (.miss p o, a) =>
        if j.selfMeets then .next (r.2.jobMiss core j .rd p o (failOfs j.ssp j.src a) a) else .next (start r.2)
      | some (.ok _, _) => .next r.2

/-- A range lies within one still to land. -/
def holdsRange (l : List (Nat × Nat)) (ofs n : Nat) : Bool := l.any fun r => r.1 ≤ ofs && ofs + n ≤ r.1 + r.2
/-- The ranges without one of their parts. -/
def takeRange (l : List (Nat × Nat)) (ofs n : Nat) : List (Nat × Nat) :=
  l.flatMap fun r =>
    if r.1 ≤ ofs ∧ ofs + n ≤ r.1 + r.2 then
      [(r.1, ofs - r.1), (ofs + n, r.1 + r.2 - (ofs + n))].filter fun q => q.2 ≠ 0
    else [r]
/-- A landing is a set of whole aligned 4-byte units, but for part-units at the ends of the job's range (R210). -/
def unitsOk (j : CopyJob) (ofs n : Nat) : Bool :=
  n ≠ 0 && (ofs = 0 || (j.dst.toNat + ofs) % 4 = 0) && (ofs + n = j.len || (j.dst.toNat + ofs + n) % 4 = 0)
    && holdsRange j.left ofs n

/-- Bytes at keys of a pad, none in a tagged line (R45). -/
def padCells (k : Block) (o : Nat) (bs : Bytes) : List Host.Cell :=
  (cellsAt (padKey (k.die * 40 + k.core) (k.padOfs + o)) bs).filter fun c =>
    !k.tagged (c.1 - padKey (k.die * 40 + k.core) k.padOfs)
/-- The first failure among runs of a space's virtual bytes, at offsets from its base. -/
def State.runsChk (s : State) (who : Who) (need : Need) (base : DWord) : List (Nat × Nat) → Option (Chk × DWord) × State
  | [] => (none, s)
  | r :: rest =>
    let q := s.rangeCopy who need (base + BitVec.ofNat 64 r.1) r.2
    match q.1.2 with
    | some f => (some f, q.2)
    | none => q.2.runsChk who need base rest
/-- What a job still has to move up to the end of the page that holds an offset: no byte is written behind a page that
fails (R211). (DEDUCED: log 31) -/
def CopyJob.upTo (j : CopyJob) (base : DWord) (ofs : Nat) : List (Nat × Nat) :=
  cutRanges j.left (ofs + (4096 - (base.toNat + ofs) % 4096) % 4096)
/-- A failure of a job's source or destination, before it writes. -/
def State.jobFails (s : State) (core : Nat) (j : CopyJob) (need : Need) (sp : Nat) (base : DWord) (f : Chk × DWord) : State :=
  match f.1 with
  | .fault cause _ => s.modCore core fun c => c.modJob j.id fun j => j.fail cause (failOfs sp base f.2) f.2
  | .miss p o => s.jobMiss core j need p o (failOfs sp base f.2) f.2
  | .ok _ => s
/-- The landing proper: bytes are written, then the barrier object they name is told (R46, R210). -/
def State.land (s : State) (core : Nat) (j : CopyJob) (ofs : Nat) (bs : Bytes) : State :=
  let a := j.dst + BitVec.ofNat 64 ofs
  let took := fun (s : State) (line : Bool) => s.modCore core fun c => c.modJob j.id fun j =>
    { j with left := takeRange j.left ofs bs.length, barLine := j.barLine || line }
  match j.dsp with
  | 0 =>
    let q := s.runsChk (j.who core) .wr j.dst (j.upTo j.dst (ofs + bs.length))
    match q.1 with
    | some f => q.2.jobFails core j .wr 0 j.dst f
    | none =>
      let r := q.2.rangeCopy (j.who core) .wr a bs.length
      match r.1.2 with
      -- a line whose old contents fail is written whole
      | some _ => q.2
      | none => took (r.2.perform (zipCells (pieceKeys r.1.1) bs) (pieceLines r.1.1)) false
  | 3 => took (s.perform (cellsAt (vaultKey j.dcoreOrRank a.toNat) bs) []) false
  | _ =>
    match mget s.blocks j.dcoreOrRank with
    | none => took s true
    | some k =>
      let cells := padCells k a.toNat bs
      let s1 := s.perform cells []
      if j.bv then
        let r := s1.barLanding j.dcoreOrRank j.bar bs.length
        took r.2 (r.1 || cells.length ≠ bs.length)
      else took s1 (cells.length ≠ bs.length)
/-- COPY_LANDING: len bytes at an offset land. They are the bytes the job read when it started, or, where the job
does not read over its own destination, the source as it stands now (late). (DEDUCED: log 31) -/
def execCopyLanding (core id ofs len : Nat) (late : Bool) (s : State) : Host.Outcome State Fault Refusal :=
  match (s.core core).jobs.find? fun j => j.id = id with
  | none => .next s
  | some j =>
    match j.running with
    | none => .next s
    | some src =>
      if !unitsOk j ofs len then .next s
      else if (!late ∨ j.selfMeets) ∧ ofs + len ≤ src.length then .next (s.land core j ofs ((src.drop ofs).take len))
      else
        let q := if j.ssp = 0 then s.runsChk (j.who core) .rd j.src (j.upTo j.src (ofs + len)) else (none, s)
        match q.1 with
        | some f => .next (q.2.jobFails core j .rd 0 j.src f)
        | none =>
          let r := q.2.spaceRead j core ofs len
          match r.1.2 with
          | none => .next (r.2.land core j ofs r.1.1)
          | some f => .next (r.2.jobFails core j .rd j.ssp j.src f)

/-- Change the wave of a job, resident or in an image. -/
def State.modOwner (s : State) (w block : Nat) (f : Wave → Wave) : State :=
  match s.wave? w with
  | some v =>
    if v.id.block = block then s.setWave w (f v)
    else { s with sched := { s.sched with images := meach s.sched.images fun i =>
      { i with waves := i.waves.map fun e => if e.1 = w ∧ e.2.id.block = block then (e.1, f e.2) else e } } }
  | none => { s with sched := { s.sched with images := meach s.sched.images fun i =>
      { i with waves := i.waves.map fun e => if e.1 = w ∧ e.2.id.block = block then (e.1, f e.2) else e } } }
/-- COPY_JOB_COMPLETE: a job of which nothing is left to land leaves the engine, and its batch learns its outcome. -/
def execCopyJobComplete (core id : Nat) (s : State) : Host.Outcome State Fault Refusal :=
  match (s.core core).jobs.find? fun j => j.id = id with
  | none => .next s
  | some j =>
    if j.running.isNone ∨ j.left ≠ [] then .next s
    else
      let s1 := s.modCore core fun c => { c with jobs := c.jobs.filter fun e => e.id ≠ id }
      .next (s1.modOwner j.wave j.block fun v => { v with copy := v.copy.jobDone id j.cause j.addr j.barLine })

end Sys2Proof.Machine
end

