-- ==== Sys2Proof/Machine/Matrix.lean ====
section
/-! DEFINITION. Machine/Matrix.lean: matrix commands and the sequencer (R96, R218 to R226). -/

namespace Sys2Proof.Machine

/-! ### Elements, scales and the accumulation (R84 to R86, R96, R221, R222) -/

def fmtOf (n : Nat) : Option Fmt :=
  [Fmt.fp32, .fp16, .bf16, .e4m3, .e5m2, .se8, .se5, .se3, .i8, .u8, .i16, .i32, .u32][n]?
/-- Magnitude bits of an SE format, 0 for the others. -/
def fmtSe : Fmt → Nat
  | .se8 => 7 | .se5 => 4 | .se3 => 2
  | .fp32 => 0 | .fp16 => 0 | .bf16 => 0 | .e4m3 => 0 | .e5m2 => 0 | .i8 => 0 | .u8 => 0 | .i16 => 0 | .i32 => 0
  | .u32 => 0
/-- Formats of the first row of R221's pairing. -/
def fmtNarrow (f : Fmt) : Bool := fmtSe f ≠ 0 || f = .e4m3 || f = .e5m2 || f = .i8
def fmtHalf (f : Fmt) : Bool := f = .fp16 || f = .bf16
/-- The value of an element of a format that is not SE. -/
def elemNum (f : Fmt) (n : Nat) : Num :=
  match f with
  | .fp16 => f16.read (n % 65536)
  | .bf16 => fb16.read (n % 65536)
  | .e4m3 => fe4m3.read (n % 256)
  | .e5m2 => fe5m2.read (n % 256)
  | _ => let i := sextN 8 n; .fin (i < 0) i.natAbs 1
/-- The value of an element of A in its lane word (R222). -/
def laneNum (f : Fmt) (n : Nat) : Num := if fmtSe f ≠ 0 then seLane (fmtSe f) n else elemNum f n
/-- Element i of a packed SE block (R85). -/
def packedNum (m : Nat) (b : Bytes) (i : Nat) : Num :=
  let n := natOfBytes b
  let e := n / 2 ^ (32 + i * (m + 1)) % 2 ^ (m + 1)
  seNum m (n % 256) (n / 2 ^ (8 + i / 2) % 2) (e / 2 ^ m % 2 == 1) (e % 2 ^ m)
/-- Bytes of a column of a step of B. -/
def colBytes (f : Fmt) : Nat :=
  match f with
  | .se3 => 22 | .se5 => 34 | .se8 => 52
  | .fp16 => 96 | .bf16 => 96
  | .fp32 => 48 | .e4m3 => 48 | .e5m2 => 48 | .i8 => 48 | .u8 => 48 | .i16 => 48 | .i32 => 48 | .u32 => 48
/-- Element i of a column of a step of B. -/
def colNum (f : Fmt) (b : Bytes) (i : Nat) : Num :=
  if fmtSe f ≠ 0 then packedNum (fmtSe f) b i
  else if fmtHalf f then elemNum f (natOfBytes ((b.drop (2 * i)).take 2))
  else elemNum f (b.getD i 0).toNat
/-- x · 2^(g − 127); a scale of 0xFF makes it a NaN (R221). -/
def scaleNum (x : Num) (g : Nat) : Num :=
  if g = 255 then .nan false
  else match x with
    | .fin s n d => let p := scaled n ((g : Int) - 127); .fin s p.1 (d * p.2)
    | y => y

/-- One step of an accumulator element (R96). -/
def macStep (acc : Word) (ps : List (Num × Num)) : Res Word :=
  let prods := ps.map fun p => p.1.mul p.2
  let bad := prods.any (fun p => p.val.isNan)
    || (prods.any (fun p => p.val.isInf && p.val.neg?) && prods.any (fun p => p.val.isInf && !p.val.neg?))
  if bad then ⟨0x7FC00000, flNV⟩
  else
    let c := f32.read acc.toNat
    if c.isNan then ⟨0x7FC00000, flIf c.isSig flNV⟩
    else
      let p := sumNums (prods.map (·.val)) .rne
      let y := sumNums [c, p.val] .rne
      let r := roundNum f32 .rne y.val
      ⟨BitVec.ofNat 32 r.val, y.fl ||| r.fl⟩

/-- Where a command's A and B come from: A's row r, K index t, and B's column j, K index t, both scaled. -/
structure MatIn where
  a : Nat → Nat → Num
  b : Nat → Nat → Num
/-- One element over k steps. -/
def macElem (m : MatIn) (r c : Nat) : Nat → Nat → Res Word → Res Word
  | 0, _, acc => acc
  | n + 1, st, acc =>
    let q := macStep acc.val ((List.range 48).map fun t => (m.a r (48 * st + t), m.b c (48 * st + t)))
    macElem m r c n (st + 1) ⟨q.val, acc.fl ||| q.fl⟩
/-- The slot after a .mac. -/
def macAll (m : MatIn) (k : Nat) (slot : List Word) : Res (List Word) :=
  let rs := (List.range 1024).map fun i => macElem m (i / 32) (i % 32) k 0 ⟨slot.getD i 0, 0⟩
  ⟨rs.map (·.val), rs.foldl (fun f r => f ||| r.fl) 0⟩

/-- Number of scale blocks along K. -/
def nBlocks (k l : Nat) : Nat := (48 * k + l - 1) / l
def bstoreKey (core ofs : Nat) : Key := vaultKey core (0x300000 + ofs)

/-! ### Commands (R218 to R222) -/

/-- Unretired commands of a wave. -/
def State.cmdsOf (s : State) (w : Nat) (v : Wave) : List MatCmd := (s.core v.core).cmds.filter fun c => c.wave = w
def State.cmdNamed (s : State) (w : Nat) (v : Wave) (id : BitVec 8) : List MatCmd :=
  (s.cmdsOf w v).filter fun c => c.id = id
/-- What every command instruction checks and waits for at issue (R218). -/
def State.matGate (s : State) (w : Nat) (v : Wave) (x : SlotId) (m : MMod) (operands : Bool) (reads : List Nat)
    (rest : Gate) : Gate :=
  (v.mGate x false v.id.kern.matrix operands reads [] .go).and <|
  (Gate.need (m.id ≠ 255 && (s.cmdNamed w v m.id).isEmpty && !(m.am.val = 2 && m.p0 = 255)) 0x03).and <|
  (Gate.until ((s.core v.core).cmds.length < 64) .matrixFull).and rest
def Core.clkNow (s : State) (core : Nat) : Nat := (s.die (core / 40)).clk
/-- Add a command to the core's sequencer; the watchdog's time runs only while it holds commands (R225). -/
def State.addCmd (s : State) (w : Nat) (v : Wave) (m : MMod) (k : MatKind) : State :=
  let preds := ([m.p0, m.p1].filter (· ≠ 255)).flatMap fun p => (s.cmdNamed w v p).map (·.uid)
  s.modCore v.core fun c =>
    let new : MatCmd :=
      { uid := c.nextUid, wave := w, id := m.id, preds := preds, kind := k, am := m.am.val, slot := m.slot.toNat,
        p0 := m.p0, p0uid := (s.cmdNamed w v m.p0).head?.map (·.uid), started := false, placed := false, took := [],
        left := 11, fault := 0, missed := none }
    { c with
      nextUid := c.nextUid + 1, matClk := if c.cmds.isEmpty then Core.clkNow s v.core else c.matClk
      cmds := c.cmds ++ [new] }
/-- A command without operands of its own. -/
def State.runCmd (s : State) (m : MMod) (k : MatKind) (due : Bool) : Host.Outcome State Fault Refusal :=
  s.issue (fun s w x v => s.matGate w v x m true [] .go) fun s w x v =>
    (s.addCmd w v m k).modWave w fun v => (if due then v.markDue x else v).advance x

/-- A half of a format-block descriptor (R221). -/
structure Half where
  fmt : Fmt
  len : Nat
  scale : Option Nat
  deriving DecidableEq, Repr
def halfOf (n : Nat) : Option Half :=
  let l := fieldOf n 5 4
  let sc := fieldOf n 63 32
  match fmtOf (fieldOf n 3 0) with
  | none => none
  | some f =>
    if fieldOf n 127 64 ≠ 0 ∨ fieldOf n 31 6 ≠ 0 ∨ l = 3 then none
    else if fmtSe f ≠ 0 ∧ (l ≠ 0 ∨ sc ≠ 0xFFFFFFFF) then none
    else some ⟨f, if l = 0 then 48 else if l = 1 then 32 else 16, if sc = 0xFFFFFFFF then none else some sc⟩
/-- A descriptor whose halves pair (R221). -/
def descOf (n : Nat) : Option (Half × Half) :=
  match halfOf (n % 2 ^ 128), halfOf (n / 2 ^ 128) with
  | some a, some b =>
    if (fmtNarrow a.fmt && fmtNarrow b.fmt) || (fmtHalf a.fmt && fmtHalf b.fmt) then some (a, b) else none
  | _, _ => none

/-- MMA.mac (R218 to R221). -/
def execMmaMac (m : MMod) (n : Fin 64) (s : State) : Host.Outcome State Fault Refusal :=
  s.issue (fun s w x v => s.matGate w v x m (v.sHeld n.val) [regS n.val] (Gate.until (v.mem.nSt = 0) .mma))
    fun s w x v =>
      let q := (v.sreg n.val).toNat
      let fromPad := q.testBit 0
      let apad := fieldOf q 63 44
      let desc := fieldOf q 43 24
      let k := fieldOf q 7 4 + 1
      if fieldOf q 23 22 ≠ 0 ∨ fieldOf q 3 1 ≠ 0 ∨ desc % 32 ≠ 0 ∨ apad % 64 ≠ 0 ∨ (!fromPad ∧ apad ≠ 0) then
        s.trapC w x 0x03
      else match mget s.blocks v.id.block with
        | none => s.trapAt w x 0x07 1 (BitVec.ofNat 64 desc) 0
        | some b =>
          if b.padLen < desc + 32 then s.trapAt w x 0x07 1 (BitVec.ofNat 64 desc) 0
          else match descOf (s.peekN (padKey v.core (b.padOfs + desc)) 32) with
            | none => s.trapC w x 0x03
            | some (ha, hb) =>
              let kind := MatKind.mac apad (fieldOf q 21 8) k fromPad ha.fmt hb.fmt ha.len hb.len ha.scale hb.scale
              (s.addCmd w v m kind).modWave w fun v => ((v.consume [regS n.val]).markDue x).advance x
/-- MMA.zero (R219). -/
def execMmaZero (m : MMod) (s : State) : Host.Outcome State Fault Refusal := s.runCmd m .zero true
/-- MMA.drain (R219). -/
def execMmaDrain (m : MMod) (s : State) : Host.Outcome State Fault Refusal := s.runCmd m .drain true
/-- MREL (R219). -/
def execMrel (m : MMod) (s : State) : Host.Outcome State Fault Refusal := s.runCmd m .rel false
/-- MLDB (R222). -/
def execMldb (m : MMod) (n : Fin 64) (s : State) : Host.Outcome State Fault Refusal :=
  let reads := [regS n.val, regS (n.val + 1)]
  s.issue (fun s w x v => s.matGate w v x m (n.val % 2 = 0 && v.sHeld n.val && v.sHeld (n.val + 1)) reads .go)
    fun s w x v =>
      let q := (v.sreg (n.val + 1)).toNat
      if fieldOf q 63 32 ≠ 0 ∨ fieldOf q 15 14 ≠ 0 then s.trapC w x 0x03
      else (s.addCmd w v m (.ldb (v.sreg n.val) (64 * fieldOf q 13 0) (64 * fieldOf q 31 16))).modWave w fun v =>
        (v.consume reads).advance x

/-- MWAIT (R226). -/
def execMwait (id : BitVec 8) (s : State) : Host.Outcome State Fault Refusal :=
  s.issue (fun s w x v => (v.mGate x false v.id.kern.matrix true [] [] .go).and
      (Gate.until (s.cmdNamed w v id).isEmpty .mwait)) fun s w x v => s.setWave w (v.advance x)

/-- Accumulator slots a wave owns whose last command has an id, with that command's number. -/
def State.slotsNamed (s : State) (w core : Nat) (id : BitVec 8) : List (Nat × Nat) :=
  ((s.core core).acc.filter fun e => e.2.owner = w && e.2.lastId = id).map fun e => (e.1, e.2.lastUid)
/-- The slot of the latest command among those. (DEDUCED: log 33) -/
def latest (l : List (Nat × Nat)) : Option Nat :=
  (l.foldl (fun (m : Option (Nat × Nat)) e => match m with
    | none => some e
    | some b => if b.2 < e.2 then some e else some b) none).map (·.1)
/-- The word of plain MSTAT. (DEDUCED: log 33) -/
def State.mstatWord (s : State) (v : Wave) : Nat :=
  let f := v.mat.faults.headD (0, 0)
  (64 - (s.core v.core).acc.length) + bnat v.mat.overflow * 128 + f.1 * 256 + f.2.toNat * 65536
/-- MSTAT (R226). -/
def execMstat (slot : Option (BitVec 8)) (d : Fin 160) (s : State) : Host.Outcome State Fault Refusal :=
  s.issue (fun _ _ x v => v.mGate x false v.id.kern.matrix (v.groupOk x d.val 1) []
      ((v.groupRegs x d.val 1).map regV) .go) fun s w x v =>
    match slot with
    | none => s.setWave w (({ v with mat := { v.mat with faults := v.mat.faults.tail, overflow := false } }.putWords x
        d.val [s.mstatWord v]).advance x)
    | some id =>
      let word := match latest (s.slotsNamed w v.core id) with
        | some n => n + 128
        | none => 0
      s.setWave w ((v.putWords x d.val [word]).advance x)

/-! ### The sequencer (R223 to R225) -/

def Core.modCmd (c : Core) (uid : Nat) (f : MatCmd → MatCmd) : Core :=
  { c with cmds := c.cmds.map fun m => if m.uid = uid then f m else m }
/-- A command leaves the sequencer; its flags and its fault reach the wave (R92, R225). -/
def State.retire (s : State) (core : Nat) (m : MatCmd) (fault : Nat) (fl : Flags) : State :=
  let s1 := s.modCore core fun c => { c with cmds := c.cmds.filter fun q => q.uid ≠ m.uid, matClk := Core.clkNow s core }
  s1.modWave m.wave fun v =>
    let u := v.raiseFlags fl
    if fault = 0 then u
    else if u.mat.faults.length < 4 then { u with mat := { u.mat with faults := u.mat.faults ++ [(fault, m.id)] } }
    else { u with mat := { u.mat with overflow := true } }

/-- The lowest free accumulator slot. -/
def Core.freeSlot (c : Core) : Option Nat := (List.range 64).find? fun n => (mget c.acc n).isNone
/-- The slot a command that names one works on, and the fault where there is none (R223, R225): under AM = 2 the slot
that the command P0 used, as long as it carries P0 as its last id. (DEDUCED: log 33) -/
def State.resolve (s : State) (core : Nat) (m : MatCmd) : Except Nat Nat :=
  if m.am = 2 then
    let l := s.slotsNamed m.wave core m.p0
    match l.find? fun e => some e.2 = m.p0uid, latest l with
    | some e, _ => .ok e.1
    | none, some n => .ok n
    | none, none => .error 4
  else match mget (s.core core).acc m.slot with
    | some a => if a.owner = m.wave then .ok m.slot else .error 3
    | none => .error 3
/-- The faults a .mac or MLDB has by its ranges alone (R225). -/
def State.rangeFault (s : State) (m : MatCmd) : Nat :=
  let padLen := match s.wave? m.wave with
    | some v => match mget s.blocks v.id.block with
      | some b => b.padLen
      | none => 0
    | none => 0
  match m.kind with
  | .mac apad bofs k fromPad _ fb la lb sa sb =>
    if fromPad ∧ padLen < apad + 16 * k * 384 then 1
    else if 2 ^ 20 < bofs * 64 + 32 * k * colBytes fb then 2
    else if (match sa with
        | some o => decide (padLen < o + 32 * nBlocks k la)
        | none => false) || (match sb with
        | some o => decide (padLen < o + 32 * nBlocks k lb)
        | none => false) then 7
    else 0
  | .ldb _ bofs len => if 2 ^ 20 < bofs + len then 2 else 0
  | .zero => 0
  | .drain => 0
  | .rel => 0
def MatKind.isLdb : MatKind → Bool
  | .ldb _ _ _ => true
  | _ => false
def MatKind.fromQa : MatKind → Bool
  | .mac _ _ _ fromPad _ _ _ _ _ _ => !fromPad
  | _ => false
/-- A command runs on an accumulator slot now. -/
def Core.slotBusy (c : Core) (n : Nat) : Bool := c.cmds.any fun m => m.started && m.placed && m.slot = n
/-- A command starts. -/
def State.started (s : State) (core : Nat) (m : MatCmd) : State :=
  s.modCore core fun c => { (c.modCmd m.uid fun m => { m with started := true }) with matClk := Core.clkNow s core }
/-- A command works on slot n from now on: the slot's last id is the command's. -/
def Core.work (c : Core) (m : MatCmd) (n : Nat) (data : List Word) : Core :=
  { (c.modCmd m.uid fun m => { m with placed := true, slot := n }) with acc := mput c.acc n ⟨m.wave, m.id, m.uid, data⟩ }
/-- A started command that allocates takes the lowest free slot, whose contents are open, as it first writes (R223); none
while no slot is free. (DESIGN CHOICE: log 8, DEDUCED: log 33) -/
def State.takeSlot (s : State) (core : Nat) (m : MatCmd) : Option (Nat × State) :=
  if m.placed ∨ m.am ≠ 1 then some (m.slot, s)
  else (s.core core).freeSlot.map fun n =>
    let data := (List.range 1024).map fun i => BitVec.ofNat 32 (Config.freeNat (s.fresh + i))
    (n, { (s.modCore core fun c => c.work m n data) with fresh := s.fresh + 1024 })
def State.accData (s : State) (core n : Nat) : List Word := match mget (s.core core).acc n with
  | some a => a.data
  | none => []
/-- MATRIX_COMMAND_START (R223): nothing while the command may not start. (DEDUCED: log 33) -/
def execMatrixCommandStart (core uid : Nat) (s : State) : Host.Outcome State Fault Refusal :=
  let c := s.core core
  match c.cmds.find? fun m => m.uid = uid with
  | none => .next s
  | some m =>
    let before := c.cmds.any fun q => q.wave = m.wave && decide (q.uid < uid) && q.kind.fromQa && !q.started
    if m.started ∨ (c.cmds.any fun q => m.preds.contains q.uid) ∨ (m.kind.fromQa ∧ before) then .next s
    else if s.rangeFault m ≠ 0 then .next (s.retire core m (s.rangeFault m) 0)
    else if m.kind.isLdb then
      .next (s.started core m)
    else if m.am = 1 then .next (if c.freeSlot.isNone then s else s.started core m)
    else
      match s.resolve core m with
      | .error f => .next (s.retire core m f 0)
      | .ok n => .next (if c.slotBusy n then s else (s.started core m).modCore core fun k => k.work m n (s.accData core n))

/-- A .mac's operands: A from the entries given, B from the B-store, scales from the pad (R221, R222). -/
def State.matIn (s : State) (core padOfs : Nat) (ents : List Lanes) (bofs k : Nat) (fa fb : Fmt) (la lb : Nat)
    (sa sb : Option Nat) : MatIn :=
  let sc := fun (o : Option Nat) (l row t : Nat) (x : Num) => match o with
    | some p => scaleNum x (memByte s.mem (padKey core (padOfs + p + row * nBlocks k l + t / l))).toNat
    | none => x
  { a := fun r t =>
      let b := r * k + t / 48
      sc sa la r t (laneNum fa (laneAt (ents.getD (b / 2) []) (48 * (b % 2) + t % 48)).toNat),
    b := fun j t =>
      let o := bofs * 64 + (t / 48 * 32 + j) * colBytes fb
      sc sb lb j t (colNum fb (s.peek (bstoreKey core o) (colBytes fb)) (t % 48)) }
/-- The 16k entry images of A in the pad. -/
def State.padEntries (s : State) (core ofs k : Nat) : List Lanes :=
  (List.range (16 * k)).map fun e => wordsOfBytes 96 (s.peek (padKey core (ofs + 384 * e)) 384)
/-- Entry e of a drain (R224). -/
def drainEntry (d : List Word) (e : Nat) : Lanes :=
  ofLanes fun l => if 3 * e + l / 32 < 32 then d.getD ((3 * e + l / 32) * 32 + l % 32) 0 else 0
def State.setAcc (s : State) (core n : Nat) (d : List Word) : State :=
  s.modCore core fun c => match mget c.acc n with
    | some a => { c with acc := mput c.acc n { a with data := d } }
    | none => c

/-- The entries a qa-fed .mac may take now: those its elder commands of the wave do not need. (DEDUCED: log 33) -/
def State.qaTurn (s : State) (core : Nat) (m : MatCmd) : Bool :=
  !(s.core core).cmds.any fun q => q.wave = m.wave && decide (q.uid < m.uid) && q.kind.fromQa
/-- A started command writes its result to its slot and retires; f gives the slot's contents and flags. A slot still to be
allocated may be taken some time before. -/
def State.writeSlot (s : State) (core : Nat) (m : MatCmd) (f : List Word → Res (List Word)) : State :=
  match s.takeSlot core m with
  | none => s
  | some (n, s1) =>
    let s2 := { s1 with fresh := s1.fresh + 1 }
    if !m.placed ∧ m.am = 1 ∧ Config.freeBit s1.fresh then s2
    else
      let r := f (s1.accData core n)
      (s1.setAcc core n r.val).retire core m 0 r.fl
/-- A started command goes on: a qa-fed .mac takes the entries there are, a drain queues what there is room for, an MLDB
leaves each 4-byte unit old or new until its last has come, and a command with nothing left to do retires.
(DEDUCED: log 33) -/
def State.cmdStep (s : State) (core : Nat) (m : MatCmd) (v : Wave) : State :=
  match m.kind with
  | .zero => s.writeSlot core m fun _ => ⟨List.replicate 1024 0, 0⟩
  | .rel => (s.modCore core fun c => { c with acc := mdel c.acc m.slot }).retire core m 0 0
  | .drain =>
    let n := min m.left (12 - v.mat.qz.length)
    let new := (List.range n).map fun i => drainEntry (s.accData core m.slot) (11 - m.left + i)
    let s1 := s.setWave m.wave { v with mat := { v.mat with qz := v.mat.qz ++ new } }
    if n = m.left then s1.retire core m 0 0
    else s1.modCore core fun c => c.modCmd m.uid fun q => { q with left := m.left - n }
  | .mac apad bofs k fromPad fa fb la lb sa sb =>
    let padOfs := match mget s.blocks v.id.block with
      | some b => b.padOfs
      | none => 0
    let n := if fromPad ∨ !s.qaTurn core m then 0 else min v.mat.qa.length (16 * k - m.took.length)
    let took := m.took ++ v.mat.qa.take n
    let s1 := (s.setWave m.wave { v with mat := { v.mat with qa := v.mat.qa.drop n } }).modCore core fun c =>
      c.modCmd m.uid fun q => { q with took := took }
    if !fromPad ∧ took.length < 16 * k then
      if took ≠ [] ∧ Config.freeBit s.fresh then (s1.takeSlot core m).elim s1 fun r => r.2
      else { s1 with fresh := s.fresh + 1 }
    else
      let ents := if fromPad then s.padEntries core (padOfs + apad) k else took
      s1.writeSlot core m (macAll (s.matIn core padOfs ents bofs k fa fb la lb sa sb) k)
  | .ldb src bofs len =>
    let r := s.rangeOf ⟨v.id.ctx, core, false, 2⟩ .rd src len
    match r.1.2 with
    | none =>
      let all := Config.freeBit s.fresh
      let cells := (cellsAt (bstoreKey core bofs) ((pieceKeys r.1.1).map (memByte s.mem))).filter fun c =>
        all || Config.freeBit (s.fresh + 1 + (c.1 - bstoreKey core bofs) / 4)
      let s1 := { (r.2.perform cells []) with fresh := s.fresh + 1 + len / 4 }
      if all then s1.retire core m 0 0 else s1
    | some (.miss p o, _) =>
      if 2 ≤ askedFor m.missed p then r.2.retire core m 5 0
      else (r.2.request v.id.die v.id.ctx p .rd o).modCore core fun c => c.modCmd m.uid fun q =>
        { q with missed := some (p, askedFor m.missed p) }
    | some (_, _) => r.2.retire core m 5 0
/-- MATRIX_COMMAND_RETIRE (R223): a started command goes on and retires once it is done. (DEDUCED: log 33) -/
def execMatrixCommandRetire (core uid : Nat) (s : State) : Host.Outcome State Fault Refusal :=
  match (s.core core).cmds.find? fun m => m.uid = uid with
  | none => .next s
  | some m =>
    match s.wave? m.wave with
    | none => .next s
    | some v => .next (if m.started then s.cmdStep core m v else s)

/-- MATRIX_WATCHDOG (R225): no command of the core has started or retired for 2^20 clk. -/
def execMatrixWatchdog (core : Nat) (s : State) : Host.Outcome State Fault Refusal :=
  let c := s.core core
  match c.cmds with
  | [] => .next s
  | m :: _ =>
    if c.matClk + 2 ^ 20 ≤ Core.clkNow s core then
      .next (((s.retire core m 6 0).modWave m.wave fun v => { v with trap := { v.trap with watchdog := true } }).pendNow m.wave)
    else .next s

end Sys2Proof.Machine
end

