-- ==== Sys2Proof/Machine/Eyelets.lean ====
section
/-! DEFINITION. Machine/Eyelets.lean: eyelets and mailboxes (R71 to R79, R227 to R229). -/

namespace Sys2Proof.Machine

/-- The MAC of an eyelet's low word under a context's eyelet key (R75, R403). -/
def State.eyeletMac (s : State) (ctx low : Nat) : Nat :=
  let key := match (mget s.ctxs ctx).bind (·.ekey) with
    | some k => Config.moduleKey k
    | none => 0
  (kmac128 key (bytesOfNat 4 low)).toNat % 2 ^ 32
/-- The low word of an eyelet (R75). -/
def eyeletLow (kind gen die core slot reg : Nat) : Nat :=
  kind * 2 ^ 30 + gen * 2 ^ 24 + die * 2 ^ 22 + core * 2 ^ 16 + slot * 512 + reg
def regIsS (reg : Nat) : Bool := 256 ≤ reg
/-- REG names a register of the wave's mailbox range (R72, R227). -/
def Wave.mailReg (v : Wave) (reg : Nat) : Bool :=
  (reg < 0xA0 || (0x100 ≤ reg && reg ≤ 0x17F)) && v.inMailbox reg
/-- A wave slot's generation counter of a kind. -/
def State.genOf (s : State) (core slot : Nat) (scalar : Bool) : BitVec 6 :=
  let c := s.core core
  mgetD (if scalar then c.genS else c.genV) slot 0

/-! ### MKCAP, DROPCAP, ARM (R229) -/

/-- MKCAP. -/
def execMkcap (d : BitVec 7) (reg : BitVec 9) (s : State) : Host.Outcome State Fault Refusal :=
  s.issue (fun _ _ x v => (v.mGate x false v.id.kern.mailboxes (v.sOk d) [] [sCode d] .go).and
      (Gate.need (v.mailReg reg.toNat) 0x03)) fun s w x v =>
    let sc := regIsS reg.toNat
    let low := eyeletLow (bnat sc) (s.genOf v.core v.id.slot sc).toNat v.id.die v.id.core v.id.slot reg.toNat
    s.setWave w ((v.setS d.toNat (BitVec.ofNat 64 (s.eyeletMac v.id.ctx low * 2 ^ 32 + low))).advance x)
/-- DROPCAP. -/
def execDropcap (scalar : Bool) (s : State) : Host.Outcome State Fault Refusal :=
  s.issue (fun _ _ x v => v.mGate x false v.id.kern.mailboxes true [] [] .go) fun s w x v =>
    let n := v.id.slot
    (s.modCore v.core fun c =>
      if scalar then { c with genS := mput c.genS n (mgetD c.genS n 0 + 1) }
      else { c with genV := mput c.genV n (mgetD c.genV n 0 + 1) }).setWave w (v.advance x)
/-- A long-latency instruction still has a result to write into a register (R229). -/
def Wave.stillWrites (v : Wave) (reg : Nat) : Bool :=
  v.mem.loads.any fun l => l.todo ≠ 0 && !l.isO && (match l.kind with
    | .sld _ => l.regs.any fun n => regS n = reg
    | _ => l.regs.any fun n => regV n = reg)
/-- ARM. -/
def execArm (reg : BitVec 9) (s : State) : Host.Outcome State Fault Refusal :=
  s.issue (fun _ _ x v => (v.mGate x false v.id.kern.mailboxes true [] [] .go).and <|
      (Gate.need (v.mailReg reg.toNat) 0x03).and (Gate.until (!v.stillWrites reg.toNat) .arm)) fun s w x v =>
    let u := if v.mbState reg.toNat = .local_ then { v with mb := mput v.mb reg.toNat ⟨.armed, false⟩ } else v
    s.setWave w (u.advance x)

/-! ### SENDV (R77, R228) -/

/-- The context's count of forged eyelets (R79). -/
def State.countForged (s : State) (ctx : Nat) : State := s.modCtx ctx fun c => { c with forged := c.forged + 1 }
/-- A forged eyelet: 0x14, and the end of the context at the 16th (R79). -/
def State.forgedSend (s : State) (w : Nat) (x : SlotId) (ctx : Nat) : State :=
  let s1 := s.countForged ctx
  match mget s1.ctxs ctx with
  | some c => if 16 ≤ c.forged then s1.terminate ctx 0x14 0 else s1.trapC w x 0x14
  | none => s1.trapC w x 0x14
def mopdS : MOpd → Bool
  | .s _ => true
  | .v _ => false
  | .o _ => false
  | .const _ => false
  | .lane => false
  | .imm _ => false
/-- The 64 bits of an s register operand. -/
def Wave.opdS (v : Wave) : MOpd → DWord
  | .s n => v.sreg n.val
  | .v _ => 0
  | .o _ => 0
  | .const _ => 0
  | .lane => 0
  | .imm _ => 0
/-- SENDV up to the wait for its outcome. -/
def execSendv (g : Bool) (pd : BitVec 5) (cap : BitVec 7) (d : MOpd) (s : State) :
    Host.Outcome State Fault Refusal :=
  s.issue (fun _ _ x v => v.mGate x g v.id.kern.mailboxes (v.sOk cap && v.mOpdOk x d) (sCode cap :: v.mReads x d) []
      (Gate.until v.send.isNone .queue)) fun s w x v =>
    if v.active x g = 0 then s.setWave w (v.advance x)
    else
      let c := (v.sAt cap).toNat
      if c / 2 ^ 32 ≠ s.eyeletMac v.id.ctx (c % 2 ^ 32) then s.forgedSend w x v.id.ctx
      else if c / 2 ^ 30 % 4 = 1 ∧ !mopdS d then s.trapC w x 0x03
      else
        let q : Send := { slot := x, lanes := v.active x g, pd := pd, cap := v.sAt cap, vec := v.readM x d,
                          scal := v.opdS d, outcome := none }
        s.setWave w ((({ v with send := some q } : Wave).consume (sCode cap :: v.mReads x d)).countIssue x |>.modSlot x
          (·.held .send))

/-- Deliver a send to a mailbox register of a wave (R73): the outcome and the wave; an arrival that fills it, and a
pending overwrite, end the sleep of its slots (R137). -/
def Wave.receive (v : Wave) (reg : Nat) (q : Send) : BitVec 2 × Wave :=
  match v.mbState reg with
  | .full => (1, v)
  | .armed =>
    let regn := v.mbRegn reg
    let u := if regIsS reg then v.setS (reg - 256) q.scal else v.putV reg q.lanes (laneAt q.vec)
    (0, { u with mb := mput u.mb reg ⟨.full, regn⟩ }.wake)
  | .local_ => (3, ({ v with trap := { v.trap with
      overwrite := some (v.trap.overwrite.getD (BitVec.ofNat 9 reg)) } } : Wave).wake)
/-- A send applied to a wave that its eyelet fits (R77, steps 4 to 6). -/
def Wave.takeSend (v : Wave) (kind reg : Nat) (q : Send) : BitVec 2 × Wave :=
  if v.mailReg reg ∧ (kind = 1) = regIsS reg then v.receive reg q else (2, v)
/-- The send of wave w is resolved and applied (R77, R78). (DESIGN CHOICE: log 76) -/
def State.applySend (s : State) (ctx : Nat) (q : Send) : BitVec 2 × State :=
  let n := q.cap.toNat
  let kind := fieldOf n 31 30
  let gen := BitVec.ofNat 6 (fieldOf n 29 24)
  let core := fieldOf n 23 22 * 40 + fieldOf n 21 16
  let slot := fieldOf n 15 9
  let reg := fieldOf n 8 0
  let place := core * 96 + slot
  if 40 ≤ fieldOf n 21 16 ∨ 96 ≤ slot then (2, s)
  else
    let live := match s.wave? place with
      | some v => if v.id.ctx = ctx then some v else none
      | none => none
    match live with
    | some v =>
      if gen ≠ s.genOf core slot (kind = 1) then (2, s)
      else
        let r := v.takeSend kind reg q
        (r.1, if r.1 = 3 then (s.setWave place { v with trap := r.2.trap }).pendNow place else s.setWave place r.2)
    | none =>
      match (s.core core).records.find? fun r => r.slot = slot && r.ctx = ctx with
      | none => (2, s)
      | some rec_ =>
        if gen ≠ (if kind = 1 then rec_.genS else rec_.genV) then (2, s)
        else match mget s.sched.images rec_.image with
          | none => (2, s)
          | some im =>
            match mget im.waves place with
            | none => (2, s)
            | some v =>
              let r := v.takeSend kind reg q
              (r.1, { s with sched := { s.sched with
                images := mput s.sched.images rec_.image { im with waves := mput im.waves place r.2 } } })
/-- SEND_ARRIVAL: the send of wave w reaches its target. -/
def execSendArrival (w : Nat) (s : State) : Host.Outcome State Fault Refusal :=
  match s.wave? w with
  | none => .next s
  | some v =>
    match v.send with
    | none => .next s
    | some q =>
      if q.outcome.isSome then .next s
      else
        let r := s.applySend v.id.ctx q
        .next (r.2.modWave w fun v => { v with send := some { q with outcome := some r.1 } })
/-- SEND_OUTCOME: the outcome returns to the sender, and its SENDV completes (R77, R228). -/
def execSendOutcome (w : Nat) (s : State) : Host.Outcome State Fault Refusal :=
  match s.wave? w with
  | none => .next s
  | some v =>
    match v.send with
    | none => .next s
    | some q =>
      match q.outcome with
      | none => .next s
      | some o =>
        let u := { v with send := none, regs := { v.regs with sendst := o } }
        let p := u.setP q.pd.toNat (maskOf fun t => if mbit q.lanes t then o = 0 else mbit (u.preg q.pd.toNat) t)
        .next (s.setWave w ((p.markDue q.slot).advance q.slot))

end Sys2Proof.Machine
end

