-- ==== Sys2Proof/Machine/Feed.lean ====
section
/-! DEFINITION. Machine/Feed.lean: the rendering feed (R230 to R234, R336 to R342), what the blend unit and ordered
sections wait for (R341, R343, R350), and REGN (R141, R142, R233). -/

namespace Sys2Proof.Machine

/-! ### Descriptors (R336 to R339) -/

def pixBytes (format : Nat) : Nat := if format = 1 then 8 else if format = 2 then 16 else 4
/-- A render-target descriptor at an address; none where it is reserved (R338). -/
def targetOf (va : DWord) (b : Bytes) : Option Target :=
  let n := natOfBytes b
  let t : Target := { va := va, base := BitVec.ofNat 64 (fieldOf n 63 0), width := fieldOf n 79 64 + 1,
                      height := fieldOf n 95 80 + 1, pitch := fieldOf n 127 96, format := fieldOf n 131 128,
                      blend := fieldOf n 133 132, paint := BitVec.ofNat 32 (fieldOf n 191 160) }
  if fieldOf n 511 192 = 0 ∧ fieldOf n 159 134 = 0 ∧ t.blend ≠ 3 ∧ t.format < 4 ∧ t.pitch % 64 = 0
      ∧ t.base.toNat % 256 = 0 ∧ t.width * pixBytes t.format ≤ t.pitch then some t else none
/-- A raster-state entry, with the target it names still to be read (R337). -/
def rasterOf (b : Bytes) : Option (Raster × DWord) :=
  let n := natOfBytes b
  let f := fun hi lo => fieldOf n hi lo
  let none_ : Target := ⟨0, 0, 0, 0, 0, 0, 0, 0⟩
  let r : Raster := { spillSz := f 399 384, spill := BitVec.ofNat 64 (f 383 320), lblend := f 293 292,
                      pcarve := f 291 288, pprivsz := f 287 272, pargn := f 271 256,
                      ppriv := BitVec.ofNat 64 (f 255 192), pargs := BitVec.ofNat 64 (f 191 128),
                      pkern := BitVec.ofNat 64 (f 127 64), tgt := none_ }
  if f 511 400 = 0 ∧ f 319 294 = 0 ∧ r.spill.toNat % 4096 = 0 ∧ r.lblend ≠ 3 ∧ r.pcarve ≤ 10 ∧ r.pargn ≤ 128
      ∧ r.ppriv.toNat % 4096 = 0 ∧ r.pargs.toNat % 8 = 0 ∧ r.pkern.toNat % 64 = 0 ∧ f 63 0 % 64 = 0
      ∧ 2 ≤ r.pprivsz then some (r, BitVec.ofNat 64 (f 63 0)) else none

/-- Read 64 bytes of a descriptor for the whole instruction of slot x (R339); a page that misses is awaited. -/
def State.withDesc (s : State) (w : Nat) (x : SlotId) (v : Wave) (va : DWord) (f : State → Bytes → State) : State :=
  if va.toNat % 64 ≠ 0 then s.trapC w x 0x03
  else
    let c := s.access (v.who x) .rd false 0 va 64
    match c.1 with
    | .fault cause sub => c.2.trapAt w x cause (descSub cause sub) va 0
    | .miss p o => c.2.pageHold w x .rd p o fun s => s.trapAt w x 0x06 2 va 0
    | .ok a =>
      let b := c.2.loadBytes v.core v.mem.queue a true true
      f b.2 b.1
/-- Read a render target. -/
def State.withTarget (s : State) (w : Nat) (x : SlotId) (v : Wave) (va : DWord) (f : State → Target → State) : State :=
  s.withDesc w x v va fun s b => match targetOf va b with
    | some t => f s t
    | none => s.trapC w x 0x03
/-- Read the raster state s[SEQ] selects, with its target (R336). -/
def State.withRaster (s : State) (w : Nat) (x : SlotId) (v : Wave) (sel : DWord) (f : State → Raster → State) : State :=
  if fieldOf sel.toNat 63 56 ≠ 0 then s.trapC w x 0x03
  else
    let at_ := s.reg 0 (oCtx v.id.ctx 0x30) / 64 * 64 + 64 * fieldOf sel.toNat 55 48
    s.withDesc w x v (BitVec.ofNat 64 at_) fun s b => match rasterOf b with
      | none => s.trapC w x 0x03
      | some (r, t) => s.withTarget w x v t fun s t => f s { r with tgt := t }

/-! ### PEMIT and SPLAT (R231, R340, R342, R351) -/

/-- A sequence number (R340). -/
def seqOf (draw group ix : Nat) : DWord :=
  BitVec.ofNat 64 (draw % 2 ^ 32 * 2 ^ 32 + group % 65536 * 65536 + ix % 65536)
def selSeq (sel : DWord) (ix : Nat) : DWord := seqOf (fieldOf sel.toNat 31 0) (fieldOf sel.toNat 47 32) ix
/-- Numbers that never fall, from a first one on (R340). -/
def rising (lo : DWord) : List DWord → Bool
  | [] => true
  | q :: r => lo.toNat ≤ q.toNat && rising q r
def lastSeq (d : DWord) (l : List DWord) : DWord := l.getLastD d
/-- A primitive's header word (R342). -/
def headerOk (w : Word) : Bool := fieldOf w.toNat 1 0 = 0 && fieldOf w.toNat 3 2 ≠ 3 && w.toNat < 16
/-- Word i of each of the oldest n entries, in lane t. -/
def entryWords (q : List Lanes) (n t : Nat) : List Word := (q.take n).map fun e => laneAt e t

/-- PEMIT (R231, R340, R342). -/
def execPemit (g : Bool) (n : BitVec 4) (d : MOpd) (seq : BitVec 7) (s : State) : Host.Outcome State Fault Refusal :=
  let reads := fun (v : Wave) (x : SlotId) => sCode seq :: v.mReads x d
  s.issue (fun _ _ x v => v.mGate x g true (v.sOk seq && v.mOpdOk x d) (reads v x) [] .go) fun s w x v =>
    let act := v.active x g
    let k := n.toNat
    let rows := (lanesOf act).map fun t => entryWords v.feed.qg k t
    if act = 0 then s.setWave w (v.advance x)
    else if v.feed.qg.length < k ∨ k < 7 ∨ !rows.all (fun r => headerOk (r.getD 0 0)) then s.trapC w x 0x03
    else s.withRaster w x v (v.sAt seq) fun s rs =>
      let seqs := (lanesOf act).map fun t => selSeq (v.sAt seq) (laneAt (v.readM x d) t).toNat
      if rs.pkern = 0 ∨ !rising v.feed.highest seqs then s.trapC w x 0x03
      else s.modWave w fun v =>
        let f := { v.feed with qg := v.feed.qg.drop k, highest := lastSeq v.feed.highest seqs,
                               held := v.feed.held ++ (rows.zip seqs).map fun e => FeedItem.prim rs e.1 e.2 }
        (({ v with feed := f } : Wave).consume (reads v x)).advance x
/-- SPLAT (R231, R351): the items of one instruction share the local index 0. -/
def execSplat (g : Bool) (n : BitVec 4) (d : MOpd) (seq : BitVec 7) (s : State) : Host.Outcome State Fault Refusal :=
  let reads := fun (v : Wave) (x : SlotId) => sCode seq :: v.mReads x d
  s.issue (fun _ _ x v => v.mGate x g true (v.sOk seq && v.mOpdOk x d) (reads v x) [] .go) fun s w x v =>
    let act := v.active x g
    let k := n.toNat
    let q := selSeq (v.sAt seq) 0
    if act = 0 then s.setWave w (v.advance x)
    else if v.feed.ql.length < k ∨ k ≠ 9 then s.trapC w x 0x03
    else s.withRaster w x v (v.sAt seq) fun s rs =>
      if !rising v.feed.highest [q] then s.trapC w x 0x03
      else s.modWave w fun v =>
        let f := { v.feed with
          ql := v.feed.ql.drop k, highest := q,
          held := v.feed.held ++ (lanesOf act).map fun t =>
            FeedItem.splat rs (entryWords v.feed.ql k t) (laneAt (v.readM x d) t) q }
        (({ v with feed := f } : Wave).consume (reads v x)).advance x

/-! ### The open path (R232) -/

/-- What SEGL, SEGQ and SEGC share: seg makes a lane's item from its coordinates. -/
def State.runSeg (s : State) (g move : Bool) (d : Fin 160) (n : Nat) (seg : (Nat → Int) → Seg) :
    Host.Outcome State Fault Refusal :=
  let reads := fun (v : Wave) (x : SlotId) => (v.groupRegs x d.val n).map regV
  s.issue (fun _ _ x v => v.mGate x g true (v.groupOk x d.val n) (reads v x) [] .go) fun s w x v =>
    let act := v.active x g
    let ts := lanesOf act
    if act = 0 then s.setWave w (v.advance x)
    else if !move ∧ (v.feed.path.isEmpty ∨ 65536 < v.feed.segs + ts.length) then s.trapC w x 0x03
    else
      let items := ts.map fun t => seg fun i => (laneAt (v.vreg (v.phys x (d.val + i))) t).toInt
      let f := { v.feed with path := v.feed.path ++ items, segs := v.feed.segs + if move then 0 else ts.length }
      s.setWave w ((({ v with feed := f } : Wave).consume (reads v x)).advance x)
/-- SEGL. -/
def execSegl (g move : Bool) (d : Fin 160) (s : State) : Host.Outcome State Fault Refusal :=
  s.runSeg g move d 2 fun c => if move then .move (c 0) (c 1) else .line (c 0) (c 1)
/-- SEGQ. -/
def execSegq (g : Bool) (d : Fin 160) (s : State) : Host.Outcome State Fault Refusal :=
  s.runSeg g false d 4 fun c => .quad (c 0) (c 1) (c 2) (c 3)
/-- SEGC. -/
def execSegc (g : Bool) (d : Fin 160) (s : State) : Host.Outcome State Fault Refusal :=
  s.runSeg g false d 6 fun c => .cubic (c 0) (c 1) (c 2) (c 3) (c 4) (c 5)
/-- PATHEND (R232, R340). -/
def execPathend (eo : Bool) (seq tgt : BitVec 7) (s : State) : Host.Outcome State Fault Refusal :=
  s.issue (fun _ _ x v => v.mGate x false true (v.sOk seq && v.sOk tgt) [sCode seq, sCode tgt] [] .go) fun s w x v =>
    s.withTarget w x v (v.sAt tgt) fun s t =>
      let q := selSeq (v.sAt seq) (fieldOf (v.sAt seq).toNat 63 48)
      if !rising v.feed.highest [q] then s.trapC w x 0x03
      else s.modWave w fun v =>
        let item := if v.feed.segs = 0 then FeedItem.skip q else .path t v.feed.path eo q
        let f := { v.feed with held := v.feed.held ++ [item], highest := q, path := [], segs := 0 }
        (({ v with feed := f } : Wave).consume [sCode seq, sCode tgt]).advance x

/-! ### Coverage of a triangle (R343) -/

/-- Coordinates of a primitive in 1/512 pixels. -/
def primX (ws : List Word) (i : Nat) : Int := 2 * (ws.getD (1 + 2 * i) 0).toInt
def primY (ws : List Word) (i : Nat) : Int := 2 * (ws.getD (2 + 2 * i) 0).toInt
/-- E_ij at a point. -/
def edge (ws : List Word) (i j : Nat) (x y : Int) : Int :=
  (primX ws j - primX ws i) * (y - primY ws i) - (primY ws j - primY ws i) * (x - primX ws i)
def primArea (ws : List Word) : Int := edge ws 0 1 (primX ws 2) (primY ws 2)
/-- A primitive that has no area or is culled is dropped. -/
def primDrops (ws : List Word) : Bool :=
  let a := primArea ws
  let cull := fieldOf (ws.getD 0 0).toNat 3 2
  a = 0 || (cull = 1 && decide (a < 0)) || (cull = 2 && decide (0 < a))
/-- The centre of pixel (px, py) in 1/512 pixels. -/
def centre (p : Nat) : Int := 512 * p + 256
/-- The centre of a pixel is covered. -/
def covers (ws : List Word) (t : Target) (px py : Nat) : Bool :=
  let sg : Int := if primArea ws < 0 then -1 else 1
  !primDrops ws && px < t.width && py < t.height && [(0, 1), (1, 2), (2, 0)].all fun e =>
    let v := sg * edge ws e.1 e.2 (centre px) (centre py)
    let dy := sg * (primY ws e.2 - primY ws e.1)
    let dx := sg * (primX ws e.2 - primX ws e.1)
    0 < v || (v = 0 && (0 < dy || (dy = 0 && dx < 0)))

/-! ### What a commit waits for (R341) -/

/-- A released primitive not yet placed holds a ticket at a pixel. -/
def Prim.ticketAt (p : Prim) (px py : Nat) : Bool :=
  covers p.words p.rs.tgt px py && (match p.quads with
    | none => true
    | some qs => qs.contains (px / 2 * 2, py / 2 * 2))
/-- A path holds a ticket at a pixel; one not yet filled counts at every pixel of its target. -/
def PathItem.ticketAt (p : PathItem) (px py : Nat) : Bool :=
  match p.cover with
  | none => px < p.tgt.width && py < p.tgt.height
  | some l => l.any fun c => c.1 = px && c.2.1 = py

/-- 32-bit float operations of R351. -/
def rOp (r : Res Nat) : Word := BitVec.ofNat 32 r.val
def rAdd (a b : Word) : Word := rOp (roundNum f32 .rne (sumNums [f32.read a.toNat, f32.read b.toNat] .rne).val)
def rNeg (a : Word) : Word := a ^^^ 0x80000000
def rSub (a b : Word) : Word := rAdd a (rNeg b)
def rMul (a b : Word) : Word := rOp (roundNum f32 .rne ((f32.read a.toNat).mul (f32.read b.toNat)).val)
/-- a / b rounded once; a finite value over an infinite one is 0. -/
def rDiv (a b : Word) : Word :=
  match f32.read a.toNat, f32.read b.toNat with
  | .fin sa na da, .fin sb nb db =>
    if nb = 0 then BitVec.ofNat 32 (infOf (sa != sb)) else rOp (roundNum f32 .rne (.fin (sa != sb) (na * db) (da * nb)))
  | .fin sa _ _, .inf sb => if sa != sb then 0x80000000 else 0
  | .inf sa, .fin sb _ _ => BitVec.ofNat 32 (infOf (sa != sb))
  | _, _ => 0x7FC00000
def rSqrt (a : Word) : Word := rOp (fsqrtOp a.toNat)
def rLess (a b : Word) : Bool := fless f32 a.toNat b.toNat
def rAbs (a : Word) : Word := a &&& 0x7FFFFFFF
/-- n + 0.5 as FP32. -/
def rHalf (n : Nat) : Word := f32Of (2 * n + 1) 2
def splatW (ws : List Word) (i : Nat) : Word := ws.getD i 0
/-- det of R351. -/
def splatDet (ws : List Word) : Word :=
  rSub (rMul (splatW ws 2) (splatW ws 4)) (rMul (splatW ws 3) (splatW ws 3))
/-- A splat that R351 drops. -/
def splatDrops (ws : List Word) : Bool :=
  ws.any (fun w => (f32.read w.toNat).isNan || (f32.read w.toNat).isInf) || !rLess 0 (splatDet ws)
def splatRx (ws : List Word) : Word := rMul 0x40400000 (rSqrt (rDiv (splatW ws 4) (splatDet ws)))
def splatRy (ws : List Word) : Word := rMul 0x40400000 (rSqrt (rDiv (splatW ws 2) (splatDet ws)))
/-- A pixel's centre lies in the splat's box. -/
def inBox (ws : List Word) (px py : Nat) : Bool :=
  let dx := rSub (rHalf px) (splatW ws 0)
  let dy := rSub (rHalf py) (splatW ws 1)
  !splatDrops ws && !rLess (splatRx ws) (rAbs dx) && !rLess (splatRy ws) (rAbs dy)
/-- The pixels of a tile inside a target. -/
def tilePixels (t : Target) (tx ty : Nat) : List (Nat × Nat) :=
  ((List.range 256).map fun i => (16 * tx + i % 16, 16 * ty + i / 16)).filter fun p => p.1 < t.width && p.2 < t.height
/-- A splat counts in a tile. -/
def meetsTile (ws : List Word) (t : Target) (tx ty : Nat) : Bool := (tilePixels t tx ty).any fun p => inBox ws p.1 p.2
def SplatItem.draw (i : SplatItem) : Nat := fieldOf i.seq.toNat 63 32
/-- Splats of a draw. -/
def State.splatsOf (s : State) (d : Draw) : List SplatItem :=
  s.gfx.splats.filter fun i => i.task = d.task && i.job = d.job && i.rs.tgt.va = d.rs.tgt.va && i.draw = d.number.toNat
def drawSeq (d : Draw) : DWord := seqOf d.number.toNat 0xFFFF 0xFFFF
/-- A draw still has a composite to make on a tile. -/
def State.drawDue (s : State) (d : Draw) (tx ty : Nat) : Bool :=
  !d.done.contains (tx, ty) && (s.splatsOf d).any fun i => meetsTile i.words d.rs.tgt tx ty

/-- Commits a wave's feed holds for a task at a pixel. -/
def heldCommits (v : Wave) : List (Target × Nat × Nat × DWord) :=
  v.feed.held.filterMap fun i => match i with
    | .blend t _ px py q _ => some (t, px, py, q)
    | _ => none
/-- A wave of the task, not a pixel wave, may still release something below a number (R341). -/
def Wave.mayEmit (v : Wave) (task : Nat) (q : DWord) : Bool :=
  v.id.task = task && !v.id.pixel && v.feed.horizon.toNat < q.toNat
/-- Every placed wave of the task has come far enough: the resident ones and those switched out. -/
def State.horizonsAt (s : State) (task : Nat) (q : DWord) : Bool :=
  !(s.waves.any fun e => e.2.mayEmit task q)
    && !(s.sched.images.any fun i => i.2.waves.any fun e => e.2.mayEmit task q)
/-- No ticket of a lower number stands at a pixel of a target, nor a commit made under one, nor an earlier commit of the
same number (R341). -/
def State.pixelClear (s : State) (task : Nat) (tgt : DWord) (px py : Nat) (q : DWord) (order : Option Nat) : Bool :=
  let low := fun (r : DWord) => decide (r.toNat < q.toNat)
  let first := fun (r : DWord) (o : Nat) => low r || (r = q && (match order with
    | some k => decide (o < k)
    | none => false))
  !(s.gfx.prims.any fun p => p.task = task && low p.seq && p.ticketAt px py)
    && !(s.gfx.tickets.any fun t => t.1 = task && t.2.1 = px && t.2.2.1 = py && low t.2.2.2.1)
    && !(s.gfx.paths.any fun p => p.task = task && p.tgt.va = tgt && first p.seq p.order && p.ticketAt px py)
    && !(s.gfx.draws.any fun d => d.task = task && d.rs.tgt.va = tgt && first (drawSeq d) d.order
        && s.drawDue d (px / 16) (py / 16))
    && !(s.gfx.commits.any fun c => c.task = task && c.px = px && c.py = py && first c.seq c.order)
    && !((s.waves.map (·.2) ++ s.sched.images.flatMap fun i => i.2.waves.map (·.2)).any fun v =>
        v.id.task = task && (heldCommits v).any fun c => c.2.1 = px && c.2.2.1 = py && low c.2.2.2)
/-- Both conditions of R341. -/
def State.mayCommit (s : State) (task : Nat) (tgt : DWord) (px py : Nat) (q : DWord) (order : Option Nat) : Bool :=
  s.pixelClear task tgt px py q order && s.horizonsAt task q

/-! ### Ordered sections and BLND (R234, R260, R350) -/

/-- Lanes of the slot with a ticket that are outside a section. -/
def Wave.toEnter (v : Wave) (x : SlotId) : List Nat :=
  (lanesOf (v.active x false &&& ~~~v.feed.section_)).filter fun t => (mget v.feed.tickets t).isSome
def State.mayEnter (s : State) (v : Wave) (t : Nat) : Bool :=
  match mget v.feed.tickets t with
  | some k => s.mayCommit v.id.task k.tgt k.px k.py k.seq none
  | none => true
/-- ORDB. -/
def execOrdb (s : State) : Host.Outcome State Fault Refusal :=
  s.issue (fun _ _ x v => v.mGate x false v.id.kern.ordered true [] [] .go) fun s w x v =>
    let ins := (v.toEnter x).filter (s.mayEnter v)
    let u := { v with feed := { v.feed with section_ := v.feed.section_ ||| maskOf fun t => ins.contains t } }
    if (u.toEnter x).isEmpty then s.setWave w (u.advance x) else (s.setWave w u).hold w x .ordb
/-- Tickets of some lanes of a wave are released. -/
def State.settleTickets (s : State) (w : Nat) (lanes : List Nat) : State :=
  let s1 := s.modWave w fun v => { v with feed := { v.feed with
    tickets := v.feed.tickets.filter fun e => !lanes.contains e.1 } }
  let task := (s.wave? w).elim 0 (·.id.task)
  { s1 with gfx := { s1.gfx with tickets := s1.gfx.tickets.filter fun t =>
    !(t.1 = task && t.2.2.2.2.1 = w && lanes.contains t.2.2.2.2.2) } }
/-- ORDE. -/
def execOrde (s : State) : Host.Outcome State Fault Refusal :=
  s.issue (fun _ _ x v => v.mGate x false v.id.kern.ordered true [] []
      (Gate.until (v.mem.nSt = 0 && v.mem.nUa = 0) .orde)) fun s w x v =>
    let out := v.active x false &&& v.feed.section_
    let left := v.feed.section_ &&& ~~~out
    let f := { v.feed with section_ := left, deferred := if left = 0 then none else v.feed.deferred }
    (s.setWave w (({ v with feed := f } : Wave).advance x)).settleTickets w (lanesOf out)
/-- BLND (R234, R349). -/
def execBlnd (g : Bool) (mode : Fin 3) (d : Fin 160) (tgt : BitVec 7) (s : State) :
    Host.Outcome State Fault Refusal :=
  let reads := fun (v : Wave) (x : SlotId) => sCode tgt :: (v.groupRegs x d.val 4).map regV
  s.issue (fun _ _ x v => v.mGate x g true (v.sOk tgt && d.val % 4 = 0 && v.groupOk x d.val 4) (reads v x) [] .go)
    fun s w x v =>
      let act := v.active x g
      if act = 0 then s.setWave w (v.advance x)
      else if (lanesOf act).any fun t => (mget v.feed.tickets t).isNone then s.trapC w x 0x03
      else s.withTarget w x v (v.sAt tgt) fun s t =>
        if t.format = 3 then s.trapC w x 0x03
        else s.modWave w fun v =>
          let items := (lanesOf act).filterMap fun l => match mget v.feed.tickets l with
            | some k =>
              if k.px < t.width ∧ k.py < t.height then
                some (FeedItem.blend t mode k.px k.py k.seq ((v.groupRegs x d.val 4).map fun p => laneAt (v.vreg p) l))
              else none
            | none => none
          (({ v with feed := { v.feed with held := v.feed.held ++ items } } : Wave).consume (reads v x)).advance x

/-! ### Release at a region boundary, and REGN (R141, R142, R233, R359) -/

def FeedItem.seq : FeedItem → DWord
  | .prim _ _ q => q
  | .splat _ _ _ q => q
  | .path _ _ _ q => q
  | .skip q => q
  | .blend _ _ _ _ q _ => q
def FeedItem.isBlend : FeedItem → Bool
  | .blend _ _ _ _ _ _ => true
  | _ => false
/-- Home die of a pixel, where its address translates; otherwise the die of the wave. -/
def State.pixelDie (s : State) (ctx core : Nat) (va : DWord) : Nat :=
  match (s.walk ⟨ctx, core, false, 2⟩ .wr va.toNat).1 with
  | .ok k _ _ _ => if isDev k then dieOf k else core / 40
  | _ => core / 40
def pixelVa (t : Target) (px py : Nat) : DWord :=
  t.base + BitVec.ofNat 64 (py * t.pitch + px * pixBytes t.format)
/-! ### The Lantern's spill areas (R352) -/

/-- The tiles of a target. -/
def tilesOf (t : Target) : List (Nat × Nat) :=
  let w := (t.width + 15) / 16
  (List.range (w * ((t.height + 15) / 16))).map fun i => (i % w, i / w)
/-- A spill record is that of a splat's draw. -/
def SpillTile.ofDraw (p : SpillTile) (i : SplatItem) : Bool :=
  p.task = i.task && p.job = i.job && p.tgt = i.rs.tgt.va && p.number.toNat = i.draw
/-- Splats of a splat's draw that a tile has taken so far, without those dropped. -/
def State.tileSplats (s : State) (i : SplatItem) (tx ty : Nat) : List SplatItem :=
  let gone := (s.gfx.spills.filter fun p => p.ofDraw i && p.tx = tx && p.ty = ty).flatMap (·.dropped)
  s.gfx.splats.filter fun k => k.task = i.task && k.job = i.job && k.rs.tgt.va = i.rs.tgt.va && k.draw = i.draw
    && meetsTile k.words i.rs.tgt tx ty && !gone.contains k.order
/-- Splats of a run, and the bytes it takes. (DEDUCED: log 41) -/
def runSplats : Nat := 65536
def runBytes : Nat := 48 * runSplats
/-- A splat, just released, finds 65,536 others of its tile on chip: a run of them goes to the lowest free place of the
spill area, or, where the area is full, the splat is dropped and counted. (DEDUCED: log 41) -/
def State.spillAt (s : State) (i : SplatItem) (tx ty : Nat) : State :=
  let mine := fun (p : SpillTile) => p.ofDraw i && p.tx = tx && p.ty = ty
  let new : SpillTile := ⟨i.ctx, i.task, i.rs.tgt.va, BitVec.ofNat 32 i.draw, i.job, tx, ty, i.rs.spill, [], []⟩
  let t := (s.gfx.spills.find? mine).getD new
  if (s.tileSplats i tx ty).length ≤ runSplats * (1 + t.runs.length) then s
  else
    let used := (s.gfx.spills.filter fun p => p.ctx = i.ctx && p.area = i.rs.spill).flatMap (·.runs)
    let place := (List.range (i.rs.spillSz * 65536 / runBytes)).find? fun k => !used.contains k
    let put := fun (p : SpillTile) => ({ s with gfx := { s.gfx with spills := p :: s.gfx.spills.filter fun p => !mine p } } : State)
    match place with
    | some k => put { t with runs := t.runs ++ [k] }
    | none =>
      let drop := s.reg 0 (oCtx i.ctx 0x3C)
      (put { t with dropped := t.dropped ++ [i.order] }).setReg 0 (oCtx i.ctx 0x3C) (min 0xFFFF (drop + 1))
/-- A splat joins the tiles whose pixels meet its box; none can be full before its draw has 65,536 splats. -/
def State.spillFor (s : State) (i : SplatItem) : State :=
  if s.gfx.splats.length ≤ runSplats then s
  else ((tilesOf i.rs.tgt).filter fun t => meetsTile i.words i.rs.tgt t.1 t.2).foldl (fun s t => s.spillAt i t.1 t.2) s

/-- A held item reaches the Awl, the Lantern or the blend unit. -/
def State.releaseItem (s : State) (w : Nat) (v : Wave) (i : FeedItem) : State :=
  let g := s.gfx
  let n := g.nextOrder
  let g1 := { g with nextOrder := n + 1 }
  match i with
  | .prim rs ws q => { s with gfx := { g1 with prims := g1.prims ++
      (if primDrops ws then [] else [⟨v.id.ctx, v.id.task, v.id.die, rs, ws, q, n, none⟩]) } }
  | .splat rs ws dp q =>
    let num := BitVec.ofNat 32 (fieldOf q.toNat 63 32)
    let have_ := g.draws.any fun d => d.task = v.id.task && d.job = none && d.rs.tgt.va = rs.tgt.va && d.number = num
    let i : SplatItem := ⟨v.id.ctx, v.id.task, rs, ws, dp, q, n, none⟩
    ({ s with gfx := { g1 with
      splats := g1.splats ++ [i],
      draws := if have_ then g1.draws else g1.draws ++ [⟨v.id.ctx, v.id.task, rs, num, [], none, n⟩] } } : State).spillFor i
  | .path t segs eo q => { s with gfx := { g1 with
      paths := g1.paths ++ [⟨v.id.ctx, v.id.task, t, segs, eo, q, n, none⟩] } }
  | .skip _ => s
  | .blend t mode px py q rgba => { s with gfx := { g1 with
      commits := g1.commits ++ [⟨v.id.ctx, v.id.task, s.pixelDie v.id.ctx v.core (pixelVa t px py), t, mode, px, py, q,
        rgba, n, w⟩] } }
/-- The feed releases what it holds; the horizon becomes the highest number released (R233, R340). -/
def State.releaseFeed (s : State) (w : Nat) : State :=
  match s.wave? w with
  | none => s
  | some v =>
    let s1 := v.feed.held.foldl (fun s i => s.releaseItem w v i) s
    let top := v.feed.held.foldl (fun m i => max m i.seq.toNat) 0
    s1.modWave w fun v => { v with feed := { v.feed with
      held := [], horizon := if v.feed.held.isEmpty then v.feed.horizon else BitVec.ofNat 64 top } }
/-- Pixels of a path whose commits wait in the blend unit of a die (R359). -/
def State.pathPixelsAt (s : State) (d : Nat) (p : PathItem) : Nat :=
  let home := (mget s.ctxs p.ctx).elim 0 (·.home)
  ((p.cover.getD []).filter fun c => s.pixelDie p.ctx (home * 40) (pixelVa p.tgt c.1 c.2.1) = d).length
/-- Places a die's blend unit has free; a composite is made only when its commit may take effect, and waits in none (R353,
R359). (DEDUCED: log 42) -/
def State.blendFree (s : State) (d : Nat) : Nat :=
  4096 - (s.gfx.commits.filter fun c => c.die = d).length - (s.gfx.paths.map (s.pathPixelsAt d)).sum
/-- Leading items of a list that can be released, a commit for each place its die's blend unit has free; used lists the
dies of those before. -/
def State.blendFits (s : State) (v : Wave) : List FeedItem → List Nat → Nat
  | [], _ => 0
  | i :: r, used =>
    match i with
    | .blend t _ px py _ _ =>
      let d := s.pixelDie v.id.ctx v.core (pixelVa t px py)
      if used.count d < s.blendFree d then 1 + s.blendFits v r (d :: used) else 0
    | _ => 1 + s.blendFits v r used
/-- The blend units have room for the commits a wave would release (R359). -/
def State.blendRoom (s : State) (v : Wave) : Bool := s.blendFits v v.feed.held [] = v.feed.held.length
/-- What can be released of the held items enters the blend units, in order; the wave is not switched out before the rest
has (R297, R359). (DEDUCED: log 42) -/
def State.releaseSome (s : State) (w : Nat) (x : SlotId) (v : Wave) : State :=
  let n := s.blendFits v v.feed.held []
  if n = 0 then s
  else ((v.feed.held.take n).foldl (fun s i => s.releaseItem w v i) s).modWave w fun u =>
    ({ u with feed := { u.feed with held := u.feed.held.drop n } } : Wave).modSlot x fun p => { p with pend := true }

/-- The registers REGN latches (R141): the blocks LIVE names, p, k, s and the flags; o reads 0. -/
def WRegs.latched (r : WRegs) (live : BitVec 20) : WRegs :=
  { r with v := r.v.filter fun e => live.toNat.testBit (e.1 / 8), o := [] }
/-- What stands before REGN's effect: as for every instruction, but for the region contract. -/
def Wave.regnGate (v : Wave) (x : SlotId) (live : BitVec 20) : Gate :=
  (Gate.until (!v.windowShut x) .lookahead).and <|
  (Gate.need ((List.range 20).all fun i => !live.toNat.testBit i || i < v.regs.g) 0x03).and <|
  Gate.until (v.mem.nLd = 0 && v.windowsClosed) .regn
/-- The region entry is latched, with the whole reconvergence list (R141), whatever the mode of the slot. -/
def Wave.latchRegion (v : Wave) (x : SlotId) (live : BitVec 20) (l : List REntry) : Wave :=
  { v with latch := some ⟨x, v.regs.latched live, { v.ctl with recon := l, spilled := [] }, v.feed, v.trap⟩ }
/-- REGN's effect on the wave. -/
def Wave.openRegion (v : Wave) (x : SlotId) (live : BitVec 20) (clk : Nat) (l : List REntry) : Wave :=
  let u := (v.advance x).modSlot x fun p => { p with pend := false }
  let u1 := { u with regs := { u.regs with o := [] }, mb := meach u.mb fun m => { m with regn := true },
                     regnClk := clk }
  u1.latchRegion x live l
/-- REGN (R141, R142, R233). -/
def execRegn (live : BitVec 20) (s : State) : Host.Outcome State Fault Refusal :=
  s.issueList (fun _ _ x v => v.regnGate x live) fun s w x v =>
    if !s.blendRoom v then (s.releaseSome w x v).hold w x .regn
    else
      match s.readList w with
      | (.error c, s1) => s1.terminate v.id.ctx c 0
      | (.ok l, s1) => (s1.releaseFeed w).modWave w fun v => v.openRegion x live (s.die v.id.die).clk l

end Sys2Proof.Machine
end

