-- ==== Sys2Proof/Machine/System.lean ====
section
/-! DEFINITION. Machine/System.lean: system registers (R149, R150, R400 to R402), TLBI (R151), MAPP (R152, R310) and
CFLUSH (R153). -/

namespace Sys2Proof.Machine

/-! ### The arrays as a march wave reaches them (R398, R401, R402) -/

/-- Banks and rows of a kind of array (R394). -/
def arrBanks (kind : Nat) : Nat := if kind = 0 then 32 else if kind = 1 then 36 else 0
def arrRows (kind : Nat) : Nat := if kind = 0 then 12288 else if kind = 1 then 6144 else 0
/-- Physical row of a logical one (R398). -/
def physRow (kind bank row : Nat) : Nat := if kind = 0 then (row + 256 * bank) % 12288 else row
/-- A row of a pair's arrays: core, kind, bank and physical row; spares follow the last row. -/
structure ArrRow where
  core : Nat
  kind : Nat
  bank : Nat
  row : Nat
  deriving DecidableEq, Repr
def ArrRow.key (r : ArrRow) : Nat := ((r.core * 4 + r.kind) * 64 + r.bank) * 16384 + r.row
/-- An entry of the repair table names a row. -/
def ArrRow.named (r : ArrRow) (e : Word) : Bool :=
  fieldOf e.toNat 30 30 = r.core && fieldOf e.toNat 29 28 = r.kind && fieldOf e.toNat 27 22 = r.bank
    && fieldOf e.toNat 21 8 = r.row
/-- The row that serves a physical row: its spare, where it was given one. -/
def Pair.serve (p : Pair) (r : ArrRow) : ArrRow :=
  match p.repair.find? r.named with
  | some e => if e.toNat.testBit 2 then r else { r with row := arrRows r.kind + e.toNat % 4 }
  | none => r
/-- The row TSEL and TROW name, where there is one. -/
def selRow (tsel trow : DWord) : Option ArrRow :=
  let kind := fieldOf tsel.toNat 29 28
  let bank := fieldOf tsel.toNat 27 22
  let row := trow.toNat % 16384
  if bank < arrBanks kind ∧ row < arrRows kind then
    some ⟨fieldOf tsel.toNat 30 30, kind, bank, physRow kind bank row⟩ else none
/-- Read of TDATA. (DESIGN CHOICE: log 5) -/
def Pair.readRow (p : Pair) (ix : Nat) (tsel trow : DWord) : DWord :=
  match selRow tsel trow with
  | none => 0
  | some r =>
    let q := p.serve r
    let stored := (mgetD p.rows q.key 0).setWidth 32
    ((stored ||| Config.stuck1 ix q.core q.kind q.bank q.row)
      &&& ~~~Config.stuck0 ix q.core q.kind q.bank q.row).setWidth 64
/-- Write of TDATA. (DESIGN CHOICE: log 5) -/
def Pair.writeRow (p : Pair) (tsel trow d : DWord) : Pair :=
  match selRow tsel trow with
  | none => p
  | some r => { p with rows := mput p.rows (p.serve r).key ((d.setWidth 32).setWidth 64) }
/-- A report of a failing row (R402). -/
def Pair.report (p : Pair) (v : DWord) : Pair :=
  let n := v.toNat
  if !n.testBit 31 then p
  else
    let kind := fieldOf n 29 28
    let bank := fieldOf n 27 22
    let r : ArrRow := ⟨fieldOf n 30 30, kind, bank, physRow kind bank (fieldOf n 21 8)⟩
    let bit_ := fieldOf n 7 3
    if p.repair.any r.named then
      { p with repair := p.repair.map fun e =>
          if r.named e ∧ bit_ < fieldOf e.toNat 7 3 then BitVec.ofNat 32 (e.toNat - fieldOf e.toNat 7 3 * 8 + bit_ * 8) else e }
    else
      let head := 2 ^ 31 + r.core * 2 ^ 30 + kind * 2 ^ 28 + bank * 2 ^ 22 + r.row * 256 + bit_ * 8
      let bankKey := fieldOf n 30 22
      let used := (p.repair.filter fun e => repairBank e = bankKey && !e.toNat.testBit 2).length
      if 64 ≤ p.repair.length then { p with lostBanks := (bankKey :: p.lostBanks).eraseDups }
      else { p with repair := p.repair ++ [BitVec.ofNat 32 (head + if 4 ≤ used then 4 else used)] }
/-- FAIL, REP and UNREP follow each report. -/
def Pair.reported (p : Pair) (v : DWord) : Pair :=
  let q := p.report v
  { q with status := BitVec.ofNat 32 q.counts }
/-- TREP: march wave w reports a failing row. -/
def State.report (s : State) (w : Nat) (v : DWord) : State :=
  match s.wave? w with
  | none => s
  | some q => if q.id.march then s.setPair q.id.pairIx ((s.pair q.id.pairIx).reported v) else s
def execTrep (w : Nat) (v : DWord) (s : State) : Host.Outcome State Fault Refusal := .next (s.report w v)

/-! ### RDSR and WRSR (R149, R150, R400) -/

/-- Registers only a march wave sees. -/
def State.marchReg (s : State) (v : Wave) (idx : Nat) : DWord :=
  if !v.id.march then 0
  else match idx with
    | 0x80 => v.trap.tsel
    | 0x81 => v.trap.trow
    | 0x82 => (s.pair v.id.pairIx).readRow v.id.pairIx v.trap.tsel v.trap.trow
    | 0x84 => 32
    | 0x85 => 12288
    | 0x86 => 36
    | 0x87 => 6144
    | _ => 0
/-- The system register at offset 8 · idx. -/
def State.sysReg (s : State) (v : Wave) (idx : Nat) : DWord :=
  match idx with
  | 0 => v.trap.xcause
  | 1 => v.trap.xpc
  | 2 => v.trap.xaddr
  | 3 => v.trap.xmasklo
  | 4 => v.trap.xmaskhi
  | 5 => v.trap.xframe
  | 6 => v.trap.xcode
  | 7 => BitVec.ofNat 64 ((mget s.ctxs v.id.ctx).elim 0 fun c => c.pool.length)
  | 8 => BitVec.ofNat 64 ((mget s.ctxs v.id.ctx).elim 0 fun c => c.forged)
  | 9 => v.trap.xscratch0
  | 10 => v.trap.xscratch1
  | n => s.marchReg v n
/-- A write of the system register at offset 8 · idx. -/
def State.putSys (s : State) (w : Nat) (idx : Nat) (d : DWord) : State :=
  let put := fun (f : WTrap → WTrap) => s.modWave w fun v => { v with trap := f v.trap }
  let march := match s.wave? w with
    | some v => v.id.march
    | none => false
  match idx with
  | 9 => put fun t => { t with xscratch0 := d }
  | 10 => put fun t => { t with xscratch1 := d }
  | 0x80 => if march then put fun t => { t with tsel := d &&& 0x7FC00000 } else s
  | 0x81 => if march then put fun t => { t with trow := d &&& 0x3FFF } else s
  | 0x82 => match s.wave? w with
    | some v => if march then s.setPair v.id.pairIx ((s.pair v.id.pairIx).writeRow v.trap.tsel v.trap.trow d) else s
    | none => s
  | 0x83 => s.report w d
  | _ => s

/-- RDSR. -/
def execRdsr (d : BitVec 7) (idx : BitVec 12) (s : State) : Host.Outcome State Fault Refusal :=
  s.issue (fun _ _ x v => v.cGate x (v.slot x).sup (v.sOk d) [] [sCode d]) fun s w x v =>
    s.setWave w ((v.setS d.toNat (s.sysReg v idx.toNat)).advance x)
/-- WRSR. -/
def execWrsr (r : BitVec 7) (idx : BitVec 12) (s : State) : Host.Outcome State Fault Refusal :=
  s.issue (fun _ _ x v => v.cGate x (v.slot x).sup (v.sOk r) [sCode r] []) fun s w x v =>
    (s.putSys w idx.toNat (v.sAt r)).modWave w fun v => (v.consume [sCode r]).advance x

/-! ### TLBI (R151) -/

/-- An access of a context is still to be completed. -/
def State.accessing (s : State) (ctx : Nat) : Bool :=
  (s.waves.any fun e => e.2.id.ctx = ctx &&
      (!e.2.mem.queue.isEmpty || e.2.mem.loads.any fun l => l.todo ≠ 0 && !l.accs.isEmpty))
    || s.cores.any fun c => c.2.path.any fun e => e.ctx = ctx
/-- The entries that p selects are dropped, once the context's accesses that used them have completed. -/
def State.runTlbi (s : State) (w : Nat) (x : SlotId) (v : Wave) (reads : List Nat) (p : TlbE → Bool) : State :=
  let hit := s.dies.any fun d => d.2.tlb.any p
  if hit ∧ s.accessing v.id.ctx then s.hold w x .tlbi
  else (s.dropTlb p).modWave w fun v => (v.consume reads).advance x
/-- TLBI. -/
def execTlbi (r : BitVec 7) (s : State) : Host.Outcome State Fault Refusal :=
  s.issue (fun _ _ x v => v.cGate x (v.slot x).sup (v.sOk r) [sCode r] []) fun s w x v =>
    s.runTlbi w x v [sCode r] fun t => t.hits v.id.ctx t.gen (v.sAt r).toNat
/-- TLBI.all. -/
def execTlbiAll (s : State) : Host.Outcome State Fault Refusal :=
  s.issue (fun _ _ x v => v.cGate x (v.slot x).sup true [] []) fun s w x v =>
    s.runTlbi w x v [] fun t => t.ctx = v.id.ctx

/-! ### MAPP (R152, R310) -/

/-- The lowest free aligned run of n frames of a context's pool on a die, or on any. -/
def Ctx.runOn (c : Ctx) (d : Option Nat) (n : Nat) : Option Nat :=
  let ok := fun (p : Nat) => (match d with | some k => decide (dieOfFrame p = k) | none => true)
    && decide (p % (4096 * n) = 0) && (List.range n).all fun i => c.pool.contains (p + 4096 * i)
  (c.pool.filter ok).foldl (fun m p => match m with
    | none => some p
    | some q => some (min p q)) none
/-- A run for a context: of its home die first. (DEDUCED: log 34) -/
def Ctx.anyRun (c : Ctx) (n : Nat) : Option Nat :=
  match c.runOn (some c.home) n with
  | some p => some p
  | none => c.runOn none n

/-- No stage-2 entry maps a byte of an aligned range of n pages, from a level and a table on. -/
def State.s2clear (s : State) (ia n : Nat) : Nat → Nat → Bool
  | 0, t => (List.range n).all fun i => !eBit (BitVec.ofNat 64 (s.peekN (devKey (t + 8 * (walkIx ia 0 + i))) 8)) 0
  | lvl + 1, t =>
    let e : DWord := BitVec.ofNat 64 (s.peekN (devKey (t + 8 * walkIx ia (lvl + 1))) 8)
    if !eBit e 0 then true
    else if e.toNat ≠ eOut e + 1 then false
    else s.s2clear ia n lvl (eDev e)
/-- The lowest free aligned range of n pages from an address on, among the next ranges: no pool frame has an address of
it, and no leaf, such as that of a page that has been merged or forked, stands there. -/
def State.freeFrom (s : State) (ctx n hi : Nat) (used : List Nat) : Nat → Nat → Option Nat
  | 0, _ => none
  | fuel + 1, a =>
    if hi < a + 4096 * n then none
    else if !(used.any fun p => decide (a ≤ 4096 * p) && decide (4096 * p < a + 4096 * n))
        && s.s2clear a n 3 (s.s2root ctx) then some a
    else s.freeFrom ctx n hi used fuel (a + 4096 * n)
/-- The lowest free aligned range of n pages in the context's pool window (R310, R330). (DEDUCED: log 34) -/
def State.windowFree (s : State) (ctx n : Nat) : Option Nat :=
  match mget s.ctxs ctx with
  | none => none
  | some c =>
    let lo := s.reg 0 (oCtx ctx 0x10) / 2 ^ 21 * 2 ^ 21
    let units := s.reg 0 (oCtx ctx 0x18)
    s.freeFrom ctx n (lo + units * 2 ^ 21) (c.poolUsed.filterMap (·.2)) (units * 512 / n)
      ((lo + 4096 * n - 1) / (4096 * n) * (4096 * n))
/-- Fill a frame with zeros under a context's session key; a whole line so written fails no more (R326). -/
def State.zeroFrame (s : State) (ctx p n : Nat) : State :=
  let kid := (mget s.ctxs ctx).elim 0 (·.skey)
  s.perform ((List.range (4096 * n)).map fun i => (devKey (p + i), 0))
    ((List.range (64 * n)).map fun i => ⟨(p / 64) + i, kid, false⟩)
/-- A run of frames leaves the pool, with an intermediate address for each where one is given. -/
def Ctx.useRun (c : Ctx) (p n : Nat) (ia : Option Nat) : Ctx :=
  (List.range n).foldl (fun c i => c.takeFrame (p + 4096 * i) (ia.map fun a => a / 4096 + i)) c
/-- Take a run of frames out of the pool and fill it with zeros. -/
def State.takeRun (s : State) (ctx p n : Nat) (ia : Option Nat) : State :=
  (s.modCtx ctx fun c => c.useRun p n ia).zeroFrame ctx p n
/-- Write an entry of a table in device memory. -/
def State.putEntry (s : State) (pa : Nat) (e : DWord) : State := s.poke (cellsAt (devKey pa) (bytesOfNat 8 e.toNat))
/-- (DESIGN CHOICE: log 27) -/
def State.entryAt (s : State) (pa : Nat) : DWord := BitVec.ofNat 64 (s.peekN (devKey pa) 8)

/-- Write a stage-2 leaf for an intermediate address at a level, from a table of another level on; missing tables are
built from pool frames that take no intermediate address (R310). none: the pool lacks a frame. -/
def State.s2put (s : State) (ctx ia : Nat) (leaf : DWord) (stop : Nat) : Nat → Nat → Option State
  | 0, t => some (s.putEntry (t + 8 * walkIx ia 0) leaf)
  | lvl + 1, t =>
    let pa := t + 8 * walkIx ia (lvl + 1)
    if lvl + 1 = stop then some (s.putEntry pa leaf)
    else
      let e := s.entryAt pa
      if eBit e 0 ∧ e.toNat = eOut e + 1 then s.s2put ctx ia leaf stop lvl (eDev e)
      else match (mget s.ctxs ctx).bind (·.anyRun 1) with
        | none => none
        | some p => ((s.takeRun ctx p 1 none).putEntry pa (BitVec.ofNat 64 (p + 1))).s2put ctx ia leaf stop lvl p
/-- Attributes of a leaf of the pool window: RD, X, W, WIN, the session key (R310). -/
def State.poolLeaf (s : State) (ctx frame : Nat) : Nat :=
  let kid := (mget s.ctxs ctx).elim 0 (·.skey)
  kid * 2 ^ 48 + frame + bnat ((s.reg 0 (oCtx ctx 0x10)).testBit 0) * 256 + 0x1D
/-- Give n frames from p intermediate addresses from ia on, in stage 2. -/
def State.s2frames (s : State) (ctx p ia n : Nat) : Option State :=
  if n = 512 then s.s2put ctx ia (BitVec.ofNat 64 (s.poolLeaf ctx p + 128)) 1 3 (s.s2root ctx)
  else (List.range n).foldl (fun o i => o.bind fun s =>
    s.s2put ctx (ia + 4096 * i) (BitVec.ofNat 64 (s.poolLeaf ctx (p + 4096 * i) + if n = 16 then 32 else 0)) 0 3
      (s.s2root ctx)) (some s)
/-- Take n frames with intermediate addresses: the subcause of 0x13, or the frames' address and intermediate address.
(DEDUCED: log 34) -/
def State.newFrames (s : State) (ctx n : Nat) : Except Nat (Nat × Nat × State) :=
  match (mget s.ctxs ctx).bind (·.anyRun n), s.windowFree ctx n with
  | none, _ => .error 1
  | some _, none => .error 2
  | some p, some ia => match (s.takeRun ctx p n (some ia)).s2frames ctx p ia n with
    | none => .error 1
    | some s1 => .ok (p, ia, s1)

/-- The label of an intermediate address under its leaf: the session's for a copied segment (R244, R322). -/
def State.s2label (s : State) (ctx : Nat) (l : DWord) (ia : Nat) : Nat :=
  if eBit l 9 && (eSeg l).testBit (ia / 1024 % 4) then (mget s.ctxs ctx).elim 0 (·.skey) else pageLabel ctx l
/-- Write an entry of a stage-1 table, through stage 2, as any write of the page: a shared page is copied first (R322),
and a merge under way is abandoned (R321). A cause of 0x13: the pool lacks the frame for that. -/
def State.s1entry (s : State) (ctx ia : Nat) (e : DWord) : Except Nat State :=
  match s.breakShare ctx ia with
  | .error c => .error c
  | .ok s1 => match s1.s2leaf ctx ia with
    | .leaf l lvl _ =>
      let k := s1.s2key ctx l (lvlShift lvl) ia
      .ok (s1.perform (cellsAt k (bytesOfNat 8 e.toNat)) [⟨lineOf k, s1.s2label ctx l ia, eBit l 11⟩])
    | _ => .ok s1
/-- Entries of one table, one after the other. -/
def State.s1entries (s : State) (ctx t : Nat) (leaf : Nat → DWord) : Nat → Except Nat State
  | 0 => .ok s
  | n + 1 => match s.s1entries ctx t leaf n with
    | .error c => .error c
    | .ok s1 => s1.s1entry ctx (t + 8 * n) (leaf n)
/-- Write the leaves of a mapping at a level, from a table of another level on; missing tables are built from pool
frames. An error is the subcause of 0x13. -/
def State.s1put (s : State) (ctx va n : Nat) (leaf : Nat → DWord) (stop : Nat) : Nat → Nat → Except Nat State
  | 0, t => s.s1entries ctx (t + 8 * walkIx va 0) leaf n
  | lvl + 1, t =>
    let a := t + 8 * walkIx va (lvl + 1)
    if lvl + 1 = stop then s.s1entry ctx a (leaf 0)
    else match s.tableRead ctx a with
      | .entry e =>
        if eBit e 0 ∧ !s1bad e ∧ !eBit e 2 then s.s1put ctx va n leaf stop lvl (eOut e)
        else match s.newFrames ctx 1 with
          | .error c => .error c
          | .ok (_, ia, s1) => match s1.s1entry ctx a (BitVec.ofNat 64 (ia + 1)) with
            | .error c => .error c
            | .ok s2 => s2.s1put ctx va n leaf stop lvl ia
      | _ => .error 1
/-- What the stage-1 tables hold for a range: a mapping, none, or a table read that fails. -/
inductive Mapped where
  | yes | no | miss (ia : Nat) | fail
  deriving DecidableEq, Repr
def Mapped.or (a : Mapped) (b : Mapped) : Mapped := match a with
  | .no => b
  | m => m
/-- Entries of a level-0 table from an index on. -/
def State.anyLeaf (s : State) (ctx t ix : Nat) : Nat → Mapped
  | 0 => .no
  | n + 1 => (match s.tableRead ctx (t + 8 * ix) with
    | .entry e => if eBit e 0 then Mapped.yes else .no
    | .miss ia => .miss ia
    | .fail => .fail).or (s.anyLeaf ctx t (ix + 1) n)
/-- A stage-1 entry maps a byte of a range of n pages. -/
def State.mapped (s : State) (ctx va n : Nat) : Nat → Nat → Mapped
  | 0, t => s.anyLeaf ctx t (if n = 512 then 0 else walkIx va 0) n
  | lvl + 1, t =>
    match s.tableRead ctx (t + 8 * walkIx va (lvl + 1)) with
    | .miss ia => .miss ia
    | .fail => .fail
    | .entry e =>
      if !eBit e 0 then .no
      else if lvl = 0 ∧ eBit e 2 ∧ !s1bad e then .yes
      else if s1bad e ∨ eBit e 2 then .no
      else s.mapped ctx va n lvl (eOut e)
/-- Pages of a SIZE code. -/
def mappPages (size : Nat) : Nat := if size = 0 then 1 else if size = 1 then 16 else 512
/-- The stage-1 leaf of page i of a new mapping. -/
def mappLeaf (n ia attr i : Nat) : DWord :=
  BitVec.ofNat 64 (ia + 4096 * i + fieldOf attr 2 2 * 16 + fieldOf attr 3 3 * 8 + (if n = 16 then 32 else 0) + 5)
/-- The stage-1 tables a mapping lacks, and the entry of an existing table that it writes (R310). -/
def State.s1lacks (s : State) (ctx va stop : Nat) : Nat → Nat → Nat × Nat
  | 0, t => (0, t + 8 * walkIx va 0)
  | lvl + 1, t =>
    let a := t + 8 * walkIx va (lvl + 1)
    if lvl + 1 = stop then (0, a)
    else match s.tableRead ctx a with
      | .entry e => if eBit e 0 ∧ !s1bad e ∧ !eBit e 2 then s.s1lacks ctx va stop lvl (eOut e) else (lvl + 1 - stop, a)
      | _ => (lvl + 1 - stop, a)
/-- Whether the pool lacks a frame for runs of these lengths and the stage-2 tables they need, as far as the window has
addresses for them, and whether the window lacks one (R310). -/
def State.lacks (s : State) (ctx : Nat) : List Nat → Bool × Bool × State
  | [] => (false, false, s)
  | n :: r =>
    match (mget s.ctxs ctx).bind (·.anyRun n) with
    | none => (true, false, s)
    | some p =>
      let ia := s.windowFree ctx n
      let s1 := s.modCtx ctx fun c => c.useRun p n ia
      match ia with
      | none => let q := s1.lacks ctx r
        (q.1, true, q.2.2)
      | some a => match s1.s2frames ctx p a n with
        | none => (true, false, s1)
        | some s2 => s2.lacks ctx r
/-- Cause and subcause of a mapping that is refused: 0x13 with 1 where the pool lacks the page or a table, before 2 where the
window lacks an address (R152, R310). (DEDUCED: log 34) -/
def State.mappLacks (s : State) (ctx va n stop : Nat) : Option (Nat × Nat) :=
  let t := s.s1lacks ctx va stop 3 (s.s1root ctx)
  let q := s.lacks ctx (n :: List.replicate t.1 1)
  if q.1 then some (0x13, 1)
  else match q.2.2.breakShare ctx t.2 with
    | .error cause => some (cause, 1)
    | .ok _ => if q.2.1 then some (0x13, 2) else none
/-- The mapping proper: the subcause of 0x13, or the state with the page mapped. (DEDUCED: log 34) -/
def State.mapPage (s : State) (ctx va n attr : Nat) : Except Nat State :=
  match s.newFrames ctx n with
  | .error c => .error c
  | .ok (_, ia, s1) => s1.s1put ctx va n (mappLeaf n ia attr) (if n = 512 then 1 else 0) 3 (s1.s1root ctx)
/-- The outcome of MAPP once its operands have passed: a status, a trap, or a page to wait for. -/
inductive Mapping where
  | done (st : Nat) (s : State)
  | trap (cause sub : Nat)
  | miss (page : Nat)
/-- (DEDUCED: log 34) -/
def State.mapp (s : State) (ctx va n attr : Nat) : Mapping :=
  match s.mapped ctx va n 3 (s.s1root ctx) with
  | .yes => .done 1 s
  | .miss ia => .miss (ia / 4096)
  | .fail => .trap 0x06 1
  | .no => match s.mappLacks ctx va n (if n = 512 then 1 else 0) with
    | some c => .trap c.1 c.2
    | none => match s.mapPage ctx va n attr with
      | .error sub => .trap 0x13 sub
      | .ok s1 => .done 0 s1
/-- MAPP. -/
def execMapp (d a t : BitVec 7) (s : State) : Host.Outcome State Fault Refusal :=
  let reads := [sCode a, sCode t]
  s.issue (fun _ _ x v => v.cGate x (v.slot x).sup (v.sOk d && v.sOk a && v.sOk t) reads [sCode d]) fun s w x v =>
    let va := (v.sAt a).toNat
    let attr := (v.sAt t).toNat
    let n := mappPages (attr % 4)
    if attr / 16 ≠ 0 ∨ attr % 4 = 3 then s.trapC w x 0x03
    else if va % (4096 * n) ≠ 0 then s.trapAt w x 0x04 0 (v.sAt a) 0
    else if va / 2 ^ 48 ≠ 0 then s.trapAt w x 0x05 3 (v.sAt a) 0
    else match s.mapp v.id.ctx va n attr with
      | .trap c sub => s.trapAt w x c sub (v.sAt a) 0
      | .miss p => s.pageHold w x .rd p 1 fun s => s.trapAt w x 0x06 2 (v.sAt a) 0
      | .done st s1 => s1.modWave w fun v =>
        ((v.consume reads).setS d.toNat (BitVec.ofNat 64 st)).advance x

/-! ### CFLUSH (R153) -/

/-- What the forms that name a line share: f acts on the line of the address. (DEDUCED: log 35) -/
def State.runFlush (s : State) (r : BitVec 7) (acked : Bool) (f : State → Nat → Nat → State) :
    Host.Outcome State Fault Refusal :=
  s.issue (fun _ _ x v => (v.cGate x true (v.sOk r) [sCode r] []).and
      (Gate.until (v.mem.nLd = 0 && (!acked || v.mem.nUa = 0)) .cflush)) fun s w x v =>
    let va := v.sAt r
    let c := s.access (v.who x) .rd true 0 va 1
    match c.1 with
    | .fault cause sub => c.2.trapAt w x cause sub va 0
    | .miss p o => c.2.pageHold w x .rd p o fun s => s.trapAt w x 0x06 2 va 0
    | .ok a => (f c.2 v.core (lineOf (a.keys.headD 0))).modWave w fun v => (v.consume [sCode r]).advance x
/-- CFLUSH: the line leaves the core's L1, with the copy of code it may be (R302). (DEDUCED: log 35) -/
def execCflush (r : BitVec 7) (s : State) : Host.Outcome State Fault Refusal :=
  s.runFlush r false fun s core l => s.modCore core fun c => { c with l1 := dropLines c.l1 fun q => q.line = l }
/-- CFLUSH.l1. -/
def execCflushL1 (s : State) : Host.Outcome State Fault Refusal :=
  s.issue (fun _ _ x v => (v.cGate x true true [] []).and (Gate.until (v.mem.nLd = 0) .cflush)) fun s w x v =>
    (s.dropL1 v.core).modWave w (·.advance x)
/-- CFLUSH.mem: memory holds the line. -/
def execCflushMem (r : BitVec 7) (s : State) : Host.Outcome State Fault Refusal :=
  s.runFlush r true fun s _ l => { s with vm := { s.vm with dirty := mdel s.vm.dirty l } }

end Sys2Proof.Machine
end

