-- ==== Sys2Proof/Machine/Emulate.lean ====
section
/-! DEFINITION. Machine/Emulate.lean: firmware as a trap handler: first-touch mapping (R293, R310) and the emulation of
misaligned accesses (R254), one byte of one trapping lane a turn. -/

namespace Sys2Proof.Machine

/-- The wave as the trapped instruction sees it: its slot, frames and rotation as they stood at the trap. -/
def Wave.asTrapped (v : Wave) (run : TrapRun) : Wave :=
  let rb := match v.ctl.frames with
    | .trap _ rb _ :: _ => rb
    | _ => v.ctl.rb
  let u := v.setSlot run.req.slot run.slot
  { u with ctl := { u.ctl with frames := run.frames, rb := rb }, regs := { u.regs with o := run.o } }

/-- What an emulated access does: its bytes, how it reaches them, the address of a lane, the scope of its release and of
its acquire, the bytes of a store, and the registers of a load. -/
structure Emul where
  n : Nat
  pad : Bool
  store : Bool
  rel : Nat
  acq : Nat
  va : Nat → DWord
  data : Nat → Bytes
  sz : Nat
  regs : List Nat
  isO : Bool
  scalar : Bool
  reads : List Nat

/-- The emulation of an instruction, where firmware has one. -/
def Wave.emul (v : Wave) (x : SlotId) (i : Instr) : Option Emul :=
  let ld := fun (d : MDst) (m : MAddr) (sz acq : Nat) (pad : Bool) => some
    { n := szBytes sz, pad := pad, store := false, rel := 0, acq := acq, va := v.mAddr x m, data := fun _ => [],
      sz := sz, regs := v.mDstRegs x d (szRegs sz), isO := mdstO d, scalar := false, reads := v.addrReads x m : Emul }
  let st := fun (d : MOpd) (m : MAddr) (sz rel : Nat) (pad : Bool) => some
    { n := szBytes sz, pad := pad, store := true, rel := rel, acq := 0, va := v.mAddr x m, data := v.mData x d sz,
      sz := sz, regs := [], isO := false, scalar := false,
      reads := v.addrReads x m ++ v.mSrcReads x d (szRegs sz) : Emul }
  match i with
  | .ld _ d m _ sz scope _ => ld d m sz scope false
  | .ldp _ d m _ sz acq => ld d m sz (bnat acq) true
  | .st _ d m sz scope _ => st d m sz scope false
  | .stp _ d m sz rel => st d m sz (bnat rel) true
  | .sld _ d base ofs _ sz scope _ => some
    { n := szBytes sz, pad := false, store := false, rel := 0, acq := scope, va := fun _ => v.sAddr base ofs,
      data := fun _ => [], sz := sz, regs := sRegs d sz, isO := false, scalar := true, reads := [sCode base] }
  | .sst _ d base ofs sz scope _ => some
    { n := szBytes sz, pad := false, store := true, rel := scope, acq := 0, va := fun _ => v.sAddr base ofs,
      data := fun _ => v.sData d sz, sz := sz, regs := [], isO := false, scalar := false,
      reads := sCode base :: (sRegs d sz).map regS }
  | _ => none

/-- Bytes of an emulated access a lane has done so far. -/
def TrapRun.laneBytes (r : TrapRun) (t : Nat) : Bytes := mgetD r.bytes t []
/-- The address of the next byte of a lane. -/
def TrapRun.nextVa (r : TrapRun) (e : Emul) (t : Nat) : Nat := (e.va t).toNat + (r.laneBytes t).length
/-- The lane whose byte is next: bytes go in ascending address order, those of one address in lane order (R194, R254). -/
def TrapRun.nextLane (r : TrapRun) (e : Emul) : Option Nat :=
  ((lanesOf r.req.lanes).filter fun t => (r.laneBytes t).length < e.n).foldl (fun m t => match m with
    | none => some t
    | some u => if r.nextVa e t < r.nextVa e u then some t else m) none
/-- One more byte of a lane is done. (DEDUCED: log 36) -/
def TrapRun.push (r : TrapRun) (t : Nat) (b : Byte) (win : Bool) : TrapRun :=
  { r with bytes := mput r.bytes t (r.laneBytes t ++ [b]), slot := { r.slot with due := r.slot.due || win } }
def Wave.pushRun (v : Wave) (t : Nat) (b : Byte) (win : Bool) : Wave :=
  { v with trap := { v.trap with running := v.trap.running.map (·.push t b win) } }

/-- The loads of the wave so far have been performed, and no acquire is under way. -/
def Wave.loadsDone (v : Wave) : Bool := v.noAcquire && v.mem.loads.all fun l => l.open_.isEmpty
/-- The next byte of an emulated load. -/
def State.emulRead (s : State) (w : Nat) (x : SlotId) (v : Wave) (a : LaneAcc) : State :=
  if !v.loadsDone ∨ s.atomicAhead v v.mem.nextId a.keys then s.hold w x .scoreboard
  else
    let b := s.loadBytes v.core v.mem.queue a true true
    b.2.modWave w (·.pushRun a.lane (b.1.headD 0) false)
/-- The next byte of an emulated store. -/
def State.emulWrite (s : State) (w : Nat) (x : SlotId) (v : Wave) (run : TrapRun) (e : Emul) (a : LaneAcc) : State :=
  if 63 ≤ v.mem.nSt ∨ 63 ≤ v.mem.nUa then s.hold w x .counter
  else
    let win := !e.pad && s.anyWindow v.id.ctx [a]
    let byte := (e.data a.lane).getD (run.laneBytes a.lane).length 0
    s.modWave w fun v =>
      let g := v.mem.nextId
      let u : Wave := { v with mem := { v.mem with nextId := g + 1, nSt := v.mem.nSt + 1,
                                                   nUa := v.mem.nUa + (if e.pad then 0 else 1) } }
      (u.pushStore w g e.pad false 1 [a] fun _ => [byte]).pushRun a.lane byte win

/-- One byte of a trapping lane, checked under the trapped slot's mode. (DEDUCED: log 36) -/
def State.emulByte (s : State) (w : Nat) (x : SlotId) (v : Wave) (run : TrapRun) (e : Emul) (t : Nat) : State :=
  let how := if e.pad then Reach.pad e.store else .memory (if e.store then .wr else .rd) true
  let va := e.va t + BitVec.ofNat 64 (run.laneBytes t).length
  let r := s.laneChk v ⟨v.id.ctx, v.core, run.slot.sup, 0⟩ how t va 1
  match r.1 with
  | .fault cause _ => r.2.terminate v.id.ctx cause 0
  | .miss p o => r.2.pageHold w x (if e.store then .wr else .rd) p o fun s => s.terminate v.id.ctx 0x06 0
  | .ok a => if e.store then r.2.emulWrite w x v run e a else r.2.emulRead w x v a

/-- The registers an emulated load writes, in the saved o registers too, which SRET brings back (R148).
(DEDUCED: log 36) -/
def Wave.emulLand (v : Wave) (run : TrapRun) (e : Emul) : Wave :=
  let put := fun (u : Wave) (t : Nat) =>
    let b := run.laneBytes t
    if e.scalar then (e.regs.zip (loadDWords e.sz b)).foldl (fun u p => u.setS p.1 p.2) u
    else (e.regs.zip (loadWords e.sz b)).foldl (fun u p =>
      if e.isO then
        let n := mput (match u.trap.running with | some r => r.o | none => []) p.1 (mergeLanes (oneLane t) (fun _ => p.2)
          (match u.trap.running with | some r => mgetD r.o p.1 [] | none => []))
        { u with trap := { u.trap with running := u.trap.running.map fun r => { r with o := n } } }
      else u.putV p.1 (oneLane t) fun _ => p.2) u
  if e.store then v else (lanesOf run.req.lanes).foldl put v

/-- The emulated access has done all its bytes: registers, acquire, and SRET.skip. (DEDUCED: log 36) -/
def State.emulEnd (s : State) (w : Nat) (x : SlotId) (run : TrapRun) (e : Emul) : State :=
  s.withFrame w x fun s =>
    let s1 := s.modWave w fun v => (v.emulLand run e).consume e.reads
    let s2 := match s1.wave? w with
      | some v => if 2 ≤ e.acq then s1.dropL1 v.core else s1
      | none => s1
    s2.endTrap w x true

/-- The release that comes before the bytes holds. -/
def State.emulReleased (s : State) (v : Wave) (x : SlotId) (e : Emul) : Bool :=
  if e.pad then v.padDrained || !(e.rel ≠ 0 || e.acq ≠ 0) else e.rel = 0 || s.released v x e.rel
/-- The acquire that comes after the bytes of a block-scope STP holds (R251). -/
def Wave.emulAcquired (v : Wave) (e : Emul) : Bool := !(e.pad && e.store && e.rel ≠ 0) || v.padDrained

/-- A turn of the handler that emulates a misaligned access (R254). (DEDUCED: log 36) -/
def State.emulTurn (s : State) (w : Nat) (x : SlotId) (v : Wave) (run : TrapRun) : State :=
  let u := v.asTrapped run
  let i := match run.slot.word? with
    | some (word, ext) => match decode (Cls.ofCode run.slot.hdr.cls) word ext with
      | .ok i => some i
      | .error _ => none
    | none => none
  match i.bind (u.emul x) with
  | none => s.terminate v.id.ctx 0x04 run.req.code
  | some e =>
    let s1 := s.modWave w fun v => v.modSlot x fun p => { p with wait := none }
    if run.bytes.isEmpty ∧ !s.emulReleased v x e then s1.awaitRelease w x .release
    else match run.nextLane e with
      | some t => s1.emulByte w x v run e t
      | none => if v.emulAcquired e then s1.emulEnd w x run e else s1.hold w x .release

/-- First-touch mapping by firmware (R310): the page of XADDR is mapped, and the access issues again. -/
def State.touchTurn (s : State) (w : Nat) (x : SlotId) (v : Wave) (run : TrapRun) : State :=
  match s.mapp v.id.ctx (run.req.addr.toNat / 4096 * 4096) 1 4 with
  | .done _ s1 => s1.withFrame w x fun s => s.endTrap w x false
  | .trap c _ => s.terminate v.id.ctx c 0
  | .miss p => s.pageHold w x .rd p 1 fun s => s.terminate v.id.ctx 0x06 0

/-- A turn of a slot in which firmware runs as the handler (R293). -/
def State.firmwareTurn (s : State) (w : Nat) (x : SlotId) (v : Wave) : State :=
  match v.trap.running with
  | none => s
  | some run => if run.req.cause = 0x05 then s.touchTurn w x v run else s.emulTurn w x v run

end Sys2Proof.Machine
end

