-- ==== Sys2Proof/Machine/Cards.lean ====
section
/-! DEFINITION. Machine/Cards.lean: the Flash log (R369, R370), task cards and their acceptance (R145, R267, R268,
R275), tile records (R146, R270, R271), and LAUNCH, TBFULL and TBEMPTY. -/

namespace Sys2Proof.Machine

/-! ### The Flash log (R369, R370) -/

/-- A stamp that never occurred. -/
def noStamp : Nat := 2 ^ 64 - 1
/-- Clock code of a die as TCLKST gives it (R363). -/
def State.clkCode (s : State) (die : Nat) : Nat := s.reg 0 (oMod 0x24) / 16 ^ die % 16
def State.logKey (s : State) (ctx : Nat) : BitVec 256 := Config.moduleKey (mgetD s.trust.logKeys ctx 0)
/-- Write a record of a context's log: its first 0x3C bytes are given, number and seal follow. (DEDUCED: log 55) -/
def State.logWrite (s : State) (ctx : Nat) (body : Bytes) : State :=
  let base := s.reg 0 (oLog ctx 0x00)
  let head := s.reg 0 (oLog ctx 0x0C)
  match mget s.ctxs ctx with
  | none => s
  | some c =>
    if base = 0 then s
    else
      let b := body ++ bytesOfNat 4 head
      let mac := kmac128 (s.logKey ctx) (b ++ bytesOfNat 16 c.lastSeal.toNat)
      let at_ := base + 80 * (head % 2 ^ sizeLog (s.reg 0 (oLog ctx 0x08)))
      let s1 := s.poke (cellsAt (hostKey at_) (b ++ bytesOfNat 16 mac.toNat))
      (s1.setCtx ctx { c with lastSeal := mac }).setReg 0 (oLog ctx 0x0C) ((head + 1) % 2 ^ 32)
/-- The first 0x3C bytes of a record. -/
def logBody (kind ctx frame : Nat) (stamps : List Nat) (evt : Nat) : Bytes :=
  bytesOfNat 2 kind ++ bytesOfNat 2 ctx ++ bytesOfNat 4 frame ++ stamps.flatMap (bytesOfNat 8) ++ bytesOfNat 4 evt
/-- An event record of one context. (DEDUCED: log 55) -/
def State.logEvent (s : State) (ctx die ev : Nat) : State :=
  s.logWrite ctx (logBody 2 ctx 0 (List.replicate 6 s.time) (die + 16 * s.clkCode die + 256 * ev))
/-- An event record in every log of the module. (DEDUCED: log 55) -/
def State.logAll (s : State) (die ev : Nat) : State := s.ctxs.foldl (fun s c => s.logEvent c.1 die ev) s
/-- The frame record of a frame. (DEDUCED: log 55) -/
def State.logFrame (s : State) (f : LogFrame) (thand : Option Nat) : State :=
  let home := (mget s.ctxs f.ctx).elim 0 (·.home)
  let st := [f.tin, f.tstart.getD noStamp, f.trend.getD noStamp, f.tenc0.getD noStamp, f.tenc1.getD noStamp,
    thand.getD noStamp]
  s.logWrite f.ctx (logBody 1 f.ctx f.number.toNat st (home + 16 * s.clkCode home + f.status * 65536))
/-- Change the frame with an index. -/
def State.modFrame (s : State) (ix : Nat) (f : LogFrame → LogFrame) : State :=
  { s with sched := { s.sched with frames := s.sched.frames.mapIdx fun i e => if i = ix then f e else e } }

/-! ### Task cards (R267, R268) -/

/-- Bytes of a virtual range for the module, or what stops it. (DEDUCED: log 37) -/
def State.readVirt (s : State) (who : Who) (va : DWord) (n : Nat) : Except (Chk × DWord) Bytes × State :=
  let r := s.rangeOf who .rd va n
  match r.1.2 with
  | some f => (.error f, r.2)
  | none => (.ok ((pieceKeys r.1.1).map (memByte s.mem)), r.2)

/-- The number in a run of a card's bytes. -/
def cardAt (b : Bytes) (o n : Nat) : Nat := natOfBytes ((b.drop o).take n)
/-- TILEi of a card. -/
def cardTile (b : Bytes) (i : Nat) : Nat := cardAt b (0x50 + 8 * i) 8
def cardMode (b : Bytes) (i : Nat) : Nat := cardAt b 0x0E 2 / 4 ^ i % 4
/-- The status 2 checks of R268 that both kinds of class share. (DEDUCED: log 44) -/
def cardBad (b : Bytes) (now : Nat) : Bool :=
  let g := cardAt b
  let tiles := g 0x0D 1
  decide (4 < g 0x08 1) || decide (1 < g 0x09 1) || decide (63 < g 0x0A 1) || decide (10 < g 0x0B 1)
    || decide (15 < g 0x0C 1) || decide (6 < tiles) || decide (4095 < g 0x0E 2) || decide (767 < g 0x16 2)
    || decide (768 < g 0x16 2 + g 0x18 2) || decide (128 < g 0x1A 2) || decide (g 0x20 8 % 8 ≠ 0)
    || decide (g 0x28 8 % 4096 ≠ 0) || decide (2 ^ 48 ≤ g 0x30 8) || decide (g 0x38 8 % 16 ≠ 0)
    || (List.range 6).any (fun i => decide (cardTile b i % 64 ≠ 0) || (decide (tiles ≤ i) && decide (cardTile b i ≠ 0))
        || (decide (i < tiles) && decide (cardMode b i = 3)))
    || decide (2 ^ 24 ≤ g 0x40 8)
    || (if g 0x09 1 = 1 then decide (g 0x42 1 < 2) || decide (g 0x48 8 < now + 2000)
        else decide (g 0x40 8 ≠ 0) || decide (g 0x48 8 ≠ 0))
/-- The checks of a class. (DEDUCED: log 44) -/
def cardClassBad (b : Bytes) : Bool :=
  let g := cardAt b
  if g 0x08 1 = 0 then decide (g 0x00 8 % 64 ≠ 0) || decide (g 0x1C 4 < 2)
  else decide (g 0x0A 1 ≠ 0) || decide (g 0x0B 1 ≠ 0) || decide (g 0x16 2 ≠ 0) || decide (g 0x18 2 ≠ 0)
    || decide (g 0x1A 2 ≠ 0) || decide (g 0x1C 4 ≠ 0) || decide (g 0x20 8 ≠ 0) || decide (g 0x28 8 ≠ 0)
    || decide (g 0x30 8 ≠ 0)
/-- The fields of a card. -/
def cardOf (b : Bytes) : Card :=
  let g := cardAt b
  { kernel := BitVec.ofNat 64 (g 0x00 8), cls := g 0x08 1, gang := g 0x09 1 = 1, waves := g 0x0A 1 % 16 + 1,
    blocks := g 0x0A 1 / 16 % 4 + 1, carve := g 0x0B 1, dies := g 0x0C 1,
    tiles := (List.range (g 0x0D 1)).map fun i => (BitVec.ofNat 64 (cardTile b i), cardMode b i),
    gx := g 0x10 2 + 1, gy := g 0x12 2 + 1, gz := g 0x14 2 + 1, vofs := g 0x16 2, vlen := g 0x18 2,
    argn := g 0x1A 2, privsz := g 0x1C 4, args := BitVec.ofNat 64 (g 0x20 8), priv := BitVec.ofNat 64 (g 0x28 8),
    stagemap := BitVec.ofNat 64 (g 0x30 8), compl := BitVec.ofNat 64 (g 0x38 8), gangId := g 0x40 2,
    gangMembers := g 0x42 1, tick := g 0x48 8 }
/-- Clusters of a class-0 task, jobs of the others. -/
def Card.units (c : Card) : Nat := c.gx * c.gy * c.gz

/-- The status a card gets: 2, 3, 1 in that order, else 0 (R145, R268, R275). -/
def State.cardStatus (s : State) (ctx : Nat) (b : Bytes) : Nat :=
  let c := cardOf b
  let eng := s.reg 0 (oSched ctx 0x10)
  let mine := (s.sched.tasks.filter fun t => t.2.ctx = ctx).length
  if cardBad b s.time || cardClassBad b then 2
  else if !eng.testBit c.cls || (c.gang && !eng.testBit 8) then 3
  else if min 16384 (s.reg 0 (oSched ctx 0x00)) ≤ mine ∨ 16384 ≤ s.sched.tasks.length then 1
  else 0

/-! ### Tile records (R270, R271) -/

/-- Accessor of the Beacon for a context. (DEDUCED: log 37) -/
def State.beacon (s : State) (ctx : Nat) : Who :=
  ⟨ctx, (mget s.ctxs ctx).elim 0 (fun c => c.home * 40), true, 2⟩
/-- The key of a record's first byte, as the walk finds it. (DEDUCED: log 37) -/
def State.recordKey (s : State) (ctx : Nat) (va : DWord) : Option Key :=
  match (s.walk (s.beacon ctx) .rd va.toNat).1 with
  | .ok k _ _ _ => some k
  | _ => none
def recFull (n : Nat) : Bool := n.testBit 0
def recRsv (n : Nat) : Bool := n.testBit 1
def recRdr (n : Nat) : Nat := fieldOf n 31 24
/-- The condition of a mode. -/
def modeMet (mode n : Nat) : Bool :=
  if mode = 1 then !recFull n && !recRsv n && recRdr n = 0 else recFull n && !recRsv n
/-- The record with FULL changed: UPD counts the change. -/
def setFull (n : Nat) (full : Bool) : Nat :=
  if recFull n = full then n
  else n / 2 ^ 128 * 2 ^ 128 + (fieldOf n 127 64 + 1) % 2 ^ 64 * 2 ^ 64 + n % 2 ^ 64 / 2 * 2 + bnat full
def setRsv (n : Nat) (b : Bool) : Nat := n - bnat (recRsv n) * 2 + bnat b * 2
def addRdr (n k : Nat) : Nat := n / 2 ^ 32 * 2 ^ 32 + (recRdr n + k) % 256 * 2 ^ 24 + n % 2 ^ 24
/-- A declared tile meets its mode; a record that cannot be read is found out at its reservation (R272, R274).
(DEDUCED: log 46) -/
def State.tileMet (s : State) (ctx : Nat) (t : DWord × Nat) : Bool :=
  match s.recordKey ctx t.1 with
  | some k => modeMet t.2 (s.peekN k 64)
  | none => true
/-- Evaluate a task: it becomes eligible, or stops being so (R271); an encode task of a frame stamps TREND. -/
def State.evaluate (s : State) (t : Nat) : State :=
  match s.task? t with
  | none => s
  | some k =>
    let met := k.card.tiles.all (s.tileMet k.ctx)
    match k.st with
    | .dispatched => s
    | .waiting =>
      if !met then s
      else
        let s1 := s.setTask t { k with st := .eligible s.time }
        if k.card.cls ≠ 4 then s1
        else match k.frame with
          | none => s1
          | some f => s1.modFrame f fun e =>
            if e.encTask.isNone then { e with encTask := some t, trend := some s.time } else e
    | .eligible _ => if met then s else s.setTask t { k with st := .waiting }
/-- A record is notified: every task that names it is evaluated. -/
def State.notify (s : State) (key : Key) : State :=
  (s.sched.tasks.filter fun t => t.2.card.tiles.any fun r => s.recordKey t.2.ctx r.1 = some key).foldl
    (fun s t => s.evaluate t.1) s
/-- Accept a task (R145, R275): launch number, pool entry, first evaluation. (DESIGN CHOICE: log 76) -/
def State.accept (s : State) (ctx : Nat) (b : Bytes) (frame : Option Nat) : Nat × State :=
  match mget s.ctxs ctx with
  | none => (0, s)
  | some c =>
    let n := s.sched.nextTask
    let t : Task := { ctx := ctx, launch := c.nextLaunch, card := cardOf b, st := .waiting, frame := frame }
    let s1 := (s.setCtx ctx { c with nextLaunch := c.nextLaunch + 1 }).setTask n t
    let s2 := { s1 with sched := { s1.sched with nextTask := n + 1 } }
    let s3 := match frame with
      | some f => s2.modFrame f fun e => { e with tasks := e.tasks ++ [n] }
      | none => s2
    (c.nextLaunch, s3.evaluate n)

/-! ### LAUNCH, TBFULL, TBEMPTY (R145, R146) -/

/-- What LAUNCH does with the card it has read. -/
def State.launchCard (s : State) (w : Nat) (x : SlotId) (v : Wave) (a d : BitVec 7) (b : Bytes) : State :=
  let st := s.cardStatus v.id.ctx b
  let frame := (s.task? v.id.task).bind (·.frame)
  let r := if st = 0 then s.accept v.id.ctx b frame else (0, s)
  r.2.modWave w fun v =>
    (((v.consume [sCode a]).setS d.toNat (BitVec.ofNat 64 (r.1 % 2 ^ 32 * 2 ^ 32 + st))).markDue x).advance x
/-- LAUNCH (R145). -/
def execLaunch (a d : BitVec 7) (s : State) : Host.Outcome State Fault Refusal :=
  s.issue (fun _ _ x v => v.cGate x true (v.sOk a && v.sOk d) [sCode a] [sCode d]) fun s w x v =>
    let va := v.sAt a
    if va.toNat % 128 ≠ 0 then s.trapAt w x 0x04 0 va 0
    else if !s.released v x 3 then s.awaitRelease w x .launch
    else
      let c := s.access (v.who x) .rd false 0 va 128
      match c.1 with
      | .fault cause sub => c.2.trapAt w x cause (descSub cause sub) va 0
      | .miss p o => c.2.pageHold w x .rd p o fun s => s.trapAt w x 0x06 2 va 0
      | .ok k => c.2.launchCard w x v a d (k.keys.map (memByte c.2.mem))

/-- A tile operand of the running task, or the record an s register names. -/
def State.tileAddr (s : State) (v : Wave) (form : Bool) (r : BitVec 7) (idx : BitVec 3) : Option DWord :=
  if form then some (v.sAt r)
  else ((s.task? v.id.task).bind fun t => t.card.tiles[idx.toNat]?).map (·.1)
/-- The atomic step at the record's home: FULL changes, or nothing does. -/
def State.tileSet (s : State) (a : LaneAcc) (full : Bool) : State :=
  match a.keys with
  | [] => s
  | k :: _ =>
    let n := s.peekN k 64
    if recFull n = full then s
    else (s.perform (cellsAt k (bytesOfNat 64 (setFull n full))) (accLines [a])).notify k
/-- What TBFULL and TBEMPTY share. -/
def State.runTile (s : State) (full form : Bool) (r : BitVec 7) (idx : BitVec 3) : Host.Outcome State Fault Refusal :=
  let reads := if form then [sCode r] else []
  s.issue (fun s _ x v => (v.cGate x true (!form || v.sOk r) reads []).and
      (Gate.need (s.tileAddr v form r idx).isSome 0x03)) fun s w x v =>
    let va := (s.tileAddr v form r idx).getD 0
    if va.toNat % 64 ≠ 0 then s.trapAt w x 0x04 0 va 0
    else if v.mem.nLd ≠ 0 ∨ v.mem.nSt ≠ 0 ∨ v.mem.nUa ≠ 0 then s.hold w x .tile
    else
      let q := s.access (v.who x) .rd false 0 va 64
      let c := match q.1 with
        | .ok _ => q.2.access (v.who x) .wr false 0 va 64
        | _ => q
      match c.1 with
      | .fault cause sub => c.2.trapAt w x cause sub va 0
      | .miss p o => c.2.pageHold w x .wr p o fun s => s.trapAt w x 0x06 2 va 0
      | .ok a => (c.2.tileSet a full).modWave w fun v => ((v.consume reads).markDue x).advance x
/-- TBFULL (R146). -/
def execTbfull (form : Bool) (r : BitVec 7) (idx : BitVec 3) (s : State) : Host.Outcome State Fault Refusal :=
  s.runTile true form r idx
/-- TBEMPTY (R146). -/
def execTbempty (form : Bool) (r : BitVec 7) (idx : BitVec 3) (s : State) : Host.Outcome State Fault Refusal :=
  s.runTile false form r idx

end Sys2Proof.Machine
end

