-- ==== Sys2Proof/Machine/Beacon.lean ====
section
/-! DEFINITION. Machine/Beacon.lean: the Beacon (R272, R276, R277), the Buoys' reports and donations (R277, R281, R287),
gangs (R282) and light periods (R284, R285). -/

namespace Sys2Proof.Machine

/-! ### Reports (R277) -/

/-- Resident waves of a core. -/
def State.wavesOn (s : State) (c : Nat) : List Nat := (s.waves.filter fun e => e.1 / 96 = c).map (·.1)
/-- Blocks with a record on a core. -/
def State.blocksOn (s : State) (c : Nat) : List Block := (s.blocks.filter fun e => e.2.die * 40 + e.2.core = c).map (·.2)
/-- The core may be used: it exists, passed start-up, and its die is there (R28). -/
def State.coreOk (s : State) (c : Nat) : Bool := (s.core c).usable && (s.die (c / 40)).usable && !(s.die (c / 40)).lost
def State.coresOf (s : State) (d : Nat) : List Nat := ((List.range 40).map (d * 40 + ·)).filter s.coreOk
/-- Free wave slots and granules of a list of cores. -/
def State.freeSlots (s : State) (cs : List Nat) : Nat := (cs.map fun c => 96 - (s.wavesOn c).length).sum
def State.freeGranules (s : State) (cs : List Nat) : Nat := (cs.map fun c => (s.core c).free).sum
/-- Cores whose carve is c or which are empty. -/
def State.carveCores (s : State) (d c : Nat) : List Nat :=
  (s.coresOf d).filter fun k => (s.core k).carve = c || ((s.wavesOn k).isEmpty && (s.blocksOn k).isEmpty)
/-- A Buoy's report of its free counts. -/
def State.sendReport (s : State) (d : Nat) : State :=
  let cs := s.coresOf d
  let r : Report := ⟨s.freeSlots cs, s.freeGranules cs,
    (List.range 11).map fun c => (c, s.freeSlots (s.carveCores d c), s.freeGranules (s.carveCores d c))⟩
  s.setDie d { s.die d with report := r, reportAt := s.time }
/-- Change a Buoy's queue of unstarted blocks; the time it became empty is noted (R281). -/
def State.setQueue (s : State) (d : Nat) (q : List Pending) : State :=
  let k := s.die d
  s.setDie d { k with queue := q, idleSince := k.idleFrom q s.time }
/-- Clusters of a task that are still to be placed leave every queue. -/
def State.unqueue (s : State) (n : Nat) : State :=
  let keep := fun (l : List Pending) => l.filter fun p => p.task ≠ n
  { s with dies := meach s.dies fun (d : Die) => { d with
    queue := keep d.queue, incoming := keep d.incoming, idleSince := d.idleFrom (keep d.queue) s.time } }
/-- Join the end of a Buoy's queue. -/
def State.enqueue (s : State) (d task : Nat) (ixs : List Nat) : State :=
  ixs.foldl (fun s i =>
    let k := s.die d
    s.setDie d { k with queue := k.queue ++ [⟨k.nextStamp, task, i, s.time⟩], nextStamp := k.nextStamp + 1 }) s
/-- A carve change whose block has left the queue is abandoned (R280). (DEDUCED: log 50) -/
def State.abandon (s : State) (d stamp : Nat) : State :=
  { s with cores := s.cores.map fun e => match e.2.carveTo with
      | some (_, st) => if e.1 / 40 = d ∧ st = stamp then (e.1, { e.2 with carveTo := none }) else e
      | none => e }

/-- BUOY_REPORT: clusters that were donated to the die join its queue, and its free counts are reported.
(DEDUCED: log 51) -/
def execBuoyReport (die : Nat) (s : State) : Host.Outcome State Fault Refusal :=
  if 4 ≤ die ∨ !(s.die die).usable then .next s
  else
    let inc := (s.die die).incoming
    let s1 := inc.foldl (fun s p => s.enqueue die p.task [p.index])
      (s.setDie die { s.die die with incoming := [] })
    .next (s1.sendReport die)

/-! ### Dispatch (R272, R276) -/

/-- Dies a class-0 task's blocks may be placed on (R267, R277, R286). -/
def State.taskDies (s : State) (t : Task) : List Nat :=
  let home := (mget s.ctxs t.ctx).elim 0 (·.home)
  let ok := s.reg 0 (oSched t.ctx 0x14)
  (List.range 4).filter fun d => (if t.card.dies = 0 then d = home else t.card.dies.testBit d)
    && (d = home || ok.testBit d) && (s.die d).usable && !(s.die d).lost
/-- Granules a wave of the task needs, as its header stands. -/
def State.headerGranules (s : State) (t : Task) : Nat :=
  match (s.walk (s.beacon t.ctx) .rd t.card.kernel.toNat).1 with
  | .ok k _ _ _ => (s.peekN (k + 0x0C) 1 + 7) / 8
  | _ => 0
/-- Clusters of the task one batch can hold on a die, as its Buoy last reported. (DEDUCED: log 48) -/
def State.batchSize (s : State) (t : Task) (d : Nat) : Nat :=
  let w := t.card.waves * t.card.blocks
  let r := ((s.die d).report.byCarve.find? fun e => e.1 = t.card.carve).getD (0, 0, 0)
  let g := w * s.headerGranules t
  min (min (t.card.units - t.sent) (64 / w)) (min (r.2.1 / w) (if g = 0 then t.card.units else r.2.2 / g))
/-- Free wave slots a die reports. (DEDUCED: log 48) -/
def State.reported (s : State) (d : Nat) : Nat := (s.die d).report.slots
/-- The die the next batch goes to: the one that reports the most free wave slots, the lowest of equals.
(DEDUCED: log 48) -/
def State.batchDie (s : State) (t : Task) : Option Nat :=
  ((s.taskDies t).filter fun d => 0 < s.batchSize t d).foldl (fun m d => match m with
    | none => some d
    | some e => if s.reported e < s.reported d then some d else some e) none
/-- Engines of a class on a die: four encoders (R19); of the others there is at least one. (DESIGN CHOICE: log 48) -/
def engines (die cls : Nat) : Nat := if cls = 4 then 4 else 1 + Config.moreEngines die cls
/-- Engines of a class that a die has free: every dispatched task of the class holds one. (DESIGN CHOICE: log 48) -/
def State.enginesFree (s : State) (cls d : Nat) : Nat :=
  engines d cls - (s.sched.tasks.filter fun e => e.2.st = .dispatched && e.2.card.cls = cls && e.2.die = d).length
/-- The die an engine task goes to: the one with the most engines free, the lowest of equals. (DEDUCED: log 48) -/
def State.engineDie (s : State) (t : Task) : Option Nat :=
  let home := (mget s.ctxs t.ctx).elim 0 (·.home)
  let free := s.enginesFree t.card.cls
  ((List.range 4).filter fun d => (if t.card.dies = 0 then d = home else t.card.dies.testBit d)
      && (s.die d).usable && !(s.die d).lost && 0 < free d).foldl (fun m d => match m with
    | none => some d
    | some e => if free e < free d then some d else some e) none

/-- Task a stands before task b among those of one class and context (R276). -/
def Task.before (a b : Task) : Bool :=
  match a.st, b.st with
  | .eligible p, .eligible q => p < q || (p = q && a.launch < b.launch)
  | .dispatched, _ => a.card.cls = 0 && a.sent < a.card.units && a.status.isNone
  | _, _ => false
/-- No earlier task of its class and context is still to be sent. (DEDUCED: log 46) -/
def State.first (s : State) (n : Nat) (t : Task) : Bool :=
  !(s.sched.tasks.any fun e => e.1 ≠ n && e.2.ctx = t.ctx && e.2.card.cls = t.card.cls && e.2.before t)
/-- The task can be sent now: credit and a Buoy with room, or an engine's die. (DEDUCED: log 46) -/
def State.sendable (s : State) (t : Task) : Bool :=
  if t.card.cls = 0 then decide (0 < (mget s.ctxs t.ctx).elim 0 (·.credit)) && (s.batchDie t).isSome
  else (s.engineDie t).isSome

/-- The tiles of a task by ascending record address. (DEDUCED: log 46) -/
def tilesUp (l : List (DWord × Nat)) : List (DWord × Nat) :=
  l.foldr (fun a r => (r.takeWhile fun b => b.1.toNat < a.1.toNat) ++ a :: (r.dropWhile fun b => b.1.toNat < a.1.toNat)) []
/-- The first record that stops a task, by a page that misses or by a failure. (DEDUCED: log 46) -/
def State.recordsBad (s : State) (ctx : Nat) : List (DWord × Nat) → Option Chk × State
  | [] => (none, s)
  | t :: r =>
    let q := s.access (s.beacon ctx) .rd false 0 t.1 64
    let c := match q.1 with
      | .ok _ => q.2.access (s.beacon ctx) .wr false 0 t.1 64
      | _ => q
    match c.1 with
    | .ok _ => c.2.recordsBad ctx r
    | .miss p o => (some (.miss p o), c.2)
    | .fault cause sub => (some (.fault cause sub), c.2)
/-- Change a record that can be reached, and notify where FULL changes. -/
def State.recordPut (s : State) (ctx : Nat) (va : DWord) (f : Nat → Nat) : State :=
  let c := s.access (s.beacon ctx) .wr false 0 va 64
  match c.1 with
  | .ok a => match a.keys with
    | k :: _ => c.2.perform (cellsAt k (bytesOfNat 64 (f (c.2.peekN k 64)))) (accLines [a])
    | [] => c.2
  | _ => c.2
/-- A tile as reserved, and as the reservation is undone. -/
def reserveIn (mode n : Nat) : Nat := if mode = 2 then addRdr n 1 else setRsv n true
def reserveOut (mode n : Nat) : Nat := if mode = 2 then addRdr n 255 else setRsv n false
/-- Reserve the records in order; false, with every reservation undone, where one fails (R272). (DEDUCED: log 46) -/
def State.reserve (s : State) (ctx : Nat) : List (DWord × Nat) → Bool × State
  | [] => (true, s)
  | t :: r =>
    let n := (s.recordKey ctx t.1).elim 0 fun k => s.peekN k 64
    if !modeMet t.2 n || (t.2 = 2 && recRdr n = 255) then (false, s)
    else
      match (s.recordPut ctx t.1 (reserveIn t.2)).reserve ctx r with
      | (true, s1) => (true, s1)
      | (false, s1) => (false, s1.recordPut ctx t.1 (reserveOut t.2))

/-- A task's wait for a page (R272, R312): the request is made; late decides where two mapped replies have left the page
missing. (DEDUCED: log 46) -/
def State.taskMiss (s : State) (n : Nat) (t : Task) (die page origin : Nat) (need : Need) (late : State → State) : State :=
  let k := askedFor t.missed page
  if 2 ≤ k then late s
  else (s.request die t.ctx page need origin).setTask n { t with missed := some (page, k) }

/-- The task is dispatched: its records are reserved. -/
def State.dispatched (s : State) (n : Nat) (t : Task) : State :=
  let k := { t with st := .dispatched, missed := none, die := (s.engineDie t).getD 0,
                    residentAt := if t.card.cls ≠ 0 then some s.time else none }
  let s1 := s.setTask n k
  match t.frame with
  | some f => s1.modFrame f fun e => if e.encTask = some n then { e with tenc0 := some s.time } else e
  | none => s1
/-- TASK_DISPATCH (R272, R276). (DEDUCED: log 46) -/
def execTaskDispatch (n : Nat) (s : State) : Host.Outcome State Fault Refusal :=
  match s.task? n with
  | none => .next s
  | some t =>
    match t.st with
    | .waiting => .next s
    | .dispatched => .next s
    | .eligible _ =>
      if t.status.isSome ∨ !s.first n t ∨ !s.sendable t then .next s
      else
        let r := s.recordsBad t.ctx (tilesUp t.card.tiles)
        match r.1 with
        | some (.miss p o) => .next (r.2.taskMiss n t ((mget s.ctxs t.ctx).elim 0 (·.home)) p o .wr fun s =>
            s.setTask n { t with status := some (5, 0) })
        | some _ => .next (r.2.setTask n { t with status := some (5, 0) })
        | none =>
          match r.2.reserve t.ctx (tilesUp t.card.tiles) with
          | (true, s1) => .next (s1.dispatched n t)
          | (false, s1) => .next (s1.setTask n { t with st := .waiting, missed := none })

/-- BATCH_SEND (R277): a batch of the task goes to the die the Beacon chooses. (DEDUCED: log 47, 48) -/
def execBatchSend (n die : Nat) (s : State) : Host.Outcome State Fault Refusal :=
  match s.task? n with
  | none => .next s
  | some t =>
    let credit := (mget s.ctxs t.ctx).elim 0 (·.credit)
    if t.st ≠ .dispatched ∨ t.card.cls ≠ 0 ∨ t.status.isSome ∨ credit ≤ 0 ∨ s.batchDie t ≠ some die then .next s
    else
      let k := s.batchSize t die
      let s1 := s.enqueue die n ((List.range k).map (t.sent + ·))
      let s2 := s1.setTask n { t with sent := t.sent + k }
      .next (s2.modCtx t.ctx fun c => { c with credit := c.credit - (k * t.card.waves * t.card.blocks : Nat) })

/-! ### Light periods (R276, R284, R285) -/

/-- The context has a task that is eligible or partly sent. (DEDUCED: log 47) -/
def State.hasWork (s : State) (ctx : Nat) : Bool :=
  s.sched.tasks.any fun e => e.2.ctx = ctx && e.2.status.isNone && match e.2.st with
    | .eligible _ => true
    | .dispatched => e.2.card.cls = 0 && e.2.sent < e.2.card.units
    | .waiting => false
/-- LIGHT_PERIOD: each context with work gains credit for every period that has passed, and the others lose theirs; the
counts of flits start again. (DESIGN CHOICE: log 11, DEDUCED: log 47) -/
def execLightPeriod (s : State) : Host.Outcome State Fault Refusal :=
  let now := s.time / 512
  let n := now - s.sched.period
  if n = 0 then .next s
  else .next { s with
    sched := { s.sched with period := now },
    dies := meach s.dies fun d => { d with flits := d.flits.filter fun f => now ≤ f.2.2.1 },
    ctxs := s.ctxs.map fun e =>
      let w := max 1 (s.reg 0 (oSched e.1 0x04))
      (e.1, { e.2 with credit := if s.hasWork e.1 then min (e.2.credit + (n * w : Nat)) (4 * w : Nat) else 0 }) }

/-- L2_RESEND: a request that an L2 slice refused is sent again once its hint has passed, none of its core before it to the
same slice being refused; the slice takes it, or gives another hint. ix names core and place in its write path.
(DESIGN CHOICE: log 11) -/
def execL2Resend (ix : Nat) (s : State) : Host.Outcome State Fault Refusal :=
  let core := ix / 2 ^ 16
  let path := (s.core core).path
  match path[ix % 2 ^ 16]? with
  | none => .next s
  | some e =>
    match e.hint with
    | none => .next s
    | some t =>
      let behind := (path.take (ix % 2 ^ 16)).any fun q => q.hint.isSome && q.slices.any e.slices.contains
      if s.time < t ∨ behind then .next s
      else
        let full := s.sliceFull e 0
        let s1 := if full then { s with fresh := s.fresh + 1 } else s
        .next (s1.modCore core fun c => { c with
          path := c.path.set (ix % 2 ^ 16) { e with hint := if full then some s.hintEnd else none } })

/-! ### Donation (R281, R287) -/

/-- Clusters a Buoy gives away, oldest first, up to the slots named, and those it keeps. (DEDUCED: log 51) -/
def State.donate (s : State) (die : Nat) : List Pending → Nat → List Pending × List Pending
  | [], _ => ([], [])
  | p :: r, room =>
    match s.task? p.task with
    | none => let a := s.donate die r room; (a.1, p :: a.2)
    | some t =>
      let n := t.card.waves * t.card.blocks
      if !(s.taskDies t).contains die then let a := s.donate die r room; (a.1, p :: a.2)
      else if room < n then ([], p :: r)
      else let a := s.donate die r (room - n); (p :: a.1, a.2)
/-- DONATION_REQUEST: an idle Buoy asks a peer for work. (DEDUCED: log 51) -/
def execDonationRequest (die peer : Nat) (s : State) : Host.Outcome State Fault Refusal :=
  let k := s.die die
  let n := s.freeSlots (s.coresOf die)
  if 4 ≤ die ∨ 4 ≤ peer ∨ die = peer ∨ !k.usable ∨ !(s.die peer).usable ∨ k.asked.isSome ∨ !k.queue.isEmpty
      ∨ s.time < k.idleSince + 2000 ∨ k.report.slots < 16 then .next s
  else .next (s.setDie die { k with asked := some (peer, n) })
/-- DONATION_ANSWER: the peer of a die's request gives clusters away, or none. (DEDUCED: log 51) -/
def execDonationAnswer (die peer : Nat) (s : State) : Host.Outcome State Fault Refusal :=
  match (s.die die).asked with
  | none => .next s
  | some (p, n) =>
    if p ≠ peer then .next s
    else
      let a := s.donate die (s.die peer).queue n
      let s1 := (a.1.foldl (fun s q => s.abandon peer q.stamp) s).setQueue peer a.2
      let k := s1.die die
      .next ((s1.setDie die { k with
        asked := none, incoming := k.incoming ++ a.1,
        idleSince := if a.1.isEmpty then s.time else k.idleSince }).sendReport peer)

/-! ### Gangs (R282) -/

/-- The gang's tick among the members accepted here. -/
def State.gangTick (s : State) (gang : Nat) : Option Nat :=
  (s.sched.tasks.filter fun e => e.2.card.gang && e.2.card.gangId = gang && !e.2.gangStarted && e.2.status.isNone).foldl
    (fun m e => match m with
      | none => some e.2.card.tick
      | some k => some (min k e.2.card.tick)) none
/-- Its members here. -/
def State.gangOf (s : State) (gang tick : Nat) : List (Nat × Task) :=
  s.sched.tasks.filter fun e => e.2.card.gang && e.2.card.gangId = gang && e.2.card.tick = tick && !e.2.gangStarted
    && e.2.status.isNone
/-- All of a member's waves are placed, or its job is loaded. -/
def State.isResident (s : State) (n : Nat) (t : Task) : Bool :=
  t.st = .dispatched && (t.card.cls ≠ 0 || (t.sent = t.card.units
    && !(s.dies.any fun d => (d.2.queue ++ d.2.incoming).any fun p => p.task = n)))
/-- The member was resident at a time (R282). -/
def Task.residentBy (t : Task) (at_ : Nat) : Bool := t.residentAt.elim false fun r => decide (r ≤ at_)
/-- The module joins gangs: its timebase is aligned over every link that is up (R385). (DEDUCED: log 52) -/
def State.joins (s : State) : Bool := s.links.all fun l => !l.2.up || l.2.aligned
/-- A member on another module, as a report names it. (DEDUCED: log 52) -/
def remoteMember (r : Nat) : Nat := 2 ^ 32 + r
/-- GANG_REPORT: at TICK − 2,000 this module's members are reported once; reports of the other modules are taken until
TICK. (DEDUCED: log 52) -/
def execGangReport (gang : Nat) (remote : List Nat) (s : State) : Host.Outcome State Fault Refusal :=
  match s.gangTick gang with
  | none => .next s
  | some tick =>
    if s.time + 2000 < tick ∨ tick < s.time then .next s
    else
      let rec_ := s.sched.gangs.find? fun g => g.1 = gang && g.2.1 = tick
      let here := match rec_ with
        | some g => g.2.2
        | none => if s.joins then ((s.gangOf gang tick).filter fun e => e.2.residentBy (tick - 2000)).map (·.1) else []
      let all := (here ++ remote.map remoteMember).eraseDups
      .next { s with sched := { s.sched with
        gangs := (gang, tick, all) :: s.sched.gangs.filter fun g => !(g.1 = gang && g.2.1 = tick) } }
/-- A member that does not start: its waves go without issuing, switched-out ones too, and it ends with status 3.
(DEDUCED: log 52) -/
def State.gangDrop (s : State) (n : Nat) (t : Task) : State :=
  let mine := (s.waves.filter fun e => e.2.id.task = n).map (·.1)
  let s1 := mine.foldl (fun s w => (s.dropWave w).poolEvent (w / 96)) s
  let out := (s1.sched.images.filter fun i => i.2.task = n).map (·.1)
  let s2 := { s1 with
    sched := { s1.sched with images := s1.sched.images.filter fun i => i.2.task ≠ n },
    cores := meach s1.cores fun (c : Core) => { c with records := c.records.filter fun r => !out.contains r.image } }
  (s2.unqueue n).setTask n { t with status := some (3, 0) }
/-- GANG_START: at TICK every member starts, or none. (DEDUCED: log 52) -/
def execGangStart (gang : Nat) (s : State) : Host.Outcome State Fault Refusal :=
  match s.gangTick gang with
  | none => .next s
  | some tick =>
    if s.time < tick then .next s
    else
      let mine := s.gangOf gang tick
      let rep := ((s.sched.gangs.find? fun g => g.1 = gang && g.2.1 = tick).map (·.2.2)).getD []
      let ok := mine.all fun e => rep.contains e.1 && e.2.card.gangMembers = rep.length
      let s1 := { s with sched := { s.sched with gangs := s.sched.gangs.filter fun g => !(g.1 = gang && g.2.1 = tick) } }
      if ok then
        let s2 := mine.foldl (fun s e => s.setTask e.1 { e.2 with gangStarted := true }) s1
        .next { s2 with waves := meach s2.waves fun v =>
          if (mine.any fun e => e.1 = v.id.task) then { v with id := { v.id with held := false } } else v }
      else .next (mine.foldl (fun s e => s.gangDrop e.1 e.2) s1)

end Sys2Proof.Machine
end

