-- ==== Sys2Proof/Machine/Float.lean ====
section
/-! DEFINITION. Machine/Float.lean: the V instructions on FP32, packed FP16 and BF16, the special functions, dot
products, conversion and quantisation (R168 to R175). -/

namespace Sys2Proof.Machine

/-- A numeric result as a lane word. -/
def Res.word (r : Res Nat) : Res Word := ⟨BitVec.ofNat 32 r.val, r.fl⟩

/-- a′ and b′ of R164 as values of a format. -/
def finA (f : FFmt) (m : NMod) (a : Nat) : Nat := fmodif f m.absa m.na a
def finB (f : FFmt) (m : NMod) (b : Nat) : Nat := fmodif f m.absb m.nb b
/-- fin(c, 0, NC). -/
def finC (f : FFmt) (nc : Bool) (c : Nat) : Nat := fmodif f false nc c

/-- Sum, difference, product and fused product of modified operands (R164, R168). -/
def fAdd (f : FFmt) (m : FMod) (a b : Nat) : Res Nat :=
  fout f (Rnd.of m.rnd) m.sat (addNum (f.read (finA f m.n a)) (f.read (finB f m.n b)) (Rnd.of m.rnd))
def fSub (f : FFmt) (m : FMod) (a b : Nat) : Res Nat :=
  fout f (Rnd.of m.rnd) m.sat (addNum (f.read (finA f m.n a)) (f.read (finB f m.n b)).flip (Rnd.of m.rnd))
def fMul (f : FFmt) (m : FMod) (a b : Nat) : Res Nat :=
  fout f (Rnd.of m.rnd) m.sat ((f.read (finA f m.n a)).mul (f.read (finB f m.n b)))
def fMac (f : FFmt) (m : FMod) (nc : Bool) (a b c : Nat) : Res Nat :=
  fout f (Rnd.of m.rnd) m.sat
    (dotNum [(f.read (finA f m.n a), f.read (finB f m.n b))] (f.read (finC f nc c)) (Rnd.of m.rnd))

def execFadd (f : V2) (m : FMod) (s : State) : Host.Outcome State Fault Refusal :=
  s.runV2 f fun a b => (fAdd f32 m a.toNat b.toNat).word
def execFsub (f : V2) (m : FMod) (s : State) : Host.Outcome State Fault Refusal :=
  s.runV2 f fun a b => (fSub f32 m a.toNat b.toNat).word
def execFmul (f : V2) (m : FMod) (s : State) : Host.Outcome State Fault Refusal :=
  s.runV2 f fun a b => (fMul f32 m a.toNat b.toNat).word
def execFfma (f : V2) (m : FMod) (nc : Bool) (s : State) : Host.Outcome State Fault Refusal :=
  s.runV2D f fun a b d => (fMac f32 m nc a.toNat b.toNat d.toNat).word
def execFma3 (f : V2) (m : FMod) (nc : Bool) (c : VSrc) (s : State) : Host.Outcome State Fault Refusal :=
  s.runV3 f c fun a b d => (fMac f32 m nc a.toNat b.toNat d.toNat).word
def execFmin (f : V2) (n : NMod) (s : State) : Host.Outcome State Fault Refusal :=
  s.runV2 f fun a b => (fminmax f32 false (finA f32 n a.toNat) (finB f32 n b.toNat)).word
def execFmax (f : V2) (n : NMod) (s : State) : Host.Outcome State Fault Refusal :=
  s.runV2 f fun a b => (fminmax f32 true (finA f32 n a.toNat) (finB f32 n b.toNat)).word
def execFcmp (f : P2) (cond : BitVec 3) (n : NMod) (s : State) : Host.Outcome State Fault Refusal :=
  s.runP2 f fun a b => fcond f32 cond (finA f32 n a.toNat) (finB f32 n b.toNat)
def execFrnd (f : V1) (rnd : BitVec 2) (na absa : Bool) (s : State) : Host.Outcome State Fault Refusal :=
  s.runV1 f fun a => (frndOp (Rnd.of rnd) (fmodif f32 absa na a.toNat)).word
def execFfract (f : V1) (na absa : Bool) (s : State) : Host.Outcome State Fault Refusal :=
  s.runV1 f fun a => (ffractOp (fmodif f32 absa na a.toNat)).word
def execFscale (f : V2) (rnd : BitVec 2) (sat na absa : Bool) (s : State) : Host.Outcome State Fault Refusal :=
  s.runV2 f fun a b => (fscaleOp (Rnd.of rnd) sat (fmodif f32 absa na a.toNat) (sextN 32 b.toNat)).word

/-- A special function of the modified operand (R170). -/
def State.runSf (s : State) (f : V1) (na absa : Bool) (op : Nat → Res Nat) : Host.Outcome State Fault Refusal :=
  s.runV1 f fun a => (op (fmodif f32 absa na a.toNat)).word
def execFrcp (f : V1) (na absa : Bool) (s : State) : Host.Outcome State Fault Refusal := s.runSf f na absa frcpOp
def execFrsq (f : V1) (na absa : Bool) (s : State) : Host.Outcome State Fault Refusal := s.runSf f na absa frsqOp
def execFsqrt (f : V1) (na absa : Bool) (s : State) : Host.Outcome State Fault Refusal := s.runSf f na absa fsqrtOp
def execFexp2 (f : V1) (na absa : Bool) (s : State) : Host.Outcome State Fault Refusal := s.runSf f na absa fexp2Op
def execFlog2 (f : V1) (na absa : Bool) (s : State) : Host.Outcome State Fault Refusal := s.runSf f na absa flog2Op
def execFsin (f : V1) (na absa : Bool) (s : State) : Host.Outcome State Fault Refusal := s.runSf f na absa fsinOp
def execFcos (f : V1) (na absa : Bool) (s : State) : Host.Outcome State Fault Refusal := s.runSf f na absa fcosOp

/-- Element i of a packed lane word (R82, R171). -/
def elem16 (w : Word) (i : Nat) : Nat := w.toNat / 2 ^ (16 * i) % 65536
/-- Two independent elements, whose flags are both raised (R171). -/
def pack2 (lo hi : Res Nat) : Res Word := ⟨BitVec.ofNat 32 (lo.val % 65536 + hi.val % 65536 * 65536), lo.fl ||| hi.fl⟩
def packed2 (op : Nat → Nat → Res Nat) (a b : Word) : Res Word :=
  pack2 (op (elem16 a 0) (elem16 b 0)) (op (elem16 a 1) (elem16 b 1))
def packed3 (op : Nat → Nat → Nat → Res Nat) (a b c : Word) : Res Word :=
  pack2 (op (elem16 a 0) (elem16 b 0) (elem16 c 0)) (op (elem16 a 1) (elem16 b 1) (elem16 c 1))

def execHadd2 (f : V2) (m : FMod) (s : State) : Host.Outcome State Fault Refusal := s.runV2 f (packed2 (fAdd f16 m))
def execHsub2 (f : V2) (m : FMod) (s : State) : Host.Outcome State Fault Refusal := s.runV2 f (packed2 (fSub f16 m))
def execHmul2 (f : V2) (m : FMod) (s : State) : Host.Outcome State Fault Refusal := s.runV2 f (packed2 (fMul f16 m))
def execHfma2 (f : V2) (m : FMod) (nc : Bool) (s : State) : Host.Outcome State Fault Refusal :=
  s.runV2D f (packed3 (fMac f16 m nc))
def execHmin2 (f : V2) (n : NMod) (s : State) : Host.Outcome State Fault Refusal :=
  s.runV2 f (packed2 fun a b => fminmax f16 false (finA f16 n a) (finB f16 n b))
def execHmax2 (f : V2) (n : NMod) (s : State) : Host.Outcome State Fault Refusal :=
  s.runV2 f (packed2 fun a b => fminmax f16 true (finA f16 n a) (finB f16 n b))
def execHcmp2 (f : V2) (cond : BitVec 3) (n : NMod) (s : State) : Host.Outcome State Fault Refusal :=
  s.runV2 f (packed2 fun a b =>
    let r := fcond f16 cond (finA f16 n a) (finB f16 n b)
    ⟨if r.val then 0xFFFF else 0, r.fl⟩)
def execBadd2 (f : V2) (m : FMod) (s : State) : Host.Outcome State Fault Refusal := s.runV2 f (packed2 (fAdd fb16 m))
def execBmul2 (f : V2) (m : FMod) (s : State) : Host.Outcome State Fault Refusal := s.runV2 f (packed2 (fMul fb16 m))
def execBfma2 (f : V2) (m : FMod) (nc : Bool) (s : State) : Host.Outcome State Fault Refusal :=
  s.runV2D f (packed3 (fMac fb16 m nc))

/-- An exact integer result, wrapped, or clamped with SA where the clamp changes it (R172, R176). -/
def intRes (sat signed : Bool) (y : Int) : Res Word :=
  if sat then
    let c := if signed then satInt y (-(2 ^ 31)) (2 ^ 31 - 1) else satInt y 0 (2 ^ 32 - 1)
    ⟨BitVec.ofInt 32 c, flIf (c ≠ y) flSA⟩
  else ⟨BitVec.ofInt 32 y, 0⟩

def byteOf (w : Word) (i : Nat) : Nat := w.toNat / 2 ^ (8 * i) % 256
/-- The four products of bytes and the addend, exact (R172). -/
def dot4 (rd : Nat → Int) (a b : Word) (c : Int) : Int :=
  (List.range 4).foldl (fun y i => y + rd (byteOf a i) * rd (byteOf b i)) c

def execDot4i (f : V2) (sat : Bool) (c : VSrc) (s : State) : Host.Outcome State Fault Refusal :=
  s.runV3 f c fun a b d => intRes sat true (dot4 (sextN 8) a b d.toInt)
def execDot4u (f : V2) (sat : Bool) (c : VSrc) (s : State) : Host.Outcome State Fault Refusal :=
  s.runV3 f c fun a b d => intRes sat false (dot4 (fun n => n) a b d.toNat)

/-- Two products of 16-bit elements and an FP32 addend, summed exactly and rounded once (R172). -/
def dot2 (e : FFmt) (m : FMod) (nc : Bool) (a b c : Word) : Res Nat :=
  let el := fun i => (e.read (finA e m.n (elem16 a i)), e.read (finB e m.n (elem16 b i)))
  fout f32 (Rnd.of m.rnd) m.sat (dotNum [el 0, el 1] (f32.read (finC f32 nc c.toNat)) (Rnd.of m.rnd))
def execDot2h (f : V2) (m : FMod) (nc : Bool) (c : VSrc) (s : State) : Host.Outcome State Fault Refusal :=
  s.runV3 f c fun a b d => (dot2 f16 m nc a b d).word
def execDot2b (f : V2) (m : FMod) (nc : Bool) (c : VSrc) (s : State) : Host.Outcome State Fault Refusal :=
  s.runV3 f c fun a b d => (dot2 fb16 m nc a b d).word

/-- Elements of the format codes of CVT and SCVT (R80); the SE codes never reach it. -/
def elemOf : Fmt → EFmt
  | .fp32 => .flt f32 | .fp16 => .flt f16 | .bf16 => .flt fb16 | .e4m3 => .flt fe4m3 | .e5m2 => .flt fe5m2
  | .i8 => .int 8 true | .u8 => .int 8 false | .i16 => .int 16 true | .i32 => .int 32 true | .u32 => .int 32 false
  | .se8 => .int 8 true | .se5 => .int 8 true | .se3 => .int 8 true

/-- CVT (R173). -/
def execCvt (f : V1) (rnd : BitVec 2) (sat : Bool) (fmt src : Fmt) (s : State) : Host.Outcome State Fault Refusal :=
  s.runV1 f fun a => (cvtElem (elemOf src) (elemOf fmt) (Rnd.of rnd) sat a.toNat).word

/-- Magnitude bits of an SE format (R84). -/
def seBits : SeFmt → Nat
  | .se8 => 7 | .se5 => 4 | .se3 => 2

/-- The block a half-wave's QNT makes: inactive lanes contribute +0 (R174). -/
def qntHalf (m : Nat) (act : Mask) (a : Lanes) (h : Nat) : QBlock :=
  qntBlock ((List.range 48).map fun i =>
    f32.read (if mbit act (48 * h + i) then (laneAt a (48 * h + i)).toNat else 0)) m
def qntLane (m : Nat) (q : QBlock) (i : Nat) : Word :=
  BitVec.ofNat 32 (seWord m q.e (q.mu.getD (i / 2) 0) (q.s.getD i false) (q.mg.getD i 0))

/-- QNT (R174): each half-wave with an active lane is one block. -/
def execQnt (f : V1) (fmt : SeFmt) (s : State) : Host.Outcome State Fault Refusal :=
  s.issue (fun s w x v => s.vGate w v x { g := f.g, srcs := [f.a], tgt := .reg f.d }) fun s w x v =>
    let act := v.active x f.g
    let a := s.readV v x f.a
    let m := seBits fmt
    let q0 := qntHalf m act a 0
    let q1 := qntHalf m act a 1
    s.vDone w x v { g := f.g, srcs := [f.a], tgt := .reg f.d } fun t =>
      if t < 48 then ⟨qntLane m q0 t, q0.fl⟩ else ⟨qntLane m q1 (t - 48), q1.fl⟩

/-- DQNT (R175): exact, without flags. -/
def execDqnt (f : V1) (fmt : SeFmt) (s : State) : Host.Outcome State Fault Refusal :=
  s.runV1 f fun a => pureRes (BitVec.ofNat 32 (roundNum f32 .rne (seLane (seBits fmt) a.toNat)).val)

end Sys2Proof.Machine
end

