-- ==== Sys2Proof/Machine/Moves.lean ====
section
/-! DEFINITION. Machine/Moves.lean: V moves, selects and predicates (R165 to R167). -/

namespace Sys2Proof.Machine

/-- The operations of KLOP and PLOP (R156). -/
def klopBit (op : BitVec 3) (a b : Bool) : Bool :=
  match op.toNat with
  | 0 => a && b | 1 => a || b | 2 => a != b | 3 => a && !b | 4 => a || !b | 5 => a == b | 6 => !(a && b)
  | _ => !(a || b)

/-- MOV (R165). -/
def execMov (f : V1) (s : State) : Host.Outcome State Fault Refusal := s.runV1 f pureRes

/-- A V instruction that also reads the wave: f gives each lane's result from the wave and its sources' lanes. -/
def State.runVW (s : State) (op : VOp) (f : State → Wave → SlotId → List Lanes → Nat → Res Word) :
    Host.Outcome State Fault Refusal :=
  s.issue (fun s w x v => s.vGate w v x op) fun s w x v =>
    s.vDone w x v op (f s v x (op.srcs.map (s.readV v x)))

/-- SEL (R165): d := (p[C] xor NC) ? a : b. -/
def execSel (f : V2) (nc : Bool) (p : BitVec 5) (s : State) : Host.Outcome State Fault Refusal :=
  s.runVW { g := f.g, srcs := [f.a, f.b], tgt := .reg f.d } fun _ v _ l t =>
    pureRes (if mbit (v.preg p.toNat) t != nc then srcAt l 0 t else srcAt l 1 t)

/-- The values SREAD selects (R166); act is the mask of its active lanes. -/
def State.selVal (s : State) (v : Wave) (act : Mask) : Sel → Word
  | .flags => v.regs.flags.setWidth 32
  | .flagsc => v.regs.flags.setWidth 32
  | .sendst => v.regs.sendst.setWidth 32
  | .act n => BitVec.ofNat 32 (act.toNat / 2 ^ (32 * n.val))
  | .special n => (s.special v n).setWidth 32
  | .timehi => BitVec.ofNat 32 (s.time / 2 ^ 32)

/-- SREAD (R166). The flags word is cleared by flagsc in the same step, where a lane is active (R92). -/
def execSread (g : Bool) (d : VDst) (k : Sel) (s : State) : Host.Outcome State Fault Refusal :=
  s.issue (fun s w x v => s.vGate w v x { g := g, srcs := [], tgt := .reg d }) fun s w x v =>
    let act := v.active x g
    let u := if k = .flagsc ∧ act ≠ 0 then { v with regs := { v.regs with flags := 0 } } else v
    s.vDone w x u { g := g, srcs := [], tgt := .reg d } fun _ => pureRes (s.selVal v act k)

/-- PLOP (R165). -/
def execPlop (g : Bool) (pd pa pb : BitVec 5) (op : BitVec 3) (s : State) : Host.Outcome State Fault Refusal :=
  s.runVW { g := g, srcs := [], tgt := .pred pd } fun _ v _ _ t =>
    pureRes (if klopBit op (mbit (v.preg pa.toNat) t) (mbit (v.preg pb.toNat) t) then 1 else 0)

/-- PSET (R165). -/
def execPset (g : Bool) (pd : BitVec 5) (a : VSrc) (s : State) : Host.Outcome State Fault Refusal :=
  s.runV { g := g, srcs := [a], tgt := .pred pd } fun l t => pureRes (srcAt l 0 t)

/-- PMOV d, preds (R167). -/
def execPmov (g : Bool) (d : VDst) (s : State) : Host.Outcome State Fault Refusal :=
  s.runVW { g := g, srcs := [], tgt := .reg d } fun _ v _ _ t => pureRes (v.predWord t)

/-- PMOV preds, a (R167). -/
def execPmovPreds (g : Bool) (a : VSrc) (s : State) : Host.Outcome State Fault Refusal :=
  s.runV { g := g, srcs := [a], tgt := .preds } fun l t => pureRes (srcAt l 0 t)

end Sys2Proof.Machine
end

