-- ==== Sys2Proof/Machine/Exchange.lean ====
section
/-! DEFINITION. Machine/Exchange.lean: V instructions that exchange values between lanes (R182 to R187). -/

namespace Sys2Proof.Machine

/-- Segment size (R182). -/
def segSize (n : Fin 9) : Nat := [96, 48, 32, 24, 16, 12, 8, 4, 2].getD n 96

/-- A shuffle: src gives the source lane from the lane, the segment size and the lane's count (R183). -/
def State.runShfl (s : State) (f : V2) (seg : Fin 9) (src : Nat → Nat → Nat → Nat) : Host.Outcome State Fault Refusal :=
  s.runV { g := f.g, srcs := [f.a, f.b], tgt := .reg f.d, coll := true } fun l t =>
    pureRes (srcAt l 0 (src t (segSize seg) (srcAt l 1 t).toNat))

def shflSrc (t g u : Nat) : Nat := t - t % g + u % g
def shflxSrc (t g u : Nat) : Nat := if (t % g) ^^^ u < g then t - t % g + ((t % g) ^^^ u) else t
def shflupSrc (t g u : Nat) : Nat := if u ≤ t % g then t - u else t
def shfldnSrc (t g u : Nat) : Nat := if t % g + u < g then t + u else t
def execShfl (f : V2) (seg : Fin 9) (s : State) : Host.Outcome State Fault Refusal := s.runShfl f seg shflSrc
def execShflx (f : V2) (seg : Fin 9) (s : State) : Host.Outcome State Fault Refusal := s.runShfl f seg shflxSrc
def execShflup (f : V2) (seg : Fin 9) (s : State) : Host.Outcome State Fault Refusal := s.runShfl f seg shflupSrc
def execShfldn (f : V2) (seg : Fin 9) (s : State) : Host.Outcome State Fault Refusal := s.runShfl f seg shfldnSrc

/-- VOTE's result in every active lane (R185). -/
def voteVal (act p : Mask) : VoteOp → Word
  | .any _ => if act &&& p ≠ 0 then 1 else 0
  | .all _ => if act &&& ~~~p = 0 then 1 else 0
  | .eq _ => if act &&& p = 0 ∨ act &&& ~~~p = 0 then 1 else 0
  | .ballot n _ => BitVec.ofNat 32 ((act &&& p).toNat / 2 ^ (32 * n.val))
def voteTgt : VoteOp → VTgt
  | .any d => .pred d
  | .all d => .pred d
  | .eq d => .pred d
  | .ballot _ d => .reg d
/-- VOTE (R185). -/
def execVote (g : Bool) (op : VoteOp) (pa : BitVec 5) (s : State) : Host.Outcome State Fault Refusal :=
  s.runVW { g := g, srcs := [], tgt := voteTgt op, coll := true } fun _ v x _ _ =>
    pureRes (voteVal (v.active x g) (v.preg pa.toNat) op)

/-- The lane RDLANE and WRLANE name: b in the lowest active lane (R184). -/
def namedLane (b : Lanes) (act : Mask) : Nat := match lowest act with
  | some t => (laneAt b t).toNat
  | none => 0
/-- The gate of RDLANE and WRLANE: their own fault comes after the common checks and waits (R118, R184). -/
def State.laneGate (s : State) (w : Nat) (v : Wave) (x : SlotId) (f : V2) : Gate :=
  (s.vGate w v x { g := f.g, srcs := [f.a, f.b], tgt := .reg f.d, coll := true }).and <|
    Gate.need (v.active x f.g = 0 || namedLane (s.readV v x f.b) (v.active x f.g) ≤ 95) 0x03
/-- RDLANE (R184). -/
def execRdlane (f : V2) (s : State) : Host.Outcome State Fault Refusal :=
  s.issue (fun s w x v => s.laneGate w v x f) fun s w x v =>
    let a := s.readV v x f.a
    let n := namedLane (s.readV v x f.b) (v.active x f.g)
    s.vDone w x v { g := f.g, srcs := [f.a, f.b], tgt := .reg f.d, coll := true } fun _ => pureRes (laneAt a n)

/-- A destination's word in a lane, as it stands. -/
def Wave.dstLane (v : Wave) (x : SlotId) (d : VDst) (t : Nat) : Word :=
  match d with
  | .v n => laneAt (v.vreg (v.phys x n)) t
  | .o n => laneAt (v.oreg n) t
  | .qa => 0
  | .qg => 0
  | .ql => 0
  | .qn => 0
/-- WRLANE (R184): only the named lane is written, and only where it is active. (DEDUCED: log 19) -/
def execWrlane (f : V2) (s : State) : Host.Outcome State Fault Refusal :=
  s.issue (fun s w x v => s.laneGate w v x f) fun s w x v =>
    let act := v.active x f.g
    let n := namedLane (s.readV v x f.b) act
    let val := match lowest act with
      | some t => laneAt (s.readV v x f.a) t
      | none => 0
    s.vDone w x v { g := f.g, srcs := [f.a, f.b], tgt := .reg f.d, coll := true } fun t =>
      pureRes (if t = n then val else v.dstLane x f.d t)

/-- The operations of RED and SCAN (R186). -/
def redOp (op : Nat) (rnd : BitVec 2) (a x : Word) : Res Word :=
  match op with
  | 0 => pureRes (a + x)
  | 1 => pureRes (if a.toInt ≤ x.toInt then a else x)
  | 2 => pureRes (if a.toInt ≤ x.toInt then x else a)
  | 3 => pureRes (if a.toNat ≤ x.toNat then a else x)
  | 4 => pureRes (if a.toNat ≤ x.toNat then x else a)
  | 5 => pureRes (a &&& x)
  | 6 => pureRes (a ||| x)
  | 7 => pureRes (a ^^^ x)
  | 8 => (fAdd f32 ⟨rnd, false, ⟨false, false, false, false⟩⟩ a.toNat x.toNat).word
  | 9 => (fminmax f32 false a.toNat x.toNat).word
  | _ => (fminmax f32 true a.toNat x.toNat).word
/-- The accumulator from the first active lane of a segment. -/
def redStart (op : Nat) (a : Word) : Res Word :=
  match f32.read a.toNat with
  | .nan sig => if 8 ≤ op then ⟨BitVec.ofNat 32 f32.qnan, flIf sig flNV⟩ else pureRes a
  | .inf _ => pureRes a
  | .fin _ _ _ => pureRes a
/-- Running values over the active lanes of a segment, in ascending order, each with its flags so far (R186). -/
def scanLanes (op : Nat) (rnd : BitVec 2) (a : Lanes) : Option (Res Word) → List Nat → List (Nat × Res Word)
  | _, [] => []
  | none, t :: ts =>
    let r := redStart op (laneAt a t)
    (t, r) :: scanLanes op rnd a (some r) ts
  | some acc, t :: ts =>
    let r := redOp op rnd acc.val (laneAt a t)
    let r1 : Res Word := ⟨r.val, acc.fl ||| r.fl⟩
    (t, r1) :: scanLanes op rnd a (some r1) ts
/-- All running values of the wave, segment by segment. -/
def scanAll (op : Nat) (rnd : BitVec 2) (g : Nat) (a : Lanes) (act : Mask) : List (Nat × Res Word) :=
  (List.range (96 / g)).flatMap fun k =>
    scanLanes op rnd a none ((lanesOf act).filter fun t => t / g = k)
def scanAt (l : List (Nat × Res Word)) (t : Nat) : Res Word :=
  match l.find? fun e => e.1 = t with
  | some e => e.2
  | none => pureRes 0
/-- The last running value of lane t's segment. -/
def redAt (l : List (Nat × Res Word)) (g t : Nat) : Res Word :=
  match l.reverse.find? fun e => e.1 / g = t / g with
  | some e => e.2
  | none => pureRes 0

/-- RED (R186). -/
def execRed (f : V1) (seg : Fin 9) (op : Fin 11) (rnd : BitVec 2) (s : State) : Host.Outcome State Fault Refusal :=
  s.issue (fun s w x v => s.vGate w v x { g := f.g, srcs := [f.a], tgt := .reg f.d, coll := true }) fun s w x v =>
    let l := scanAll op rnd (segSize seg) (s.readV v x f.a) (v.active x f.g)
    s.vDone w x v { g := f.g, srcs := [f.a], tgt := .reg f.d, coll := true } fun t => redAt l (segSize seg) t
/-- SCAN (R186). -/
def execScan (f : V1) (seg : Fin 9) (op : Fin 11) (rnd : BitVec 2) (s : State) : Host.Outcome State Fault Refusal :=
  s.issue (fun s w x v => s.vGate w v x { g := f.g, srcs := [f.a], tgt := .reg f.d, coll := true }) fun s w x v =>
    let l := scanAll op rnd (segSize seg) (s.readV v x f.a) (v.active x f.g)
    s.vDone w x v { g := f.g, srcs := [f.a], tgt := .reg f.d, coll := true } fun t => scanAt l t

end Sys2Proof.Machine
end

