-- ==== Sys2Proof/Machine/Placement.lean ====
section
/-! DEFINITION. Machine/Placement.lean: kernel headers and trap tables (R126, R127, R268, R292), the placement of blocks
by a Buoy (R30, R40, R269, R278, R279, R288), carve changes (R55, R280), the retirement of waves (R135, R235) and the end
of tasks (R273, R274). -/

namespace Sys2Proof.Machine

/-! ### Kernel headers (R126, R127, R292) -/

/-- The outcome of a read the Buoy makes: done, failed with a cause, or waiting for a page. -/
inductive Got (α : Type) where
  | ok (a : α)
  | bad (cause : Nat)
  | miss (page origin : Nat)

/-- Bytes a Buoy reads; a failed check carries its cause. (DEDUCED: log 37, 54) -/
def State.buoyRead (s : State) (who : Who) (va : DWord) (n : Nat) : Got Bytes × State :=
  match s.readVirt who va n with
  | (.ok b, s1) => (.ok b, s1)
  | (.error (.miss p o, _), s1) => (.miss p o, s1)
  | (.error (c, _), s1) => (.bad c.cause, s1)

/-- A mailbox range is legal for the registers held at placement (R72). (DEDUCED: log 20) -/
def mailboxOk (mb vregs sregs : Nat) : Bool :=
  if mb.testBit 31 then
    let n := fieldOf mb 15 8
    let lim := if mb.testBit 30 then sregs else (vregs + 7) / 8 * 8
    fieldOf mb 29 16 = 0 && 1 ≤ n && n ≤ 32 && mb % 256 + n ≤ lim
  else mb = 0
/-- The values of R126 are in range. -/
def headerLegal (b : Bytes) : Bool :=
  let g := cardAt b
  let st := max 1 (g 0x14 1)
  g 0x00 4 = 0x4B475341 && g 0x05 1 = 1 && g 0x06 2 < 8 && g 0x08 4 % 4 = 0 && 64 ≤ g 0x08 4 && g 0x0C 1 ≤ 160
    && g 0x0D 1 ≤ 128 && g 0x0D 1 % 16 = 0 && g 0x0E 2 ≤ 640 && mailboxOk (g 0x10 4) (g 0x0C 1) (g 0x0D 1) && st ≤ 8
    && g 0x15 1 ≤ 4 && g 0x16 2 = 0 && (st = 1 || (g 0x18 4 ≠ 0 && g 0x18 4 % 384 = 0)) && g 0x1C 4 % 4 = 0
    && natOfBytes (b.drop 0x20) = 0 && ((g 0x06 2).testBit 2 = (g 0x10 4).testBit 31)
/-- The header's facts, the trap table apart. -/
def kernelOf (va : DWord) (b : Bytes) : Kernel :=
  let g := cardAt b
  let mb := g 0x10 4
  { base := va, entry := BitVec.ofNat 48 (va.toNat + g 0x08 4), matrix := (g 0x06 2).testBit 0,
    ordered := (g 0x06 2).testBit 1, mailboxes := (g 0x06 2).testBit 2, mbScalar := mb.testBit 30,
    mbFirst := mb % 256, mbCount := fieldOf mb 15 8, vregs := g 0x0C 1, sregs := g 0x0D 1, pad := g 0x0E 2,
    stages := max 1 (g 0x14 1), loopDepth := g 0x15 1, ring := g 0x18 4, handlers := [] }
/-- The entries of a trap table. -/
def tableOf (b : Bytes) : List Nat := (List.range 32).map fun i => cardAt b (4 * i) 4
def tableLegal (l : List Nat) : Bool :=
  (List.range 32).all fun i =>
    let e := l.getD i 0
    if i = 0 ∨ 0x15 ≤ i then e = 0 else e = 0 || (e % 4 = 0 && 64 ≤ e)
/-- Read a kernel header and its trap table. (DEDUCED: log 54) -/
def State.readKernel (s : State) (who : Who) (va : DWord) : Got Kernel × State :=
  match s.buoyRead who va 64 with
  | (.bad c, s1) => (.bad c, s1)
  | (.miss p o, s1) => (.miss p o, s1)
  | (.ok b, s1) =>
    if !headerLegal b then (.bad 0, s1)
    else
      let k := kernelOf va b
      let tt := cardAt b 0x1C 4
      if tt = 0 then (.ok k, s1)
      else match s1.buoyRead who (va + BitVec.ofNat 64 tt) 128 with
        | (.bad c, s2) => (.bad c, s2)
        | (.miss p o, s2) => (.miss p o, s2)
        | (.ok t, s2) => if tableLegal (tableOf t) then (.ok { k with handlers := tableOf t }, s2) else (.bad 0, s2)
/-- Granules of a wave of a kernel (R56). -/
def Kernel.granules (k : Kernel) : Nat := (k.vregs + 7) / 8
/-- Bytes of a block's pad allocation, rings included, in whole KiB (R42, R55). -/
def Kernel.padBytes (k : Kernel) : Nat := (k.pad * 1024 + (k.stages - 1) * k.ring + 1023) / 1024 * 1024
/-- The checks of R268 that need the card. -/
def Card.fits (c : Card) (k : Kernel) : Bool :=
  c.argn ≤ k.sregs && k.pad * 1024 + (k.stages - 1) * k.ring ≤ c.carve * 65536
    && (k.stages = 1 || (c.units = 1 && c.blocks = 1))
    && (List.range 16).all fun i => fieldOf c.stagemap.toNat (3 * i + 2) (3 * i) < k.stages
/-- The argument block's registers (R269). -/
def argMap (b : Bytes) (n : Nat) : Map DWord :=
  (List.range n).foldl (fun m i => mput m i (BitVec.ofNat 64 (cardAt b (8 * i) 8))) []

/-! ### What one core can take (R278, R279) -/

/-- Lowest free offset of a core's pad for n bytes. (DEDUCED: log 54) -/
def padOffset (allocs : List (Nat × Nat)) (n : Nat) : Nat :=
  let free := fun (o : Nat) => allocs.all fun a => o + n ≤ a.1 || a.1 + a.2 ≤ o
  ((0 :: allocs.map fun a => (a.1 + a.2 + 1023) / 1024 * 1024).filter free).foldl min (2 ^ 30)
/-- Slots for n waves of a context, in order: the partition with the fewest waves, its lowest free slot. -/
def State.slotsFor (s : State) (core ctx : Nat) : Nat → List Nat → Option (List Nat)
  | 0, acc => some acc
  | n + 1, acc =>
    let here := (s.waves.filter fun e => e.1 / 96 = core)
    let mem := fun (p : Nat) => (here.filter fun e => e.1 % 96 / 12 = p).map fun e => e.2.id.ctx
    let count := fun (p : Nat) => (mem p).length + (acc.filter fun a => a / 12 = p).length
    let free := fun (p : Nat) => ((List.range 12).map (12 * p + ·)).filter fun i =>
      !(here.any fun e => e.1 % 96 = i) && !acc.contains i
        && !((s.core core).records.any fun r => r.slot = i && r.ctx = ctx)
    let ok := (List.range 8).filter fun p => (mem p).all (fun c => c = ctx) && !(free p).isEmpty
    let best := ok.foldl (fun m p => match m with
      | none => some p
      | some q => if count p < count q then some p else some q) none
    match best with
    | none => none
    | some p => match free p with
      | [] => none
      | i :: _ => s.slotsFor core ctx n (acc ++ [i])
/-- Another context holds a part of a vault range (R278). -/
def Core.vaultTaken (c : Core) (ctx ofs len : Nat) : Bool :=
  decide (len ≠ 0) &&
    c.vault.any fun v => decide (v.1 ≠ ctx) && decide (v.2.1 < ofs + len) && decide (ofs < v.2.1 + v.2.2.1)
/-- What placement on a core would use: pad offset and slots; none where it does not qualify. (DEDUCED: log 50) -/
def State.fitsCore (s : State) (core ctx carve n gran pad vofs vlen : Nat) : Option (Nat × List Nat) :=
  let c := s.core core
  let bs := s.blocksOn core
  let off := padOffset (bs.map fun b => (b.padOfs, b.padAll)) pad
  let empty := (s.wavesOn core).isEmpty && bs.isEmpty
  if !s.coreOk core || c.carveTo.isSome || !(c.carve = carve || empty) || !c.claims.isEmpty || decide (c.free < n * gran)
      || decide (carve * 65536 < off + pad)
      || c.vaultTaken ctx vofs vlen
    then none
  else (s.slotsFor core ctx n []).map fun l => (off, l)

/-- Set a core's carve; lines of the L1 that lie in the range that passes to the pad are dropped, whichever they are.
(DESIGN CHOICE: log 38, DEDUCED: log 50) -/
def State.setCarve (s : State) (core carve : Nat) : State :=
  let c := s.core core
  if c.carve = carve then s
  else if carve < c.carve then s.setCore core { c with carve := carve }
  else
    let s1 := { s with fresh := s.fresh + c.l1.length }
    s1.setCore core { c with
      carve := carve, l1 := ((c.l1.zipIdx.filter fun e => Config.freeBit (s.fresh + e.2)).map (·.1)).take (l1Lines carve) }

/-! ### Placing blocks (R30, R269, R279, R288) -/

/-- A run of bytes reads 0. -/
def State.wipe (s : State) (k n : Nat) : State :=
  { s with mem := s.mem.filter fun c => !(decide (k ≤ c.1) && decide (c.1 < k + n)) }
/-- A new block's record: its pad reads 0, its vault range is granted. The core's L1 is dropped: the block's accesses come
after whatever its launch and its tile records order before it (R145, R262). (DESIGN CHOICE: log 38, 76) -/
def State.addBlock (s : State) (ix : Nat) (b : Block) : State :=
  let core := b.die * 40 + b.core
  let s1 := ((s.wipe (padKey core b.padOfs) b.padAll).dropL1 core).setBlock ix b
  if b.vlen = 0 then s1
  else s1.modCore core fun c => { c with vault := c.vault ++ [(b.ctx, b.vofs, b.vlen, ix)] }
/-- The state a wave starts in (R30): its start counts as a region entry with LIVE 0 (R298).
(DESIGN CHOICE: log 10) -/
def startWave (id : WId) (args : Map DWord) (clk : Nat) : Wave :=
  let v : Wave :=
    { id := id, regs := { s := args, g := id.kern.granules, h := id.kern.sregs / 16 },
      ctl := { a := { phase := .run, pc := id.kern.entry, mask := allLanes }, live := allLanes }, regnClk := clk }
  { v with latch := some ⟨.A, v.regs.latched 0, v.ctl, v.feed, v.trap⟩ }
/-- A wave is placed: its slot's generations advance and its granules leave the pool (R50, R76). -/
def State.addWave (s : State) (w : Nat) (v : Wave) : State :=
  ((s.bumpGen w).modCore (w / 96) fun c => { c with free := c.free - v.regs.g }).setWave w v

/-- A spill area is translated and may be written (R40). -/
def State.areaChk (s : State) (who : Who) (priv : DWord) : Got Unit × State :=
  let r := s.rangeOf who .wr priv 0x1800
  match r.1.2 with
  | none => (.ok (), r.2)
  | some (.miss p o, _) => (.miss p o, r.2)
  | some (c, _) => (.bad c.cause, r.2)
/-- (DEDUCED: log 54) -/
def State.areasChk (s : State) (who : Who) : List DWord → Got Unit × State
  | [] => (.ok (), s)
  | a :: r => match s.areaChk who a with
    | (.ok _, s1) => s1.areasChk who r
    | e => e

/-- Private memory of global wave number g (R269). -/
def Card.privAt (c : Card) (g : Nat) : DWord := c.priv + BitVec.ofNat 64 (g * c.privsz * 4096)
/-- Cores for the blocks of a cluster: the lowest quad with enough that qualify, and its lowest cores (R278).
(DESIGN CHOICE: log 49) -/
def quadFor (die n : Nat) (fits : Nat → Option (Nat × List Nat)) : Option (List Nat) :=
  (List.range 10).findSome? fun q =>
    let l := ((List.range 4).map (die * 40 + 4 * q + ·)).filter fun c => (fits c).isSome
    if n ≤ l.length then some (l.take n) else none
/-- The cores receive the ranks in an order that is not defined (R41). (DESIGN CHOICE: log 49) -/
def shuffle (fresh : Nat) (l : List Nat) : Nat → List Nat → List Nat
  | 0, acc => acc.reverse
  | n + 1, acc =>
    let free := l.filter fun c => !acc.contains c
    shuffle fresh l n ((free.getD (Config.freeNat (fresh + n) % max 1 free.length) 0) :: acc)

/-- The waves of one block (R269, R279). -/
def State.addWaves (s0 : State) (n : Nat) (t : Task) (k : Kernel) (args : Map DWord) (die core block g0 : Nat)
    (slots : List Nat) : State :=
  slots.zipIdx.foldl (fun s e =>
    let id : WId := { die := die, core := core % 40, slot := e.1, ctx := t.ctx, task := n, block := block, widx := e.2,
                      stage := fieldOf t.card.stagemap.toNat (3 * e.2 + 2) (3 * e.2), priv := t.card.privAt (g0 + e.2),
                      kern := k, held := t.card.gang && !t.gangStarted }
    s.addWave (core * 96 + e.1) (startWave id args (s.die die).clk)) s0
/-- A cluster on chosen cores, block r on the r-th (R278, R279). (DESIGN CHOICE: log 38, 49, 76, DEDUCED: log 54) -/
def State.putCluster (s : State) (n : Nat) (t : Task) (k : Kernel) (args : Map DWord) (die ix : Nat) (cores : List Nat) :
    State :=
  let c := t.card
  let cl := s.sched.nextCluster
  let s1 := { s with sched := { s.sched with nextCluster := cl + 1 } }
  cores.zipIdx.foldl (fun s e =>
    match s.fitsCore e.1 t.ctx c.carve c.waves k.granules k.padBytes (c.vofs * 4096) (c.vlen * 4096) with
    | none => s
    | some (off, slots) =>
      let b := s.sched.nextBlock
      let blk : Block :=
        { die := die, core := e.1 % 40, ctx := t.ctx, task := n, cluster := cl, rank := e.2, cx := ix % c.gx,
          cy := ix / c.gx % c.gy, cz := ix / (c.gx * c.gy), waves := slots.map (e.1 * 96 + ·), padOfs := off,
          padLen := k.pad * 1024, padAll := k.padBytes, valid := [], rings := [], vofs := c.vofs * 4096,
          vlen := c.vlen * 4096, carve := c.carve }
      let s2 := { s with sched := { s.sched with nextBlock := b + 1 } }
      ((s2.setCarve e.1 c.carve).addBlock b blk).addWaves n t k args die e.1 b (ix * c.blocks * c.waves + e.2 * c.waves)
        slots) s1

/-- A failed read or check at placement: the task ends with the bad-header status, and no more of it is placed (R268).
(DEDUCED: log 54) -/
def State.badHeader (s : State) (n : Nat) (t : Task) (cause : Nat) : State :=
  (s.unqueue n).setTask n { t with status := some (t.status.getD (2, cause)), missed := none }

/-- Everything a Buoy reads before it places a cluster (R268). -/
def State.readAll (s : State) (who : Who) (t : Task) (ix : Nat) : Got (Kernel × Map DWord) × State :=
  match s.readKernel who t.card.kernel with
  | (.bad c, s1) => (.bad c, s1)
  | (.miss p o, s1) => (.miss p o, s1)
  | (.ok k, s1) =>
    if !t.card.fits k then (.bad 0, s1)
    else match s1.buoyRead who t.card.args (8 * t.card.argn) with
      | (.bad c, s2) => (.bad c, s2)
      | (.miss p o, s2) => (.miss p o, s2)
      | (.ok b, s2) =>
        let w := t.card.waves * t.card.blocks
        match s2.areasChk who ((List.range w).map fun i => t.card.privAt (ix * w + i)) with
        | (.bad c, s3) => (.bad c, s3)
        | (.miss p o, s3) => (.miss p o, s3)
        | (.ok _, s3) => (.ok (k, argMap b t.card.argn), s3)

/-- The time is noted at which the last of a task's clusters has been placed (R282). -/
def State.noteResident (s : State) (n : Nat) : State :=
  match s.task? n with
  | some t => if t.residentAt.isNone && s.isResident n t then s.setTask n { t with residentAt := some s.time } else s
  | none => s
/-- The cores a cluster of n blocks goes to, of those that qualify: one block to the lowest, more to a quad (R278). -/
def State.coresFor (s : State) (die n : Nat) (fits : Nat → Option (Nat × List Nat)) : Option (List Nat) :=
  if n = 1 then ((s.coresOf die).find? fun q => (fits q).isSome).map fun q => [q] else quadFor die n fits
/-- BLOCK_PLACEMENT: entry ix of a die's queue of unstarted blocks is placed, where it can be. (DEDUCED: log 54) -/
def execBlockPlacement (die ix : Nat) (s : State) : Host.Outcome State Fault Refusal :=
  match (s.die die).queue[ix]? with
  | none => .next s
  | some p =>
    match s.task? p.task with
    | none => .next (s.setQueue die ((s.die die).queue.eraseIdx ix))
    | some t =>
      let stopped : Bool := match s.liveCtx t.ctx with
        | some c => c.sealed || c.migrating || c.snapping
        | none => true
      if t.status.isSome then .next (s.setQueue die ((s.die die).queue.eraseIdx ix))
      else if stopped then .next s
      else
        match s.readAll ⟨t.ctx, die * 40, true, 2⟩ t p.index with
        | (.bad c, s1) => .next (s1.badHeader p.task t c)
        | (.miss pg o, s1) => .next (s1.taskMiss p.task t die pg o .rd fun s => s.badHeader p.task t 0x06)
        | (.ok (k, args), s1) =>
          let c := t.card
          let fits := fun (core : Nat) =>
            s1.fitsCore core t.ctx c.carve c.waves k.granules k.padBytes (c.vofs * 4096) (c.vlen * 4096)
          match s1.coresFor die c.blocks fits with
          | none => .next s1
          | some l =>
            let s2 := { s1 with fresh := s1.fresh + 4 }
            let order := shuffle s1.fresh l l.length []
            .next ((((s2.setTask p.task { t with missed := none }).putCluster p.task t k args die p.index order).abandon
              die p.stamp).setQueue die ((s.die die).queue.eraseIdx ix) |>.noteResident p.task |>.sendReport die)

/-! ### Carve changes (R55, R280) -/

/-- Cores of a die that have a cluster's carve can take it under R278, its private memory included. -/
def State.carveTakes (s : State) (die : Nat) (p : Pending) (t : Task) : Bool :=
  let c := t.card
  match (s.readAll ⟨t.ctx, die * 40, true, 2⟩ t p.index).1 with
  | .ok e =>
    let fits := fun (q : Nat) =>
      s.fitsCore q t.ctx c.carve c.waves e.1.granules e.1.padBytes (c.vofs * 4096) (c.vlen * 4096)
    (s.coresFor die c.blocks fun q => if (s.core q).carve = c.carve then fits q else none).isSome
  | .bad _ => false
  | .miss _ _ => false
/-- CARVE_CHANGE_START: the head of the queue has waited 2 µs, no core of its carve can take it, and no other change is
pending. (DEDUCED: log 50) -/
def execCarveChangeStart (die : Nat) (s : State) : Host.Outcome State Fault Refusal :=
  match (s.die die).queue with
  | [] => .next s
  | p :: _ =>
    match s.task? p.task with
    | none => .next s
    | some t =>
      let all := (List.range 40).map (die * 40 + ·)
      if s.time < p.since + 2000 ∨ all.any (fun c => (s.core c).carveTo.isSome) ∨ s.carveTakes die p t then .next s
      else
        let cand := (s.coresOf die).filter fun c => (s.core c).carve ≠ t.card.carve
        match cand.foldl (fun m c => match m with
            | none => some c
            | some b => if (s.wavesOn c).length < (s.wavesOn b).length then some c else some b) none with
        | none => .next s
        | some c => .next (s.setCore c { s.core c with carveTo := some (t.card.carve, p.stamp) })
/-- A fill is under way into a core's L1: a load of one of its waves waits for a line that the L1 does not hold (R243).
(DESIGN CHOICE: log 38) -/
def State.filling (s : State) (core : Nat) : Bool :=
  (s.waves.filter fun e => e.1 / 96 = core).any fun e => e.2.mem.loads.any fun l => l.todo ≠ 0 && l.pol ≠ 2 &&
    l.accs.any fun a => a.cached && mbit l.todo a.lane && !(l.got.any fun g => g.1 = a.lane)
      && a.keys.any fun k => (findLine (s.core core).l1 (lineOf k) a.label).isNone
/-- CARVE_CHANGE: it takes effect once every resident pad lies below the new size, and no fill is under way into the range
that passes to the pad; which range a fill goes to is open. (DESIGN CHOICE: log 38, DEDUCED: log 50) -/
def execCarveChange (core : Nat) (s : State) : Host.Outcome State Fault Refusal :=
  match (s.core core).carveTo with
  | none => .next s
  | some (n, _) =>
    if (s.blocksOn core).any (fun b => decide (n * 65536 < b.padOfs + b.padAll)) then .next s
    else if (s.core core).carve < n ∧ s.filling core ∧ Config.freeBit s.fresh then .next { s with fresh := s.fresh + 1 }
    else .next ((s.setCarve core n).modCore core fun c => { c with carveTo := none })

/-! ### Retirement (R135, R235) -/

/-- Nothing of the wave's accesses is under way. -/
def Wave.quiet (v : Wave) : Bool :=
  v.mem.nLd = 0 && v.mem.nSt = 0 && v.mem.nUa = 0 && v.mem.queue.isEmpty && v.mem.loads.isEmpty
/-- The wave has exited: no live lane, both slots empty. -/
def Wave.exited (v : Wave) : Bool :=
  v.ctl.listLen = 0 && v.ctl.a.phase = .empty && v.ctl.b.phase = .empty && v.trap.running.isNone && v.trap.queue.isEmpty
/-- WAVE_RETIRE: a wave that has exited retires once its accesses and its engine work are done. -/
def execWaveRetire (w : Nat) (s : State) : Host.Outcome State Fault Refusal :=
  match s.wave? w with
  | none => .next s
  | some v =>
    if !v.exited ∨ !v.quiet then .next s
    else if v.id.march then .next ((s.dropWave w).marchEnd v.id.pairIx)
    else if !v.copy.pending.isEmpty then .next (s.setWave w { v with copy := v.copy.close })
    else if !(v.copy.batches.all fun b => b.left = 0) ∨ (s.core v.core).cmds.any (fun c => c.wave = w)
 then .next s
    else if !s.blendRoom v then .next (s.releaseSome w .A v)
    else
      let s1 := (s.releaseFeed w).settleTickets w (List.range 96)
      let s2 := s1.modCore v.core fun c => { c with acc := mkeep c.acc fun a => a.owner ≠ w }
      .next (((s2.dropWave w).poolEvent v.core).sendReport v.id.die)

/-! ### The end of a task (R273, R274) -/

/-- Work of the task is left: unsent or unplaced clusters, blocks, released items, jobs. -/
def State.taskBusy (s : State) (n : Nat) (t : Task) : Bool :=
  let sent := t.st = .dispatched && t.status.all fun e => e.1 = 6
  (sent && (if t.card.cls = 0 then t.sent < t.card.units else t.jobsEnded.length < t.card.units))
    || s.dies.any (fun d => (d.2.queue ++ d.2.incoming).any fun p => p.task = n)
    || s.blocks.any (fun b => b.2.task = n) || s.sched.images.any (fun i => i.2.task = n)
    || s.gfx.prims.any (fun p => p.task = n) || s.gfx.paths.any (fun p => p.task = n)
    || s.gfx.commits.any (fun c => c.task = n)
    || s.gfx.draws.any (fun d => d.task = n && s.gfx.splats.any fun i => i.task = n && i.job = d.job)
/-- The outcome of a task: status and cause. (DEDUCED: log 44) -/
def Task.outcome (t : Task) : Nat × Nat :=
  match t.status with
  | some e => e
  | none => if t.fault = 0 then (1, 0) else (6, t.fault)
/-- A record as the end of a task leaves it. -/
def endRecord (mode : Nat) (done : Bool) (n : Nat) : Nat :=
  if mode = 2 then addRdr n 255
  else if done then setRsv (setFull n (mode = 1)) false
  else setRsv n false
/-- The records of a task as it ends, in order. -/
def State.endRecords (s : State) (ctx : Nat) (done : Bool) (l : List (DWord × Nat)) : State :=
  l.foldl (fun s t =>
    let s1 := s.recordPut ctx t.1 (endRecord t.2 done)
    match s1.recordKey ctx t.1 with
    | some k => s1.notify k
    | none => s1) s
/-- The completion record. -/
def complRecord (now seq cause status : Nat) : Bytes :=
  bytesOfNat 1 status ++ bytesOfNat 1 cause ++ bytesOfNat 2 0 ++ bytesOfNat 4 seq ++ bytesOfNat 8 now
/-- The frame a task belongs to learns its end; the frame's record is written with THAND, where the task's completion
record has been written, or with its last task (R370). -/
def State.frameEnd (s : State) (n : Nat) (t : Task) (st : Nat) (wrote : Bool) : State :=
  match t.frame with
  | none => s
  | some f =>
    let s1 := s.modFrame f fun e => { e with
      tasks := e.tasks.erase n, status := if e.status = 1 then st else e.status,
      tenc1 := if e.encTask = some n ∧ st = 1 then t.ended else e.tenc1 }
    match s1.sched.frames[f]? with
    | none => s1
    | some e =>
      let logs := fun at_ => (s1.logFrame e at_).modFrame f fun e => { e with written := true }
      if e.written then s1
      else if e.encTask = some n ∧ st = 1 ∧ wrote then logs (some s.time)
      else if e.tasks.isEmpty then logs none
      else s1
/-- The pool entry is freed. -/
def State.freeTask (s : State) (n : Nat) : State := { s with
  sched := { s.sched with tasks := mdel s.sched.tasks n },
  gfx := { s.gfx with draws := s.gfx.draws.filter fun d => d.task ≠ n, splats := s.gfx.splats.filter fun i => i.task ≠ n,
                        spills := s.gfx.spills.filter fun p => p.task ≠ n } }
/-- The write of the completion record, and the end; now: no page is awaited. (DEDUCED: log 53) -/
def State.complete (s : State) (n : Nat) (t : Task) (now : Bool) : State :=
  let o := t.outcome
  let done := fun (wrote : Bool) (s : State) => (s.frameEnd n t o.1 wrote).freeTask n
  if t.card.compl = 0 then done false s
  else
    let r := s.rangeOf (s.beacon t.ctx) .wr t.card.compl 16
    match r.1.2 with
    | none => done true (r.2.perform (zipCells (pieceKeys r.1.1) (complRecord s.time (t.launch % 2 ^ 32) o.2 o.1))
        (pieceLines r.1.1))
    | some (.miss p og, _) =>
      if now then done false r.2
      else r.2.taskMiss n t ((mget s.ctxs t.ctx).elim 0 (·.home)) p og .wr (done false)
    | some _ => done false r.2
/-- The update of its records, and then the completion record. A task that failed its records ends with status 5; one
that ended otherwise than done leaves FULL as it is. (DEDUCED: log 53) -/
def State.finishTask (s : State) (n : Nat) (t : Task) (now : Bool) : State :=
  let held := if t.st = .dispatched then tilesUp t.card.tiles else []
  let r := s.recordsBad t.ctx held
  let go := fun (s : State) (t : Task) =>
    let t1 := { t with card := { t.card with tiles := [] }, missed := none, status := some t.outcome }
    ((s.endRecords t.ctx (t.outcome.1 = 1) held).setTask n t1).complete n t1 now
  let five := fun (t : Task) => if (s.liveCtx t.ctx).isNone then t else { t with status := some (5, 0) }
  match r.1 with
  | none => go r.2 t
  | some (.miss p o) =>
    if now then go r.2 t
    else r.2.taskMiss n t ((mget s.ctxs t.ctx).elim 0 (·.home)) p o .wr fun s => go s (five t)
  | some _ => go r.2 (five t)
/-- A write of the task's is still on its way, from a wave that has gone (R273). -/
def State.writesLeft (s : State) (n : Nat) : Bool := s.cores.any fun c => c.2.path.any fun e => e.wave = noWave + n
/-- TASK_END: the task ends; then, once its writes have been performed, its records and its completion record are
written. (DEDUCED: log 53) -/
def execTaskEnd (n : Nat) (s : State) : Host.Outcome State Fault Refusal :=
  match s.task? n with
  | none => .next s
  | some t =>
    if t.status.isNone ∧ t.st ≠ .dispatched then .next s
    else if s.taskBusy n t then .next s
    else if t.ended.isNone then .next (s.setTask n { t with ended := some s.time })
    else if s.writesLeft n then .next s
    else .next (s.finishTask n t false)

end Sys2Proof.Machine
end

