-- ==== Sys2Proof/Machine/Preempt.lean ====
section
/-! DEFINITION. Machine/Preempt.lean: pre-emption of clusters and their restore (R234, R236, R297 to R300, R303). -/

namespace Sys2Proof.Machine

/-- Resident waves of a cluster, by place. -/
def State.clusterWaves (s : State) (cl : Nat) : List (Nat × Wave) :=
  s.waves.filter fun e => match mget s.blocks e.2.id.block with
    | some b => b.cluster = cl
    | none => false
def State.clusterOf (s : State) (v : Wave) : Option Nat := (mget s.blocks v.id.block).map (·.cluster)
def State.clusterBlocks (s : State) (cl : Nat) : List (Nat × Block) := s.blocks.filter fun e => e.2.cluster = cl

/-- What keeps a wave from being switched out (R297): a region-pending bit, an open section, a send under way. -/
def Wave.pinnedHere (v : Wave) : Bool := v.ctl.a.pend || v.ctl.b.pend || v.feed.section_ ≠ 0 || v.send.isSome
/-- The wave's cluster is being switched out and issues no more (R297). -/
def State.frozen (s : State) (v : Wave) : Bool :=
  match s.clusterOf v with
  | none => false
  | some cl => s.sched.leaving.any (fun l => l.cluster = cl) && (s.clusterWaves cl).all fun e => !e.2.pinnedHere

/-- Ask for the switch-out of a cluster; an open section notes the time of the request (R234). -/
def State.preempt (s : State) (cl reason : Nat) : State :=
  match s.clusterBlocks cl with
  | [] => s
  | (_, b) :: _ =>
    if s.sched.leaving.any (fun l => l.cluster = cl) then s
    else
      let s1 := { s with sched := { s.sched with
        leaving := s.sched.leaving ++ [⟨b.ctx, cl, [], [], reason⟩] } }
      (s.clusterWaves cl).foldl (fun s e => s.modWave e.1 fun v => { v with
        leaving := true,
        feed := { v.feed with deferred :=
          if v.feed.section_ ≠ 0 ∧ v.feed.deferred.isNone then some (s.die v.id.die).clk else v.feed.deferred } }) s1
/-- PREEMPT_REQUEST. (DEDUCED: log 56) -/
def execPreemptRequest (cl : Nat) (s : State) : Host.Outcome State Fault Refusal := .next (s.preempt cl 0)
/-- SECTION_TIMEOUT: a section still open 2^20 clk after the request ends the context with 0x0C. (DEDUCED: log 56) -/
def execSectionTimeout (w : Nat) (s : State) : Host.Outcome State Fault Refusal :=
  match s.wave? w with
  | none => .next s
  | some v =>
    match v.feed.deferred with
    | none => .next s
    | some t =>
      if v.feed.section_ ≠ 0 ∧ t + 2 ^ 20 ≤ (s.die v.id.die).clk then .next (s.terminate v.id.ctx 0x0C 0) else .next s

/-! ### Capture (R297, R298) -/

/-- A region save is chosen: a region began fewer than 2^16 clk ago, and no slot handles or awaits a trap.
(DEDUCED: log 56) -/
def Wave.savesRegion (v : Wave) (clk : Nat) : Bool :=
  clk < v.regnClk + 2 ^ 16 && !v.ctl.a.sup && !v.ctl.b.sup && v.trap.queue.isEmpty && v.trap.running.isNone
    && v.latch.isSome
/-- A slot as it resumes at the instruction it would have issued next: no wait is carried over. -/
def PcSlot.resumed (p : PcSlot) : PcSlot :=
  { p with wait := none, asked := none, mark := none, counted := false, deadline := 0,
           phase := if p.phase = .trap && !p.sup then .run else p.phase }
/-- A slot at its latched place: what it had only partly done at the latch is done. -/
def PcSlot.atLatch (p : PcSlot) : PcSlot :=
  let q := p.resumed
  if p.only = some 0 then q.stepped else q
/-- The registers a region save gives back: latched, but for the mailbox registers as they stand (R71, R298). -/
def WRegs.withMail (r now : WRegs) (k : Kernel) : WRegs :=
  if !k.mailboxes then r
  else (List.range k.mbCount).foldl (fun r i =>
    let n := k.mbFirst + i
    if k.mbScalar then { r with s := mput r.s n (mgetD now.s n 0) }
    else { r with v := mput r.v n (mgetD now.v n []) }) r
/-- The trap state a region save gives back: the trap a handler handled at the latch, if one did, with what is never
rolled back as it stands now (R298). (DEDUCED: log 56) -/
def WTrap.latched (l now : WTrap) : WTrap :=
  if l.running.isNone then { now with asked := none }
  else { l with asked := none, xscratch0 := now.xscratch0, xscratch1 := now.xscratch1, tsel := now.tsel, trow := now.trow,
                overwrite := now.overwrite, watchdog := now.watchdog }
/-- The wave as a region save records it (R141, R298, R233). (DEDUCED: log 56) -/
def Wave.regionForm (v : Wave) (l : Latch) : Wave :=
  let ctl := { l.ctl with a := l.ctl.a.atLatch, b := l.ctl.b.atLatch, issued := v.ctl.issued }
  { v with
    regs := { (l.regs.withMail v.regs v.id.kern) with sendst := v.regs.sendst, eos := v.regs.eos },
    ctl := ctl,
    feed := { l.feed with tickets := v.feed.tickets, section_ := 0, deferred := none },
    mem := { v.mem with loads := [], queue := [], miss := [], nLd := 0, nSt := 0, nUa := 0 },
    trap := l.trap.latched v.trap }
/-- The wave as a full save records it: a SLEEP counts as completed, and every other wait issues again.
(DEDUCED: log 56) -/
def Wave.fullForm (v : Wave) : Wave :=
  let u := v.wake
  let w : Wave := { u with
    mem := { u.mem with loads := [], queue := [], miss := [], nLd := 0, nSt := 0, nUa := 0 },
    trap := { u.trap with asked := none } }
  let keep := fun (x : SlotId) (p : PcSlot) =>
    if w.trap.queue.any (fun q => q.slot = x) then { p.resumed with phase := p.phase } else p.resumed
  (w.modSlot .A (keep .A)).modSlot .B (keep .B)
/-- The wave's accesses have ended: what is left waits for a clause's page only. -/
def Wave.drained (v : Wave) : Bool :=
  v.quiet && v.mem.miss.all fun m => match m.kind with
    | .fetch => true
    | _ => false
/-- Capture a wave: its claims leave the queue, and its saved form takes its place. -/
def State.capture (s : State) (w : Nat) (v : Wave) : State :=
  let region := v.savesRegion (s.die v.id.die).clk
  let u := match region, v.latch with
    | true, some l => v.regionForm l
    | _, _ => v.fullForm
  let s1 := (s.setWave w u).modCore v.core fun c => { c with claims := c.claims.filter fun q => q.wave ≠ w }
  let note := fun (l : Leaving) =>
    if some l.cluster = s.clusterOf v then { l with captured := l.captured ++ [w], held := l.held ++ [(w, v.regs.g)] } else l
  let s2 := { s1 with sched := { s1.sched with leaving := s1.sched.leaving.map note } }
  s2.poolEvent v.core

/-- Jobs that touch the cluster's pads, or vaults for its waves, have completed; started commands have retired.
(DEDUCED: log 56) -/
def State.enginesDone (s : State) (cl : Nat) : Bool :=
  let bs := (s.clusterBlocks cl).map (·.1)
  let ws := s.clusterWaves cl
  let named := fun (sp id : Nat) => (sp = 1 || sp = 2) && bs.contains id
  !(s.cores.any fun c => c.2.jobs.any fun j => named j.ssp j.scoreOrRank || named j.dsp j.dcoreOrRank
      || (bs.contains j.block && (j.ssp = 3 || j.dsp = 3)))
    && ws.all fun e => !((s.core e.2.core).cmds.any fun c => c.wave = e.1 && c.started)

/-- The image of a captured cluster. -/
def State.imageOf (s : State) (cl : Nat) (ctx task : Nat) : Image :=
  let bs := s.clusterBlocks cl
  let ws := s.clusterWaves cl
  let coreOf := fun (b : Block) => b.die * 40 + b.core
  { ctx := ctx, cluster := cl, task := task, moved := false, blocks := bs,
    waves := ws,
    pads := bs.map fun e => (e.1, s.peek (padKey (coreOf e.2) e.2.padOfs) e.2.padAll),
    vaults := bs.flatMap fun e =>
      if e.2.vlen = 0 then [] else [(coreOf e.2, e.2.vofs, s.peek (vaultKey (coreOf e.2) e.2.vofs) e.2.vlen)],
    accs := ws.flatMap fun e => ((s.core e.2.core).acc.filter fun a => a.2.owner = e.1).map fun a => (e.2.core, a.1, a.2),
    cmds := ws.flatMap fun e => ((s.core e.2.core).cmds.filter fun c => c.wave = e.1).map fun c => (e.2.core, c) }
/-- A wave leaves with a switched-out record in its slot (R299). -/
def State.leaveSlot (s : State) (image w : Nat) (v : Wave) : State :=
  let s1 := { s with waves := mdel s.waves w }
  s1.modCore v.core fun c =>
    { (c.orphan w v.id.task) with
      free := c.free + s.granulesOf w v, claims := c.claims.filter fun q => q.wave ≠ w,
      cmds := c.cmds.filter fun m => m.wave ≠ w, acc := mkeep c.acc fun a => a.owner ≠ w,
      records := c.records ++ [⟨v.id.slot, v.id.ctx, mgetD c.genV v.id.slot 0, mgetD c.genS v.id.slot 0, image, w⟩] }
/-- A cluster all of whose waves are captured, and whose engine work that must end has ended, leaves its cores. -/
def State.finishLeaving (s : State) (cl : Nat) : State :=
  match s.sched.leaving.find? fun l => l.cluster = cl with
  | none => s
  | some l =>
    let ws := s.clusterWaves cl
    if !(ws.all fun e => l.captured.contains e.1) ∨ !s.enginesDone cl then s
    else
      let task := (ws.head?).elim 0 fun e => e.2.id.task
      let ix := s.sched.nextImage
      let im := s.imageOf cl l.ctx task
      let rest := s.sched.leaving.filter fun l => l.cluster ≠ cl
      let s1 := ws.foldl (fun s e => s.leaveSlot ix e.1 e.2) s
      let s2 := (s.clusterBlocks cl).foldl (fun s e => s.dropBlock e.1) s1
      let s3 := { s2 with sched := { s2.sched with
        leaving := rest, nextImage := ix + 1,
        images := if ws.isEmpty then s2.sched.images else mput s2.sched.images ix im } }
      ws.foldl (fun s e => (s.poolEvent e.2.core).sendReport e.2.id.die) s3
/-- SWITCH_OUT_CAPTURE: a wave of a cluster that is being switched out is captured once its counters are 0.
(DEDUCED: log 56) -/
def execSwitchOutCapture (w : Nat) (s : State) : Host.Outcome State Fault Refusal :=
  match s.wave? w with
  | none => .next s
  | some v =>
    match s.clusterOf v with
    | none => .next s
    | some cl =>
      let done := s.sched.leaving.any fun l => l.cluster = cl && l.captured.contains w
      if !s.frozen v then .next s
      else if done then .next (s.finishLeaving cl)
      else if !v.drained then .next s
      else .next ((s.capture w v).finishLeaving cl)

/-! ### Restore (R299, R300, R329) -/

/-- Where a block of an image comes back: its core, the offset of its pad, and for each wave its old and new place. -/
structure Seat where
  ix : Nat
  core : Nat
  ofs : Nat
  places : List (Nat × Nat)
  deriving DecidableEq, Repr

/-- Waves of a block of an image. -/
def Image.wavesOf (im : Image) (ix : Nat) : List (Nat × Wave) := im.waves.filter fun e => e.2.id.block = ix
/-- Granules a block's waves need. -/
def Image.granulesOf (im : Image) (ix : Nat) : Nat := ((im.wavesOf ix).map fun e => e.2.regs.g).sum
/-- Accumulator slot numbers a block's waves own. -/
def Image.accsOf (im : Image) (ix : Nat) : List Nat :=
  (im.accs.filter fun a => (im.wavesOf ix).any fun e => e.1 = a.2.2.owner).map fun a => a.2.1
/-- A core takes a block of the image back (R300), apart from its waves' slots. -/
def State.takesBack (s : State) (im : Image) (ix core : Nat) (b : Block) : Option Nat :=
  let c := s.core core
  let off := padOffset ((s.blocksOn core).map fun k => (k.padOfs, k.padAll)) b.padAll
  let empty := (s.wavesOn core).isEmpty && (s.blocksOn core).isEmpty
  if s.coreOk core && (c.carve = b.carve || empty) && c.carveTo.isNone && c.claims.isEmpty && im.granulesOf ix ≤ c.free
      && off + b.padAll ≤ b.carve * 65536
      && !(c.vaultTaken im.ctx b.vofs b.vlen)
      && (im.accsOf ix).all (fun n => (mget c.acc n).isNone) then some off else none
/-- The seat of a block where it stood: every wave's slot is free, its partition unbound or bound to the context. -/
def State.oldSeat (s : State) (im : Image) (e : Nat × Block) : Option Seat :=
  let core := e.2.die * 40 + e.2.core
  let ws := im.wavesOf e.1
  if ws.all (fun w => (s.wave? w.1).isNone && s.waves.all fun o => o.1 / 12 ≠ w.1 / 12 || o.2.id.ctx = im.ctx) then
    (s.takesBack im e.1 core e.2).map fun off => ⟨e.1, core, off, ws.map fun w => (w.1, w.1)⟩
  else none
/-- A seat of a block on another core: a new placement of its image (R329). (DESIGN CHOICE: log 49) -/
def State.newSeat (s : State) (im : Image) (e : Nat × Block) (core : Nat) : Option Seat :=
  let ws := im.wavesOf e.1
  match s.takesBack im e.1 core e.2, s.slotsFor core im.ctx ws.length [] with
  | some off, some l => some ⟨e.1, core, off, (ws.zip l).map fun p => (p.1.1, core * 96 + p.2)⟩
  | _, _ => none
/-- Every element of a list of options, or none. -/
def allSome : List (Option α) → Option (List α)
  | [] => some []
  | none :: _ => none
  | some a :: r => (allSome r).map (a :: ·)
/-- Seats for all blocks of an image: where they stood, or, after a migration, in the lowest quad of the home die that
takes them. (DESIGN CHOICE: log 49) -/
def State.seats (s : State) (im : Image) : Option (List Seat) :=
  if !im.moved then allSome (im.blocks.map (s.oldSeat im))
  else
    let home := (mget s.ctxs im.ctx).elim 0 (·.home)
    let n := im.blocks.length
    (List.range 10).findSome? fun q =>
      let cores := (List.range 4).map (home * 40 + 4 * q + ·)
      let ok := cores.filter fun c => im.blocks.all fun e => (s.newSeat im e c).isSome
      if ok.length < n then none else allSome ((im.blocks.zip ok).map fun p => s.newSeat im p.1 p.2)

/-- The place a wave of the image comes back to. -/
def seatOf (l : List Seat) (w : Nat) : Nat := ((l.flatMap (·.places)).find? fun p => p.1 = w).elim w (·.2)
/-- A block comes back. -/
def State.restoreBlock (s : State) (im : Image) (t : Seat) : State :=
  match im.blocks.find? fun e => e.1 = t.ix with
  | none => s
  | some (ix, b) =>
    let pad := ((im.pads.find? fun p => p.1 = ix).map (·.2)).getD []
    let s1 := ((s.setCarve t.core b.carve).setBlock ix { b with
      die := t.core / 40, core := t.core % 40, padOfs := t.ofs, waves := t.places.map (·.2) }).wipe
        (padKey t.core t.ofs) b.padAll
    let s0 := s1.poke (cellsAt (padKey t.core t.ofs) pad)
    -- a resume on another core drops that core's L1 (R263)
    let s2 := if t.core = b.die * 40 + b.core then s0 else s0.dropL1 t.core
    if b.vlen = 0 then s2
    else
      let s3 := s2.modCore t.core fun c => { c with vault := c.vault ++ [(b.ctx, b.vofs, b.vlen, ix)] }
      match im.vaults.find? fun v => v.1 = b.die * 40 + b.core with
      | some v => (s3.wipe (vaultKey t.core v.2.1) v.2.2.length).poke (cellsAt (vaultKey t.core v.2.1) v.2.2)
      | none => s3
/-- The matrix state of a wave comes back: its slots, and its unstarted commands under new numbers of the core. -/
def State.restoreMatrix (s : State) (im : Image) (w place : Nat) : State :=
  let core := place / 96
  let mine := (im.cmds.filter fun c => c.2.wave = w).map (·.2)
  let base := (im.accs.filter fun a => a.2.2.owner = w).foldl (fun n a => max n (a.2.2.lastUid + 1)) (s.core core).nextUid
  let num := fun (u : Nat) => (mine.findIdx? fun m => m.uid = u).map (base + ·)
  let cmds := mine.zipIdx.map fun e => { e.1 with
    uid := base + e.2, wave := place, preds := e.1.preds.filterMap num, p0uid := e.1.p0uid.map fun u => (num u).getD u }
  s.modCore core fun c => { c with
    nextUid := base + mine.length, cmds := c.cmds ++ cmds,
    acc := (im.accs.filter fun a => a.2.2.owner = w).foldl (fun m a => mput m a.2.1 { a.2.2 with owner := place }) c.acc }
/-- Jobs that run on, and tickets, follow their wave to its new place. (DEDUCED: log 56) -/
def State.rename (s : State) (im : Image) (block w place : Nat) : State :=
  let next := (s.core (w / 96)).nextJob
  let job := fun (j : CopyJob) => if j.wave = w ∧ j.block = block then { j with wave := place } else j
  let ticket := fun (t : Nat × Nat × Nat × DWord × Nat × Nat) =>
    if t.1 = im.task ∧ t.2.2.2.2.1 = w then (t.1, t.2.1, t.2.2.1, t.2.2.2.1, place, t.2.2.2.2.2) else t
  let s1 := { s with
    cores := meach s.cores fun (c : Core) => { c with jobs := c.jobs.map job },
    gfx := { s.gfx with tickets := s.gfx.tickets.map ticket } }
  s1.modCore (place / 96) fun c => { c with nextJob := max c.nextJob next }
/-- A wave comes back: to its own slot with the generations of its record, or, as a new placement, to another. A list
longer than the chip holds is spilled again, and a queued trap is entered. -/
def State.restoreWave (s : State) (im : Image) (w place : Nat) (v : Wave) : State :=
  let core := place / 96
  let slot := place % 96
  let rec_ := (s.core core).records.find? fun r => r.slot = slot && r.ctx = im.ctx && r.windex = w
  let u := { v with leaving := false, id := { v.id with die := core / 40, core := core % 40, slot := slot } }
  let s1 := (s.restoreMatrix im w place).modCore core fun c => { c with
    free := c.free - v.regs.g,
    genV := (match rec_ with | some r => mput c.genV slot r.genV | none => c.genV),
    genS := (match rec_ with | some r => mput c.genS slot r.genS | none => c.genS),
    records := c.records.filter fun r => !(r.slot = slot && r.ctx = im.ctx && r.windex = w) }
  let s2 := (if im.moved then (s1.bumpGen place).rename im v.id.block w place else s1).setWave place u
  let r := if v.ctl.spilled.isEmpty then s2.writeList place [] v.ctl.recon else (none, s2)
  match r.1 with
  | some cause => r.2.terminate im.ctx cause 0
  | none => ((r.2.modWave place fun v => (v.finishOnly .A).finishOnly .B).settle place).enter place
/-- CLUSTER_RESTORE: a switched-out cluster is restored in one step, or not at all. -/
def execClusterRestore (cl : Nat) (s : State) : Host.Outcome State Fault Refusal :=
  match s.sched.images.find? fun e => e.2.cluster = cl with
  | none => .next s
  | some (ix, im) =>
    let live := match s.liveCtx im.ctx with
      | some c => !c.sealed && !c.migrating && !c.snapping
      | none => false
    let miss := im.waves.findSome? fun e => if e.2.ctl.listLen ≤ 6 then none else s.selfMiss e.2 0 0x1800
    if !live then .next s
    else match miss, s.seats im with
      | _, none => .next s
      | some (p, o, s1), some _ => .next (s1.request ((im.waves.head?).elim 0 fun e => e.2.id.die) im.ctx p .wr o)
      | none, some l =>
        let s1 := l.foldl (fun s t => s.restoreBlock im t) s
        let s2 := { s1 with sched := { s1.sched with images := mdel s1.sched.images ix } }
        let s3 := im.waves.foldl (fun s e => s.restoreWave im e.1 (seatOf l e.1) e.2) s2
        .next (l.foldl (fun s t => s.sendReport (t.core / 40)) s3)

end Sys2Proof.Machine
end

