-- ==== Sys2Proof/Machine/Vm.lean ====
section
/-! DEFINITION. Machine/Vm.lean: page replies (R311 to R313, R331), migration of pages, the thrash detector and
promotion (R314 to R316), and the hashing and merging of pages (R318 to R321). -/

namespace Sys2Proof.Machine

/-- The host port is open (R393). -/
def State.portOpen (s : State) : Bool := s.trust.boot_step = 6

/-! ### Page replies (R312, R313, R331) -/

/-- A wait for this page has had one more mapped reply. (DEDUCED: log 65) -/
def askMore (page : Nat) (a : Option (Nat × Nat)) : Option (Nat × Nat) :=
  match a with
  | some (p, k) => if p = page then some (p, k + 1) else a
  | none => none
/-- A slot whose instruction waits for a page tries again. -/
def Wave.retry (v : Wave) (x : SlotId) (asked : Option (Nat × Nat)) : Wave :=
  (v.modSlot x fun p => { p with wait := none, asked := asked }).leaveTrap x
/-- A slot whose instruction waits for the page tries again once the page has been answered. -/
def Wave.replied (page : Nat) (v : Wave) (x : SlotId) : Wave :=
  let p := v.slot x
  if p.wait = some .page ∧ (p.asked.map (·.1)) = some page then v.retry x (askMore page p.asked) else v
/-- A clause fetch that waited for the page is made again. -/
def State.fetchRedo (s : State) (w : Nat) (m : MissAcc) (more : Nat) : State :=
  s.modWave w fun v => ((v.dropMiss m).modOwn m.slot m.sup fun p => { p with asked := some (m.page, m.replies + more) }).missDone
    m.slot
/-- A lane's access after a mapped reply. -/
def State.redo (s : State) (w : Nat) (m : MissAcc) : Option MissFail × State :=
  match m.kind with
  | .fetch => (none, s.fetchRedo w m 1)
  | .tex id => s.texRedo w m id
  | _ => s.missRedo w m
/-- Accesses made again one after the other; those that fail trap together (R190). -/
def State.redoAll (s : State) (w : Nat) (f : State → MissAcc → Option MissFail × State) (l : List MissAcc) : State :=
  let r := l.foldl (fun (q : List MissFail × State) m =>
    let c := f q.2 m
    (q.1 ++ c.1.toList, c.2)) ([], s)
  r.2.trapMissedAll w r.1
/-- A trap frame whose page waited is tried again. -/
def State.enterAgain (s : State) (w page : Nat) : State :=
  match s.wave? w with
  | none => s
  | some v =>
    if (v.trap.asked.map (·.1)) = some page then
      (s.modWave w fun v => { v with trap := { v.trap with asked := askMore page v.trap.asked } }).enter w
    else s
/-- Every waiter of a page in one wave walks again. -/
def State.replyWave (s : State) (page w : Nat) : State :=
  match s.wave? w with
  | none => s
  | some v =>
    let s1 := s.modWave w fun v => (v.replied page .A).replied page .B
    (s1.redoAll w (fun s m => s.redo w m) (v.mem.miss.filter fun m => m.page = page)).enterAgain w page
/-- CTX of the command at the head of a function's ring (R374, R380). -/
def State.headCtx (s : State) (f : Nat) : Nat :=
  let n := ringLen (s.reg f (oFn 0x48))
  s.peekN (hostKey (s.reg f (oFn 0x40) + 64 * (s.reg f (oFn 0x50) % n) + 2)) 2
/-- A mapped reply: every waiter of the context's page walks again. (DEDUCED: log 65) -/
def State.mappedReply (s : State) (ctx page : Nat) : State :=
  let mine := (s.waves.filter fun e => e.2.id.ctx = ctx).map (·.1)
  let job := fun (j : CopyJob) => if j.ctx = ctx then { j with missed := askMore page j.missed } else j
  let cmd := fun (m : MatCmd) => if mine.contains m.wave then { m with missed := askMore page m.missed } else m
  let task := fun (t : Task) => if t.ctx = ctx then { t with missed := askMore page t.missed } else t
  let fns := s.fns.map fun e =>
    if s.headCtx e.1 = ctx then (e.1, { e.2 with asked := askMore page e.2.asked }) else e
  let s1 := { s with
    cores := meach s.cores fun (c : Core) => { c with jobs := c.jobs.map job, cmds := c.cmds.map cmd },
    sched := { s.sched with tasks := meach s.sched.tasks task },
    fns := fns }
  mine.foldl (fun s w => s.replyWave page w) s1

/-- A number no page has. (DEDUCED: log 65) -/
def noPage : Nat := 2 ^ 36
/-- An access that found the pending table full looks for a place again. (DEDUCED: log 65) -/
def State.askAgain (s : State) (w : Nat) (m : MissAcc) : Option MissFail × State :=
  let n := { m with page := noPage }
  let swap := fun (v : Wave) => { v with mem := { v.mem with miss := v.mem.miss.map fun e => if e = m then n else e } }
  match m.kind with
  | .fetch => (none, s.fetchRedo w m 0)
  | .tex id => (s.modWave w swap).texRedo w n id
  | _ => (s.modWave w swap).missRedo w n
/-- The waiters of one wave that have no request outstanding look for a place in the pending table (R309, R311).
(DEDUCED: log 65) -/
def State.waveAgain (s : State) (w : Nat) : State :=
  match s.wave? w with
  | none => s
  | some v =>
    let free := fun (page : Nat) => !s.requested v.id.ctx page
    let again := fun (v : Wave) (x : SlotId) =>
      let p := v.slot x
      let lost := match p.asked with
        | some (q, _) => free q
        | none => true
      if decide (p.wait = some .page) && lost then v.retry x p.asked else v
    let s1 := s.modWave w fun v => again (again v .A) .B
    let s2 := s1.redoAll w (fun s m => s.askAgain w m) (v.mem.miss.filter fun m => free m.page)
    match v.trap.asked with
    | some (p, _) => if free p then s2.enter w else s2
    | none => s2
/-- A pending request of a die is answered and leaves the table. -/
def State.answered (s : State) (d rid : Nat) : State :=
  let k := s.die d
  s.setDie d { k with reqs := k.reqs.filter fun r => r.rid ≠ rid }
/-- Tasks of a context that has ended wait for this page no more (R273, R312). -/
def State.noPageFor (s : State) (ctx page : Nat) : State :=
  let stop := fun (t : Task) =>
    if t.ctx = ctx ∧ (t.missed.map (·.1)) = some page then { t with missed := some (page, 2) } else t
  { s with sched := { s.sched with tasks := meach s.sched.tasks stop } }
/-- What a reply record does (R312): it is discarded and counted, ends the context, or lets the waiters walk again.
(DEDUCED: log 65) -/
def State.takeReply (s : State) (f n : Nat) : State :=
  let d := fieldOf n 47 46
  let ctx := fieldOf n 21 12
  match (s.die d).reqs.find? fun r => r.rid = fieldOf n 63 48 && r.ctx = ctx with
  | none => s.setReg 0 (oPage f 0x2C) ((s.reg 0 (oPage f 0x2C) + 1) % 65536)
  | some r =>
    if (mget s.ctxs ctx).isNone ∨ (mgetD s.ctxGen ctx 0).toNat ≠ fieldOf n 39 32 then
      s.setReg 0 (oPage f 0x2C) ((s.reg 0 (oPage f 0x2C) + 1) % 65536)
    else if fieldOf n 1 0 ≠ 0 then ((s.answered d r.rid).terminate ctx 0x06 0).noPageFor ctx r.page
    else
      let full := s.crowded d
      let s1 := (s.answered d r.rid).mappedReply ctx r.page
      if full then (s1.waves.map (·.1)).foldl (fun s w => s.waveAgain w) s1 else s1
/-- PAGE_REPLY: the module takes the next record of a function's reply ring. (DEDUCED: log 65) -/
def execPageReply (f : Nat) (s : State) : Host.Outcome State Fault Refusal :=
  let len := ringLen (s.reg 0 (oPage f 0x20))
  let head := s.reg 0 (oPage f 0x28)
  if 513 ≤ f ∨ !s.portOpen ∨ len = 0 ∨ head = s.reg 0 (oPage f 0x24) then .next s
  else
    let n := s.peekN (hostKey (s.reg 0 (oPage f 0x18) + 16 * (head % len))) 16
    .next ((s.setReg 0 (oPage f 0x28) ((head + 1) % 2 ^ 32)).takeReply f n)

/-! ### Where frames live (R314 to R316) -/

/-- An access under way uses a frame: the module rewrites no leaf of it meanwhile. (DEDUCED: log 64) -/
def State.frameBusy (s : State) (frame : Nat) : Bool :=
  let hit := fun (k : Key) => isDev k && k / 4096 = frame
  (s.waves.any fun e => (e.2.mem.loads.any fun l => l.todo ≠ 0 && l.accs.any fun a => a.keys.any hit)
      || e.2.mem.queue.any fun q => q.keys.any hit)
    || s.cores.any fun c => c.2.path.any fun q => q.keys.any hit
/-- Lines of a frame leave every L1: no copy outlives the frame's use. (DEDUCED: log 64) -/
def State.dropFrame (s : State) (frame : Nat) : State :=
  { s with cores := meach s.cores fun (c : Core) => { c with l1 := dropLines c.l1 fun l => l.line / 64 = frame } }
/-- A frame of a pool takes the place of another: the new one is in use for the same intermediate page, the old one is
free. -/
def Ctx.swapFrame (c : Ctx) (old new : Nat) : Ctx :=
  let ia := ((c.poolUsed.find? fun e => e.1 = old).bind (·.2))
  (c.takeFrame new ia).giveFrame old

/-- The level-0 leaf of a page and its place. -/
def State.smallLeaf (s : State) (ctx page : Nat) : Option (DWord × Nat) :=
  match s.s2leaf ctx (page * 4096) with
  | .leaf e 0 pa => some (e, pa)
  | _ => none
/-- Migrations of a page within the detection window (R315). -/
def State.recentMoves (s : State) (l : List Nat) : List Nat :=
  l.filter fun t => s.time < t + 1000 * s.reg 0 (oMod 0x04)
/-- Clear or set PIN. -/
def pinLeaf (e : DWord) (b : Bool) : DWord := if b then e ||| 2 else e &&& ~~~2
/-- Pages of a leaf of a level. -/
def lvlPages (lvl : Nat) : Nat := 512 ^ lvl
/-- The leaf of a page moves to frames of the home die: its n pages are copied, the leaf rewritten, and the old frames
returned. A page moved more than THRN times within THRWIN is pinned. (DEDUCED: log 64) -/
def State.movePage (s : State) (ctx page pa n : Nat) (e : DWord) (c : Ctx) (frame : Nat) : State :=
  let old := eDev e
  let i := s.info ctx page
  let moves := s.recentMoves i.migrations ++ [s.time]
  let pin := decide (max 1 (s.reg 0 (oMod 0x00)) < moves.length)
  let c1 := (List.range n).foldl (fun c k => c.swapFrame (old + 4096 * k) (frame + 4096 * k)) c
  let s1 := (s.setCtx ctx c1).copyBytes (s.s2key ctx e 12 (page * 4096)) (devKey frame) (4096 * n) (eKid e)
  let s2 := s1.putLeaf ctx page pa (pinLeaf (leafWith e frame (eKid e) 0 false) pin)
  let s3 := (List.range n).foldl (fun s k => s.dropFrame (old / 4096 + k)) s2
  (s3.setInfo { i with
    times := [], hashed := none, migrations := moves,
    pinUntil := if pin then s.time + 1000 * s.reg 0 (oMod 0x08) else 0 }).retireSpent ctx
/-- PAGE_MIGRATION (R314): the home die has accessed the leaf 256 times within 1 ms. (DEDUCED: log 64) -/
def execPageMigration (ctx page : Nat) (s : State) : Host.Outcome State Fault Refusal :=
  match s.liveCtx ctx, s.s2leaf ctx (page * 4096) with
  | some c, .leaf e lvl pa =>
    let n := lvlPages lvl
    let frames := (List.range n).map (eDev e / 4096 + ·)
    if page % n ≠ 0 ∨ !c.remote e ∨ ((s.info ctx page).times.filter fun t => s.time < t + 1000000).length < 256
        ∨ frames.any s.frameBusy ∨ (s.copyFails (s.s2key ctx e 12 (page * 4096)) (4096 * n) (eKid e)).isSome then .next s
    else match c.runOn (some c.home) n with
      | none => .next s
      | some f => .next (s.movePage ctx page pa n e c f)
  | _, _ => .next s
/-- PIN_EXPIRY (R315). (DEDUCED: log 64) -/
def execPinExpiry (ctx page : Nat) (s : State) : Host.Outcome State Fault Refusal :=
  let i := s.info ctx page
  match s.s2leaf ctx (page * 4096) with
  | .leaf e _ pa =>
    if i.pinUntil = 0 ∨ s.time < i.pinUntil then .next s
    else .next ((s.putLeaf ctx page pa (pinLeaf e false)).setInfo { i with migrations := [], pinUntil := 0 })
  | _ => .next s

/-- The attributes R316 compares: KID, WIN, BIAS, W, X, RD; and what rules a leaf out. -/
def promoKey (e : DWord) : Nat × Nat × Nat := (eKid e, fieldOf e.toNat 8 8 + 2 * fieldOf e.toNat 10 10, fieldOf e.toNat 4 2)
def promoOk (d : Nat) (e : DWord) : Bool := !eBit e 9 && !eBit e 1 && !eBit e 11 && dieOfFrame (eDev e) = d
/-- The 512 leaves of a 2 MiB range, where all are level-0 leaves that qualify and agree. (DEDUCED: log 64) -/
def State.promoLeaves (s : State) (ctx range d : Nat) : Option (List DWord) :=
  let l := (List.range 512).filterMap fun i => (s.smallLeaf ctx (512 * range + i)).map (·.1)
  match l with
  | [] => none
  | e :: _ => if l.length = 512 ∧ l.all (fun q => promoOk d q && promoKey q = promoKey e) then some l else none
/-- Where the level-1 entry of an address lies, and the level-0 table it names. -/
def State.levelOne (s : State) (ctx ia : Nat) : Nat × Nat :=
  let step := fun (t lvl : Nat) => eDev (s.entryAt (t + 8 * walkIx ia lvl))
  let t1 := step (step (s.s2root ctx) 3) 2
  (t1 + 8 * walkIx ia 1, step t1 1)
/-- The range's pages are copied to a run and its table entry becomes a leaf. (DEDUCED: log 64) -/
def State.promote (s : State) (ctx range run : Nat) (c : Ctx) (l : List DWord) : State :=
  let at_ := s.levelOne ctx (range * 2 ^ 21)
  let pages := List.range 512
  let swap := fun (c : Ctx) (i : Nat) => c.swapFrame (eDev (l.getD i 0)) (run + 4096 * i)
  let c1 := (pages.foldl swap c).giveFrame at_.2
  let s1 := pages.foldl (fun s i =>
    s.copyBytes (s.s2key ctx (l.getD i 0) 12 (range * 2 ^ 21 + 4096 * i)) (devKey (run + 4096 * i)) 4096
      (eKid (l.getD i 0))) (s.setCtx ctx c1)
  let e := l.headD 0
  let leaf := eKid e * 2 ^ 48 + run + fieldOf e.toNat 10 10 * 1024 + fieldOf e.toNat 8 8 * 256 + 128
    + fieldOf e.toNat 4 2 * 4 + 1
  let s2 := (s1.dropTlb fun t => t.ctx = ctx && s1ia t.leaf1 t.shift1 t.va t.va / 2 ^ 21 = range).putEntry at_.1
    (BitVec.ofNat 64 leaf)
  let s3 := { s2 with vm := { s2.vm with pages := s2.vm.pages.filter fun p => !(p.ctx = ctx && p.page / 512 = range) } }
  (l.foldl (fun s e => s.dropFrame (eDev e / 4096)) s3).retireSpent ctx
/-- PAGE_PROMOTION (R316). (DEDUCED: log 64) -/
def execPagePromotion (ctx page : Nat) (s : State) : Host.Outcome State Fault Refusal :=
  let range := page / 512
  match s.liveCtx ctx, s.smallLeaf ctx page with
  | some c, some (e, _) =>
    let d := dieOfFrame (eDev e)
    match s.promoLeaves ctx range d, c.runOn (some d) 512 with
    | some l, some run =>
      if l.any (fun q => s.frameBusy (eDev q / 4096) || (s.copyFails (devKey (eDev q)) 4096 (eKid q)).isSome) then .next s
      else .next (s.promote ctx range run c l)
    | _, _ => .next s
  | _, _ => .next s

/-! ### Content addressing (R318 to R321) -/

/-- The page's plaintext bytes, as accesses see them. -/
def State.pageBytes (s : State) (ctx page : Nat) (e : DWord) : Bytes :=
  (List.range 4).flatMap fun k => s.peek (s.s2key ctx e 12 (page * 4096 + 1024 * k)) 1024
/-- The key of a share domain (R324). -/
def State.domKey (s : State) (dom : Nat) : BitVec 256 := Config.moduleKey (mgetD s.vm.domKeys dom 0)
/-- (DEDUCED: log 66) -/
def State.pageHash (s : State) (dom ctx page : Nat) (e : DWord) : BitVec 128 :=
  kmac128 (s.domKey dom) (s.pageBytes ctx page e)
/-- The page may be hashed (R318). (DEDUCED: log 66) -/
def State.candidate (s : State) (c : Ctx) (e : DWord) : Bool :=
  let quiet := 1000 * s.reg 0 (oMod 0x0C)
  c.dom.isSome && eBit e 8 && !eBit e 9 && eBit e 0 && !eBit e 11
    && (c.sealed || (quiet ≠ 0 && mgetD s.vm.lastWrite (eDev e / 4096) 0 + quiet ≤ s.time))
/-- The leaf of a page as a level-0 leaf: of a 2 MiB leaf, the part that is the page. (DEDUCED: log 66) -/
def State.pageLeaf (s : State) (ctx page : Nat) : Option DWord :=
  match s.s2leaf ctx (page * 4096) with
  | .leaf e 0 _ => some e
  | .leaf e _ _ => some (leafWith (e &&& ~~~0x80) (eDev e + 4096 * (page % 512)) (eKid e) 0 false)
  | _ => none
/-- The page's bytes cannot all be read (R326). -/
def State.pageFails (s : State) (ctx page : Nat) (e : DWord) : Bool :=
  (s.copyFails (s.s2key ctx e 12 (page * 4096)) 4096 (eKid e)).isSome
/-- PAGE_HASH (R318): the hash of a candidate is taken. (DEDUCED: log 66) -/
def execPageHash (ctx page : Nat) (s : State) : Host.Outcome State Fault Refusal :=
  match s.liveCtx ctx, s.pageLeaf ctx page with
  | some c, some e =>
    match c.dom with
    | some dom =>
      if s.candidate c e ∧ !s.pageFails ctx page e then
        .next (s.setInfo { s.info ctx page with hashed := some (s.time, s.pageHash dom ctx page e) })
      else .next s
    | none => .next s
  | _, _ => .next s

/-- Die and bucket of a hash (R319). (DEDUCED: log 66) -/
def dayDie (h : BitVec 128) : Nat := h.toNat % 4
/-- (DEDUCED: log 66) -/
def State.dayBucket (s : State) (h : BitVec 128) : Nat := fieldOf h.toNat 41 2 % 2 ^ s.vm.buckets
def State.bucket (s : State) (h : BitVec 128) : List DayEntry := mgetD (s.die (dayDie h)).day (s.dayBucket h) []
def State.setBucket (s : State) (h : BitVec 128) (l : List DayEntry) : State :=
  let d := s.die (dayDie h)
  s.setDie (dayDie h) { d with day := mput d.day (s.dayBucket h) l }
/-- An entry takes the bucket's first free place, or, where a spill place is allowed, one beyond it.
(DEDUCED: log 66) -/
def bucketPut (l : List DayEntry) (g : DayEntry) (spill : Bool) : Option (List DayEntry) :=
  match l.findIdx? fun e => e.ref = 0 && !e.spill with
  | some i => some (l.set i g)
  | none =>
    if (l.filter fun e => !e.spill).length < 8 then some (l ++ [g])
    else if spill then some (l ++ [{ g with spill := true }])
    else none
/-- Where a shared frame's bytes lie: the frame the retirement map names, or its own (R326). -/
def State.frameKey (s : State) (frame : Nat) : Key :=
  devKey (4096 * ((mget (s.die (frame / 2 ^ 25)).retireMap frame).getD frame))
/-- Count a refused merge in DMSTAT: unit 1 a full bucket, unit 65,536 a full reference count (R317). -/
def State.dmstat (s : State) (unit : Nat) : State :=
  let v := s.reg 0 (oMod 0x14)
  let n := fieldOf v 15 0
  let r := fieldOf v 31 16
  s.setReg 0 (oMod 0x14) (if unit = 1 then r * 65536 + (n + 1) % 65536 else (r + 1) % 65536 * 65536 + n)
/-- A leaf of the context names a shared frame (R323). -/
def Ctx.holds (c : Ctx) (page frame : Nat) : Ctx := { c with shared := mput c.shared page frame }
/-- The page's frame leaves the pool and becomes a shared frame. -/
def Ctx.lendFrame (c : Ctx) (p : Nat) : Ctx := { c with poolUsed := c.poolUsed.filter fun e => e.1 ≠ p }
/-- The merge of a page whose leaf is e (R320): onto a shared frame with the same bytes, or as a new entry.
(DEDUCED: log 66) -/
def State.mergePage (s : State) (ctx page pa : Nat) (e : DWord) (c : Ctx) (dom : Nat) (h : BitVec 128) (spill : Bool)
    (back : Option DWord) : State :=
  let bytes := s.pageBytes ctx page e
  let l := s.bucket h
  let frame := eDev e / 4096
  let same := l.findIdx? fun g => g.ref ≠ 0 && g.hash = h && g.dom = dom && s.peek (s.frameKey g.frame) 4096 = bytes
  match same with
  | some i =>
    match l[i]? with
    | none => s
    | some g =>
      if g.ref = 2 ^ 24 - 1 then s.dmstat 65536
      else
        let g1 := { g with ref := g.ref + 1, bk := g.bk || back.isSome, back := back.getD g.back }
        let s1 := s.setBucket h (l.set i g1)
        (((s1.putLeaf ctx page pa (leafWith e (g.frame * 4096) c.dkey 0 true)).setCtx ctx
          ((c.giveFrame (eDev e)).holds page g.frame)).dropFrame frame).retireSpent ctx
  | none =>
    match bucketPut l ⟨h, 1, dom, frame, back.isSome, back.getD 0, false⟩ spill with
    | none => s.dmstat 1
    | some l1 =>
      let s1 := (s.setBucket h l1).copyBytes (s.s2key ctx e 12 (page * 4096)) (devKey (eDev e)) 4096 c.dkey
      ((s1.putLeaf ctx page pa (leafWith e (eDev e) c.dkey 0 true)).setCtx ctx
        ((c.lendFrame (eDev e)).holds page frame)).dropFrame frame
/-- A 2 MiB leaf becomes a table of 4 KiB leaves, in a frame of the context's pool, for a shared leaf lies at level 0
(R307). none: the pool lacks a frame. (DEDUCED: log 59, 66) -/
def State.splitLeaf (s : State) (ctx : Nat) (e : DWord) (pa : Nat) : Option State :=
  match (mget s.ctxs ctx).bind (·.anyRun 1) with
  | none => none
  | some p =>
    let s1 := s.takeRun ctx p 1 none
    let s2 := (List.range 512).foldl (fun s i =>
      s.putEntry (p + 8 * i) (leafWith (e &&& ~~~0x80) (eOut e + 4096 * i) (eKid e) 0 false)) s1
    some ((s2.dropTlb fun t => t.ctx = ctx).putEntry pa (BitVec.ofNat 64 (p + 1)))
/-- The page has a level-0 leaf: its 2 MiB leaf, if it has one, is split. none: it has none and the pool lacks a frame.
(DEDUCED: log 66) -/
def State.smallPage (s : State) (ctx page : Nat) : Option State :=
  match s.s2leaf ctx (page * 4096) with
  | .leaf _ 0 _ => some s
  | .leaf e _ pa => s.splitLeaf ctx e pa
  | _ => none
/-- A merge of a requesting die is behind one of the same clk on the bucket that a higher die has made (R332).
(DEDUCED: log 66) -/
def State.outOfTurn (s : State) (h : BitVec 128) (die : Nat) : Bool :=
  let d := s.die (dayDie h)
  match mget d.dayOps (s.dayBucket h) with
  | some (clk, last) => decide (clk = d.clk) && decide (die < last)
  | none => false
/-- The bucket has made a merge of a requesting die. -/
def State.noteOp (s : State) (h : BitVec 128) (die : Nat) : State :=
  let d := s.die (dayDie h)
  s.setDie (dayDie h) { d with dayOps := mput d.dayOps (s.dayBucket h) (d.clk, die) }
/-- DAYMARK_MERGE (R320, R321, R332): a hashed page is merged; one written since its hashing began, or that qualifies no
more, is not. (DEDUCED: log 66) -/
def execDaymarkMerge (ctx page : Nat) (s : State) : Host.Outcome State Fault Refusal :=
  match s.liveCtx ctx, s.pageLeaf ctx page with
  | some c, some e =>
    let i := s.info ctx page
    match i.hashed, c.dom with
    | some (t, h), some dom =>
      let frame := eDev e / 4096
      let done := s.setInfo { i with hashed := none }
      if s.frameBusy frame ∨ s.outOfTurn h (dieOfFrame (eDev e)) then .next s
      else if !s.candidate c e ∨ t ≤ mgetD s.vm.lastWrite frame 0 ∨ s.pageFails ctx page e then .next done
      else match done.smallPage ctx page with
        | none => .next done
        | some s1 => match s1.smallLeaf ctx page, mget s1.ctxs ctx with
          | some (e, pa), some c =>
            .next ((s1.mergePage ctx page pa e c dom h false none).noteOp h (dieOfFrame (eDev e)))
          | _, _ => .next done
    | _, _ => .next s
  | _, _ => .next s

end Sys2Proof.Machine
end

