-- ==== Sys2Proof/Machine/Render.lean ====
section
/-! DEFINITION. Machine/Render.lean: pixel waves (R343, R344), path coverage (R345 to R347), the blend unit (R348, R349,
R359) and the Lantern (R351 to R353). -/

namespace Sys2Proof.Machine

/-! ### Engine work of a task (R274, R339) -/

def State.modTask (s : State) (n : Nat) (f : Task → Task) : State :=
  match s.task? n with
  | some t => s.setTask n (f t)
  | none => s
/-- The task's first fault is kept (R274). (DEDUCED: log 44) -/
def State.taskFault (s : State) (n cause : Nat) : State :=
  s.modTask n fun t => { t with fault := if t.fault = 0 then cause else t.fault }
/-- An engine of a die as an accessor of a context. -/
def engineAt (ctx die : Nat) : Who := ⟨ctx, die * 40, false, 2⟩
/-- The first page of some addresses that would miss at stage 2. -/
def State.pixelMiss (s : State) (who : Who) (need : Need) (vas : List DWord) : Option (Nat × Nat) :=
  vas.findSome? fun va =>
    if va.toNat / 2 ^ 48 ≠ 0 then none
    else match (s.walk who need va.toNat).1 with
      | .miss p o => some (p, o)
      | _ => none
/-- Engine work that touches some addresses: it runs once none of their pages misses; two mapped replies that leave a page
missing let it run with that page failing (R311, R312). -/
def State.engineRun (s : State) (n die : Nat) (who : Who) (need : Need) (vas : List DWord) (run : State → State) : State :=
  match s.pixelMiss who need vas, s.task? n with
  | some (p, o), some t => s.taskMiss n t die p o need fun s => (run s).modTask n fun t => { t with missed := none }
  | _, _ => (run s).modTask n fun t => { t with missed := none }

/-! ### Blending (R348, R349) -/

def oneNum : Num := .fin false 1 1
/-- One channel before rounding. -/
def blendChan (mode : Nat) (src dst alpha : Num) : Num :=
  match mode with
  | 0 => src
  | 1 => (sumNums [src, (dst.mul (sumNums [oneNum, alpha.flip] .rne).val).val] .rne).val
  | _ => (sumNums [src, dst] .rne).val
/-- c / 255 as FP32. -/
def byteF (c : Nat) : Num := f32.read (roundNum f32 .rne (.fin false c 255)).val
/-- Channel k of a stored pixel. -/
def destChan (format : Nat) (b : Bytes) (k : Nat) : Num :=
  match format with
  | 0 => byteF (cardAt b k 1)
  | 1 => f16.read (cardAt b (2 * k) 2)
  | _ => f32.read (cardAt b (4 * k) 4)
/-- A channel as stored. -/
def outChan (format : Nat) (o : Num) : Bytes :=
  match format with
  | 0 => bytesOfNat 1 (match o with
    | .nan _ => 0
    | .inf s => if s then 0 else 255
    | .fin s a d => if s then 0 else if d ≤ a then 255 else rintFrac (255 * a) d false .rne)
  | 1 => bytesOfNat 2 (roundNum f16 .rne o).val
  | _ => bytesOfNat 4 (roundNum f32 .rne o).val
/-- The new bytes of a colour pixel. -/
def blendPixel (format mode : Nat) (src : List Num) (old : Bytes) : Bytes :=
  let alpha := src.getD 3 oneNum
  (List.range 4).flatMap fun k => outChan format (blendChan mode (src.getD k oneNum) (destChan format old k) alpha)
/-- The new word of a COV32 pixel. -/
def coverWord (mode cov w : Nat) : Nat :=
  match mode with
  | 0 => cov
  | 1 => cov + w * (65536 - cov) / 65536
  | _ => min (w + cov) 0xFFFFFFFF
/-- The new bytes of a pixel under a path's coverage. -/
def pathPixel (t : Target) (cov : Nat) (old : Bytes) : Bytes :=
  if t.format = 3 then bytesOfNat 4 (coverWord t.blend cov (natOfBytes old))
  else
    let src := (List.range 4).map fun k =>
      ((Num.fin false cov 65536).mul (byteF (fieldOf t.paint.toNat (8 * k + 7) (8 * k)))).val
    blendPixel t.format t.blend src old
/-- Write one pixel at its home L2; a write that fails is dropped and gives the task its fault (R339). -/
def State.putPixel (s : State) (n : Nat) (who : Who) (t : Target) (px py : Nat) (f : Bytes → Bytes) : State :=
  let c := s.access who .wr false 0 (pixelVa t px py) (pixBytes t.format)
  match c.1 with
  | .ok a => c.2.perform (zipCells a.keys (f (a.keys.map (memByte c.2.mem)))) (accLines [a])
  | .fault cause _ => c.2.taskFault n cause
  | .miss _ _ => c.2.taskFault n 0x06

/-! ### Pixel waves (R344) -/

/-- The quads of a target that hold a covered centre. -/
def primQuads (ws : List Word) (t : Target) : List (Nat × Nat) :=
  let w := (t.width + 1) / 2
  ((List.range (w * ((t.height + 1) / 2))).map fun i => (2 * (i % w), 2 * (i / w))).filter fun q =>
    (List.range 4).any fun k => covers ws t (q.1 + k % 2) (q.2 + k / 2)
/-- The quads still to be launched. -/
def Prim.left (p : Prim) : List (Nat × Nat) := p.quads.getD (primQuads p.words p.rs.tgt)
/-- What a wave of a first primitive may take from the primitives of its task, in release order: up to 24 quads of the
same raster state and attribute count, no pixel twice. (DEDUCED: log 39) -/
def packQuads (first : Prim) : List Prim → List (Nat × (Nat × Nat)) → List (Nat × (Nat × Nat))
  | [], acc => acc
  | p :: r, acc =>
    if p.task = first.task ∧ p.die = first.die ∧ p.rs = first.rs ∧ p.words.length = first.words.length then
      let new := (p.left.filter fun q => !acc.any fun e => e.2 = q).map fun q => (p.order, q)
      packQuads first r (acc ++ new.take (24 - acc.length))
    else packQuads first r acc
/-- The launched quads leave the primitives; a primitive without quads is done. (DEDUCED: log 39) -/
def takeQuads (taken : List (Nat × (Nat × Nat))) (l : List Prim) : List Prim :=
  (l.map fun p => { p with quads := some (p.left.filter fun q => !taken.contains (p.order, q)) }).filter fun p =>
    p.quads ≠ some []
/-- An edge value over the area, as FP32. -/
def weight (num den : Int) : Word :=
  BitVec.ofNat 32 (roundNum f32 .rne (.fin ((num < 0) != (den < 0) && num ≠ 0) num.natAbs den.natAbs)).val
/-- Lane t's pixel in a wave of quads, with its primitive. (DEDUCED: log 39) -/
def lanePixel (prims : List Prim) (quads : List (Nat × (Nat × Nat))) (t : Nat) : Option (Prim × Nat × Nat) :=
  match quads[t / 4]? with
  | none => none
  | some (o, q) => (prims.find? fun p => p.order = o).map fun p => (p, q.1 + t % 2, q.2 + t % 4 / 2)
/-- The start registers of a pixel wave. (DEDUCED: log 39) -/
def pixelRegs (prims : List Prim) (quads : List (Nat × (Nat × Nat))) (attrs : Nat) : Map Lanes :=
  let reg := fun (f : Prim → Nat → Nat → Word) => ofLanes fun t => match lanePixel prims quads t with
    | some (p, x, y) => f p x y
    | none => 0
  let base : Map Lanes :=
    [(0, reg fun _ x y => BitVec.ofNat 32 (x + y * 65536)),
     (1, reg fun p x y => weight (edge p.words 2 0 (centre x) (centre y)) (primArea p.words)),
     (2, reg fun p x y => weight (edge p.words 0 1 (centre x) (centre y)) (primArea p.words))]
  base ++ (List.range attrs).map fun i => (3 + i, reg fun p _ _ => p.words.getD (7 + i) 0)
/-- Lanes whose centre is covered, with their tickets. (DEDUCED: log 39) -/
def pixelTickets (prims : List Prim) (quads : List (Nat × (Nat × Nat))) : Map Ticket :=
  (List.range 96).filterMap fun t => match lanePixel prims quads t with
    | some (p, x, y) => if covers p.words p.rs.tgt x y then some (t, ⟨x, y, p.seq, p.rs.tgt.va⟩) else none
    | none => none
/-- A pixel wave's private memory. -/
def Raster.privAt (r : Raster) (place : Nat) : DWord := r.ppriv + BitVec.ofNat 64 (place * r.pprivsz * 4096)
/-- What the Buoy reads for a pixel wave: its kernel, checked against the raster state, and its arguments.
(DEDUCED: log 39, 40) -/
def State.readPixel (s : State) (who : Who) (r : Raster) (attrs place : Nat) : Got (Kernel × Map DWord) × State :=
  match s.readKernel who r.pkern with
  | (.bad c, s1) => (.bad c, s1)
  | (.miss p o, s1) => (.miss p o, s1)
  | (.ok k, s1) =>
    if k.vregs < 3 + attrs ∨ k.sregs < r.pargn ∨ r.pcarve * 65536 < k.pad * 1024 + (k.stages - 1) * k.ring then (.bad 0, s1)
    else match s1.buoyRead who r.pargs (8 * r.pargn) with
      | (.bad c, s2) => (.bad c, s2)
      | (.miss p o, s2) => (.miss p o, s2)
      | (.ok b, s2) => match s2.areaChk who (r.privAt place) with
        | (.bad c, s3) => (.bad c, s3)
        | (.miss p o, s3) => (.miss p o, s3)
        | (.ok _, s3) => (.ok (k, argMap b r.pargn), s3)
/-- The wave is placed as a block of its own. (DEDUCED: log 40) -/
def State.putPixelWave (s : State) (p : Prim) (k : Kernel) (args : Map DWord) (core off slot : Nat)
    (quads : List (Nat × (Nat × Nat))) : State :=
  let die := core / 40
  let place := core * 96 + slot
  let b := s.sched.nextBlock
  let blk : Block :=
    { die := die, core := core % 40, ctx := p.ctx, task := p.task, cluster := s.sched.nextCluster, rank := 0, cx := 0,
      cy := 0, cz := 0, waves := [place], padOfs := off, padLen := k.pad * 1024, padAll := k.padBytes, valid := [],
      rings := [], vofs := 0, vlen := 0, carve := p.rs.pcarve }
  let id : WId := { die := die, core := core % 40, slot := slot, ctx := p.ctx, task := p.task, block := b, widx := 0,
                    stage := 0, priv := p.rs.privAt place, kern := k, pixel := true }
  let tickets := pixelTickets s.gfx.prims quads
  let v0 := startWave id args (s.die die).clk
  let v : Wave := { v0 with
    regs := { v0.regs with v := pixelRegs s.gfx.prims quads (p.words.length - 7)
                           p := [(0, maskOf fun t => (mget tickets t).isSome)] },
    feed := { v0.feed with tickets := tickets } }
  let v := { v with latch := some ⟨.A, v.regs.latched 0, v.ctl, v.feed, v.trap⟩ }
  let s1 := { s with
    sched := { s.sched with nextBlock := b + 1, nextCluster := s.sched.nextCluster + 1 },
    gfx := { s.gfx with
      prims := takeQuads quads s.gfx.prims,
      tickets := s.gfx.tickets ++ tickets.map fun (e : Nat × Ticket) => (p.task, e.2.px, e.2.py, e.2.seq, place, e.1) } }
  (((s1.setCarve core p.rs.pcarve).addBlock b blk).addWave place v).sendReport die
/-- A pixel kernel that cannot be used: the task ends with status 2, and its primitives go.
(DEDUCED: log 39, 40, 42) -/
def State.badPixel (s : State) (n : Nat) (t : Task) (cause : Nat) : State :=
  let s1 := s.badHeader n t cause
  { s1 with gfx := { s1.gfx with prims := s1.gfx.prims.filter fun p => p.task ≠ n } }
/-- PIXEL_WAVE_LAUNCH: the Awl packs quads of a task's primitives on a die into a wave on the lowest of its cores that
qualifies (R278). (DEDUCED: log 39) -/
def execPixelWaveLaunch (n die core : Nat) (s : State) : Host.Outcome State Fault Refusal :=
  let c := die * 40 + core
  match s.task? n, s.gfx.prims.find? fun p => p.task = n && p.die = die with
  | some t, some p =>
    let quads := packQuads p s.gfx.prims []
    let stopped : Bool := match s.liveCtx p.ctx with
      | some k => k.sealed || k.migrating || k.snapping
      | none => true
    if 40 ≤ core ∨ stopped then .next s
    else if quads.isEmpty then .next { s with gfx := { s.gfx with prims := takeQuads [] s.gfx.prims } }
    else
      let who : Who := ⟨p.ctx, c, true, 2⟩
      let late := fun (s : State) => s.badPixel n t 0x06
      match s.readKernel who p.rs.pkern with
      | (.bad e, s1) => .next (s1.badPixel n t e)
      | (.miss pg o, s1) => .next (s1.taskMiss n t die pg o .rd late)
      | (.ok k, s1) =>
        let fits := fun (q : Nat) => s1.fitsCore q p.ctx p.rs.pcarve 1 k.granules k.padBytes 0 0
        match if s1.coresFor die 1 fits = some [c] then fits c else none with
        | some (off, slot :: _) =>
          match s1.readPixel who p.rs (p.words.length - 7) (c * 96 + slot) with
          | (.bad e, s2) => .next (s2.badPixel n t e)
          | (.miss pg o, s2) => .next (s2.taskMiss n t die pg o .rd late)
          | (.ok (k, args), s2) => .next ((s2.setTask n { t with missed := none }).putPixelWave p k args c off slot quads)
        | _ => .next s1
  | _, _ => .next s

/-! ### Path coverage (R345 to R347) -/

/-- Bits after the binary point of a curve parameter, and of the band within which an integral counts as a tie.
(DEDUCED: log 43) -/
def pathBits : Nat := 512
/-- (DEDUCED: log 43) -/
def tieBits : Nat := 400
/-- A curve: coefficients of x and y in the parameter, lowest power first, in 1/256 pixel; and whether it is a cubic. -/
structure Curve where
  x : List Int
  y : List Int
  deg : Nat
  deriving DecidableEq, Repr
/-- Σ c_i t^i at t = n / 2^pathBits, times 2^(6·pathBits). -/
def polyAt (c : List Int) (n : Nat) : Int :=
  (c.zipIdx.map fun e => e.1 * (n : Int) ^ e.2 * 2 ^ (pathBits * (6 - e.2))).sum
def polyDiff (c : List Int) : List Int := (c.zipIdx.map fun e => e.1 * (e.2 : Int)).drop 1
def polyMul (a b : List Int) : List Int :=
  (List.range (a.length + b.length - 1)).map fun k =>
    ((List.range (k + 1)).map fun i => a.getD i 0 * b.getD (k - i) 0).sum
/-- 60 times the antiderivative. -/
def polyInt (c : List Int) : List Int := 0 :: c.zipIdx.map fun e => e.1 * (60 / (e.2 + 1) : Nat)
/-- Halve an interval where c − lvl changes its sign, n times: the lower end of what is left. (DEDUCED: log 43) -/
def bisect (c : List Int) (lvl : Int) (up : Bool) : Nat → Nat → Nat → Nat
  | 0, lo, _ => lo
  | n + 1, lo, hi =>
    let m := (lo + hi) / 2
    if lo = m then lo
    else
      let below := polyAt c m < lvl * 2 ^ (6 * pathBits)
      if below = up then bisect c lvl up n m hi else bisect c lvl up n lo m
/-- The crossing of a level on an interval where c is monotonic. (DEDUCED: log 43) -/
def crossing (c : List Int) (lvl : Int) (lo hi : Nat) : List Nat :=
  let a := polyAt c lo - lvl * 2 ^ (6 * pathBits)
  let b := polyAt c hi - lvl * 2 ^ (6 * pathBits)
  if a < 0 ∧ 0 < b then [bisect c lvl true (pathBits + 1) lo hi]
  else if 0 < a ∧ b < 0 then [bisect c lvl false (pathBits + 1) lo hi]
  else []
/-- Crossings of a level on a list of intervals given by their ends. (DEDUCED: log 43) -/
def crossings (c : List Int) (lvl : Int) : List Nat → List Nat
  | a :: b :: r => crossing c lvl a b ++ crossings c lvl (b :: r)
  | _ => []
def insertNat (a : Nat) : List Nat → List Nat
  | [] => [a]
  | b :: r => if a ≤ b then a :: b :: r else b :: insertNat a r
def sortNat (l : List Nat) : List Nat := l.foldr insertNat []
def pathOne : Nat := 2 ^ pathBits
/-- Where a derivative changes its sign within the curve: the extrema. (DEDUCED: log 43) -/
def extrema (c : List Int) : List Nat :=
  let d := polyDiff c
  let turn := crossings (polyDiff d) 0 [0, pathOne]
  crossings d 0 (sortNat ([0, pathOne] ++ turn))
/-- The points where R345 splits a curve; a cusp is an extremum of x and of y. (DEDUCED: log 43) -/
def Curve.splits (k : Curve) : List Nat :=
  if k.deg = 1 then []
  else if k.deg = 2 then extrema k.y
  else extrema k.y ++ extrema k.x
/-- 60 · 2^(6·pathBits) times a piece's integral over a pixel, in units of 1/65,536 of a pixel. (DEDUCED: log 43) -/
def pieceArea (k : Curve) (px py : Nat) (lo hi : Nat) : Int :=
  let inner := sortNat ([lo, hi] ++ (extrema k.x).filter fun t => lo < t && t < hi)
  let x0 : Int := 256 * px
  let y0 : Int := 256 * py
  let cuts := sortNat (inner ++ crossings k.x x0 inner ++ crossings k.x (x0 + 256) inner
    ++ crossings k.y y0 inner ++ crossings k.y (y0 + 256) inner)
  let one : Int := 2 ^ (6 * pathBits)
  let yI := k.y.map (60 * 256 * ·)
  let xyI := polyInt (polyMul ((k.x.headD 0 - x0) :: k.x.drop 1) (polyDiff k.y))
  ((cuts.zip (cuts.drop 1)).map fun e =>
    -- twice the middle of the interval decides where it lies
    let u := e.1
    let v := e.2
    let midX := polyAt k.x u + polyAt k.x v
    let midY := polyAt k.y u + polyAt k.y v
    if u = v ∨ midY < 2 * y0 * one ∨ 2 * (y0 + 256) * one < midY ∨ midX < 2 * x0 * one then 0
    else if 2 * (x0 + 256) * one < midX then polyAt yI v - polyAt yI u
    else polyAt xyI v - polyAt xyI u).sum
/-- rint_rne of a sum over 60 · 2^(6·pathBits); a value within 2^−tieBits of a tie counts as one. (DEDUCED: log 43) -/
def rintArea (n : Int) : Int :=
  let d : Int := 60 * 2 ^ (6 * pathBits)
  let k := n / d
  let r2 := 2 * (n % d) - d
  if r2.natAbs * 2 ^ tieBits ≤ d.toNat then (if k % 2 = 0 then k else k + 1)
  else if 0 < r2 then k + 1 else k
/-- A curve's pieces, each rounded on its own. (DEDUCED: log 43) -/
def curveArea (k : Curve) (px py : Nat) : Int :=
  let ts := sortNat ([0, pathOne] ++ k.splits)
  ((ts.zip (ts.drop 1)).map fun e => rintArea (pieceArea k px py e.1 e.2)).sum

def lineCurve (a b : Int × Int) : Curve := ⟨[a.1, b.1 - a.1], [a.2, b.2 - a.2], 1⟩
/-- Three points on one line. -/
def collinear (a b c : Int × Int) : Bool := (b.1 - a.1) * (c.2 - a.2) = (c.1 - a.1) * (b.2 - a.2)
def quadCurve (a c b : Int × Int) : Curve :=
  let k := fun (p q r : Int) => [p, 2 * (q - p), r - 2 * q + p]
  if collinear a c b then lineCurve a b else ⟨k a.1 c.1 b.1, k a.2 c.2 b.2, 2⟩
def cubicCurve (a c e b : Int × Int) : Curve :=
  let k := fun (p q r t : Int) => [p, 3 * (q - p), 3 * (r - 2 * q + p), t - 3 * r + 3 * q - p]
  if collinear a c e && collinear a c b && collinear a e b && collinear c e b then lineCurve a b
  else ⟨k a.1 c.1 e.1 b.1, k a.2 c.2 e.2 b.2, 3⟩
/-- The curves of a path, every contour closed (R232): start of the contour, current point. -/
def pathCurves : List Seg → (Int × Int) → (Int × Int) → List Curve
  | [], st, cur => [lineCurve cur st]
  | .move x y :: r, st, cur => lineCurve cur st :: pathCurves r (x, y) (x, y)
  | .line x y :: r, st, cur => lineCurve cur (x, y) :: pathCurves r st (x, y)
  | .quad cx cy x y :: r, st, cur => quadCurve cur (cx, cy) (x, y) :: pathCurves r st (x, y)
  | .cubic c1x c1y c2x c2y x y :: r, st, cur => cubicCurve cur (c1x, c1y) (c2x, c2y) (x, y) :: pathCurves r st (x, y)
/-- A(P) of R346. (DEDUCED: log 43) -/
def pathA (cs : List Curve) (px py : Nat) : Int :=
  max (-8388608) (min 8388607 ((cs.map fun k => curveArea k px py).sum))
/-- cov of R347. (DEDUCED: log 43) -/
def fillCov (eo : Bool) (a : Int) : Nat :=
  if eo then
    let r : Int := rintFrac a.natAbs 131072 false .rne
    let m := 131072 * if 0 ≤ a then r else -r
    (a - m).natAbs
  else min a.natAbs 65536
/-- The covered pixels of a path with their coverage. (DEDUCED: log 43) -/
def PathItem.fill (p : PathItem) : List (Nat × Nat × Nat) :=
  let cs := (pathCurves p.segs (0, 0) (0, 0)).filter fun k => k.x.length ≠ 2 || k.x.getD 1 0 ≠ 0 || k.y.getD 1 0 ≠ 0
  ((List.range (p.tgt.width * p.tgt.height)).map fun i =>
    let px := i % p.tgt.width
    let py := i / p.tgt.width
    (px, py, fillCov p.eo (pathA cs px py))).filter fun c => c.2.2 ≠ 0
/-- The pixels of a path with a commit still due; a path without any is done. -/
def State.setCover (s : State) (order : Nat) (l : List (Nat × Nat × Nat)) : State :=
  let put := fun (q : PathItem) => if q.order = order then { q with cover := some l } else q
  let ps := if l.isEmpty then s.gfx.paths.filter fun q => q.order ≠ order else s.gfx.paths.map put
  { s with gfx := { s.gfx with paths := ps } }
/-- PATH_FILL: the Awl computes the coverage of the released path with a release number. -/
def execPathFill (ix : Nat) (s : State) : Host.Outcome State Fault Refusal :=
  match s.gfx.paths.find? fun p => p.order = ix with
  | none => .next s
  | some p =>
    match p.cover with
    | some _ => .next s
    | none =>
      let l := p.fill
      .next (s.setCover ix l)

/-! ### Commits (R341, R348, R349) -/

/-- A BLND commit takes effect. -/
def State.commitBlend (s : State) (c : Commit) : State :=
  let src := c.rgba.map fun w => f32.read w.toNat
  let s1 := s.putPixel c.task (engineAt c.ctx c.die) c.tgt c.px c.py (blendPixel c.tgt.format c.mode src)
  { s1 with gfx := { s1.gfx with commits := s1.gfx.commits.filter fun e => e.order ≠ c.order } }
/-- A path's commit at one pixel takes effect. -/
def State.commitPath (s : State) (p : PathItem) (die px py cov : Nat) : State :=
  let s1 := s.putPixel p.task (engineAt p.ctx die) p.tgt px py (pathPixel p.tgt cov)
  let left := (p.cover.getD []).filter fun c => !(c.1 = px && c.2.1 = py)
  s1.setCover p.order left
/-- BLEND_COMMIT: the waiting commit with a release number takes effect, a path's at its first pixel that may. -/
def execBlendCommit (ix : Nat) (s : State) : Host.Outcome State Fault Refusal :=
  match s.gfx.commits.find? fun c => c.order = ix with
  | some c =>
    if !s.mayCommit c.task c.tgt.va c.px c.py c.seq (some c.order) then .next s
    else .next (s.engineRun c.task c.die (engineAt c.ctx c.die) .wr [pixelVa c.tgt c.px c.py] (·.commitBlend c))
  | none =>
    match s.gfx.paths.find? fun p => p.order = ix with
    | none => .next s
    | some p =>
      match (p.cover.getD []).find? fun c => s.mayCommit p.task p.tgt.va c.1 c.2.1 p.seq (some p.order) with
      | none => .next s
      | some (px, py, cov) =>
        let home := (mget s.ctxs p.ctx).elim 0 (·.home)
        let die := s.pixelDie p.ctx (home * 40) (pixelVa p.tgt px py)
        .next (s.engineRun p.task die (engineAt p.ctx die) .wr [pixelVa p.tgt px py] fun s => s.commitPath p die px py cov)

/-! ### The Lantern (R351 to R353) -/

/-- Splat a stands before splat b (R352). (DEDUCED: log 41) -/
def SplatItem.before (a b : SplatItem) : Bool :=
  let d := a.depth.toNat
  let e := b.depth.toNat
  d < e || (d = e && (a.seq.toNat < b.seq.toNat || (a.seq = b.seq && a.order < b.order)))
def insertSplat (a : SplatItem) : List SplatItem → List SplatItem
  | [] => [a]
  | b :: r => if a.before b then a :: b :: r else b :: insertSplat a r
/-- (DEDUCED: log 41) -/
def sortSplats (l : List SplatItem) : List SplatItem := l.foldr insertSplat []
/-- α of a splat at a pixel; none where it does not contribute (R351). -/
def splatAlpha (ws : List Word) (px py : Nat) : Option Word :=
  if !inBox ws px py then none
  else
    let dx := rSub (rHalf px) (splatW ws 0)
    let dy := rSub (rHalf py) (splatW ws 1)
    let q := rAdd (rAdd (rMul (rMul (splatW ws 2) dx) dx) (rMul (rMul (rMul 0x40000000 (splatW ws 3)) dx) dy))
      (rMul (rMul (splatW ws 4) dy) dy)
    let e := rOp (fexp2Op (rMul (rNeg 0x3F38AA3B) q).toNat)
    let al := rOp (fminmax f32 false (rMul (splatW ws 5) e).toNat 0x3F7D70A4)
    if rLess al 0x3B808081 then none else some al
/-- State of a pixel's composite: T, C, and whether anything contributed. -/
structure Comp where
  t : Word
  c : List Word
  hit : Bool
  deriving DecidableEq, Repr
/-- a · b + c with one rounding. -/
def rFma (a b c : Word) : Word :=
  rOp (roundNum f32 .rne (dotNum [(f32.read a.toNat, f32.read b.toNat)] (f32.read c.toNat) .rne).val)
/-- The composite over splats in order, until T falls below the threshold. (DEDUCED: log 41) -/
def compositeAt (thresh : Word) (px py : Nat) : List SplatItem → Comp → Comp
  | [], k => k
  | i :: r, k =>
    match splatAlpha i.words px py with
    | none => compositeAt thresh px py r k
    | some al =>
      let wt := rMul al k.t
      let t := rSub k.t wt
      let k1 : Comp := ⟨t, (List.range 3).map fun n => rFma wt (splatW i.words (6 + n)) (k.c.getD n 0), true⟩
      if rLess t thresh then k1 else compositeAt thresh px py r k1
/-- Write a pixel's composite; a colour committed to a COV32 target gives a word that is not defined.
(DEDUCED: log 41) -/
def State.putComposite (s : State) (d : Draw) (die px py : Nat) (k : Comp) : State :=
  if !k.hit then s
  else
    let src := (k.c ++ [rSub 0x3F800000 k.t]).map fun w => f32.read w.toNat
    if d.rs.tgt.format = 3 then
      { s with fresh := s.fresh + 1 }.putPixel d.task (engineAt d.ctx die) d.rs.tgt px py
        fun _ => bytesOfNat 4 (Config.freeNat s.fresh)
    else s.putPixel d.task (engineAt d.ctx die) d.rs.tgt px py (blendPixel d.rs.tgt.format d.rs.lblend src)
/-- A spill record is that of a draw. -/
def SpillTile.ofThe (p : SpillTile) (d : Draw) : Bool :=
  p.task = d.task && p.job = d.job && p.tgt = d.rs.tgt.va && p.number = d.number
/-- A draw that is over leaves the Lantern, and the job it came from ends. (DEDUCED: log 42) -/
def State.drawEnd (s : State) (ix : Nat) (d : Draw) : State :=
  let keep := s.splatsOf d
  let s1 := { s with gfx := { s.gfx with
    draws := s.gfx.draws.eraseIdx ix, splats := s.gfx.splats.filter fun i => !keep.contains i,
    spills := s.gfx.spills.filter fun p => !p.ofThe d } }
  match d.job with
  | none => s1
  | some j => s1.modTask d.task fun t => { t with jobsEnded := t.jobsEnded ++ [j] }
/-- A draw with no tile left to composite ends. (DEDUCED: log 42) -/
def State.drawCheck (s : State) (ix : Nat) : State :=
  match s.gfx.draws[ix]? with
  | none => s
  | some d => if (tilesOf d.rs.tgt).any (fun t => s.drawDue d t.1 t.2) then s else s.drawEnd ix d
/-- The pages of a tile's runs in the spill area. -/
def Draw.runPages (d : Draw) (runs : List Nat) : List DWord :=
  runs.flatMap fun k => (List.range (runBytes / 4096)).map fun i => d.rs.spill + BitVec.ofNat 64 (k * runBytes + 4096 * i)
/-- The runs of a tile are written to the spill area, in a form the spec leaves open; one that fails gives the task its
fault (R339, R352). (DEDUCED: log 41) -/
def State.writeRuns (s : State) (d : Draw) (die : Nat) (runs : List Nat) : State :=
  runs.foldl (fun s k =>
    let r := s.rangeOf (engineAt d.ctx die) .wr (d.rs.spill + BitVec.ofNat 64 (k * runBytes)) runBytes
    match r.1.2 with
    | none => { r.2 with fresh := r.2.fresh + runBytes }.perform
        (zipCells (pieceKeys r.1.1) ((List.range runBytes).map fun i => BitVec.ofNat 8 (Config.freeNat (r.2.fresh + i))))
        (pieceLines r.1.1)
    | some (c, _) => r.2.taskFault d.task c.cause) s
/-- Composite a draw on a tile. (DEDUCED: log 41) -/
def State.composite (s : State) (ix : Nat) (d : Draw) (die tx ty : Nat) : State :=
  let runs := s.gfx.spills.filter fun p => p.ofThe d && p.tx = tx && p.ty = ty
  let gone := runs.flatMap (·.dropped)
  let kept := (s.splatsOf d).filter fun i => meetsTile i.words d.rs.tgt tx ty && !gone.contains i.order
  let s1 := s.writeRuns d die (runs.flatMap (·.runs))
  let thresh := BitVec.ofNat 32 (s.reg 0 (oCtx d.ctx 0x38))
  let sorted := sortSplats kept
  let tick := fun (d : Draw) => { d with done := d.done ++ [(tx, ty)] }
  let s2 := (tilePixels d.rs.tgt tx ty).foldl (fun s p =>
    let home := s.pixelDie d.ctx (die * 40) (pixelVa d.rs.tgt p.1 p.2)
    s.putComposite d home p.1 p.2 (compositeAt thresh p.1 p.2 sorted ⟨0x3F800000, [0, 0, 0], false⟩)) s1
  let left := s2.gfx.spills.filter fun p => !runs.contains p
  ({ s2 with gfx := { s2.gfx with draws := s2.gfx.draws.modify ix tick, spills := left } }).drawCheck ix
/-- LANTERN_COMPOSITE: a draw is composited on a tile once its commit may take effect. (DEDUCED: log 41) -/
def execLanternComposite (ix tx ty : Nat) (s : State) : Host.Outcome State Fault Refusal :=
  match s.gfx.draws[ix]? with
  | none => .next s
  | some d =>
    let px := tilePixels d.rs.tgt tx ty
    if !s.drawDue d tx ty then .next (if s.horizonsAt d.task (drawSeq d) then s.drawCheck ix else s)
    else if !(px.all fun p => s.mayCommit d.task d.rs.tgt.va p.1 p.2 (drawSeq d) (some d.order)) then .next s
    else
      let home := (mget s.ctxs d.ctx).elim 0 (·.home)
      let die := (s.task? d.task).elim home fun t => if t.card.cls = 0 then home else t.die
      .next (s.engineRun d.task die (engineAt d.ctx die) .wr ((px.map fun p => pixelVa d.rs.tgt p.1 p.2)
          ++ d.runPages ((s.gfx.spills.filter fun p => p.ofThe d && p.tx = tx && p.ty = ty).flatMap (·.runs)))
        fun s => s.composite ix d die tx ty)

end Sys2Proof.Machine
end

