-- ==== Sys2Proof/Machine/Jobs.lean ====
section
/-! DEFINITION. Machine/Jobs.lean: the jobs of engine tasks: clears (R357), draws of splats (R358), copies (R267) and
encodes (R382). -/

namespace Sys2Proof.Machine

/-- A dispatched task of an engine class whose job j is still to be run; a gang's, once it has started. -/
def State.jobTask (s : State) (n j cls : Nat) : Option Task :=
  match s.task? n with
  | none => none
  | some t =>
    if t.st = .dispatched ∧ t.card.cls = cls ∧ j < t.card.units ∧ t.jobsEnded.contains j = false
        ∧ t.status.isNone ∧ (s.liveCtx t.ctx).isSome ∧ (t.card.gang = false ∨ t.gangStarted) then some t else none
/-- A job ends, with a fault or without. (DEDUCED: log 44) -/
def State.jobEnd (s : State) (n j cause : Nat) : State :=
  let s1 := if cause = 0 then s else s.taskFault n cause
  s1.modTask n fun t => { t with jobsEnded := t.jobsEnded ++ [j], missed := none }
/-- Read bytes for a job: a page that misses is awaited, any other failure ends the job with its cause.
(DEDUCED: log 44) -/
def State.jobRead (s : State) (n j : Nat) (t : Task) (va : DWord) (len : Nat) (go : State → Bytes → State) : State :=
  match s.buoyRead (engineAt t.ctx t.die) va len with
  | (.ok b, s1) => go s1 b
  | (.bad c, s1) => s1.jobEnd n j c
  | (.miss p o, s1) => s1.taskMiss n t t.die p o .rd fun s => s.jobEnd n j 0x06
/-- A render target for a job; a reserved one ends the job with 0x03. (DEDUCED: log 44) -/
def State.jobTarget (s : State) (n j : Nat) (t : Task) (va : DWord) (go : State → Target → State) : State :=
  if va.toNat % 64 ≠ 0 then s.jobEnd n j 0x03
  else s.jobRead n j t va 64 fun s b => match targetOf va b with
    | some q => go s q
    | none => s.jobEnd n j 0x03
/-- Record j of a task's job list. -/
def Task.record (t : Task) (j size : Nat) : DWord := t.card.kernel + BitVec.ofNat 64 (size * j)

/-! ### Clears (R357) -/

/-- The pixels of a rectangle inside a target. -/
def rectPixels (t : Target) (x0 y0 x1 y1 : Nat) : List (Nat × Nat) :=
  let w := min x1 t.width - x0
  let h := min y1 t.height - y0
  (List.range (w * h)).map fun i => (x0 + i % w, y0 + i / w)
/-- A cleared pixel. -/
def clearPixel (t : Target) (value : Bytes) : Bytes → Bytes := fun old =>
  if t.format = 3 then value.take 4
  else blendPixel t.format 0 ((List.range 4).map fun k => f32.read (cardAt value (4 * k) 4)) old
/-- CLEAR_JOB. (DEDUCED: log 44) -/
def execClearJob (n j : Nat) (s : State) : Host.Outcome State Fault Refusal :=
  match s.jobTask n j 1 with
  | none => .next s
  | some t =>
    .next <| s.jobRead n j t (t.record j 32) 32 fun s b =>
      s.jobTarget n j t (BitVec.ofNat 64 (cardAt b 0 8)) fun s q =>
        let px := rectPixels q (cardAt b 8 2) (cardAt b 10 2) (cardAt b 12 2) (cardAt b 14 2)
        let who := engineAt t.ctx t.die
        s.engineRun n t.die who .wr (px.map fun p => pixelVa q p.1 p.2) fun s =>
          (px.foldl (fun s p => s.putPixel n who q p.1 p.2 (clearPixel q (b.drop 16))) s).jobEnd n j 0

/-! ### Draws of splats (R358) -/

/-- The splat of a record of 40 bytes. (DEDUCED: log 41) -/
def splatItem (s : State) (t : Task) (n j draw : Nat) (rs : Raster) (b : Bytes) (i : Nat) : SplatItem :=
  { ctx := t.ctx, task := n, rs := rs,
    words := (List.range 9).map fun k => BitVec.ofNat 32 (cardAt b (40 * i + 4 + 4 * k) 4),
    depth := BitVec.ofNat 32 (cardAt b (40 * i) 4), seq := BitVec.ofNat 64 (draw * 2 ^ 32 + i)
    order := s.gfx.nextOrder + i, job := some j }
/-- SPLAT_JOB: the job's splats go to the Lantern as one draw; the job ends with its last composite.
(DEDUCED: log 44) -/
def execSplatJob (n j : Nat) (s : State) : Host.Outcome State Fault Refusal :=
  match s.jobTask n j 2 with
  | none => .next s
  | some t =>
    if s.gfx.draws.any fun d => d.task = n && d.job = some j then .next s
    else
      .next <| s.jobRead n j t (t.record j 32) 32 fun s b =>
        let w := natOfBytes b
        if fieldOf w 255 160 ≠ 0 ∨ fieldOf w 127 104 ≠ 0 then s.jobEnd n j 0x03
        else
          let count := fieldOf w 95 64
          let at_ := s.reg 0 (oCtx t.ctx 0x30) / 64 * 64 + 64 * fieldOf w 103 96
          s.jobRead n j t (BitVec.ofNat 64 at_) 64 fun s e => match rasterOf e with
            | none => s.jobEnd n j 0x03
            | some (r, tgt) => s.jobTarget n j t tgt fun s q =>
              s.jobRead n j t (BitVec.ofNat 64 (fieldOf w 63 0)) (40 * count) fun s data =>
                let rs := { r with tgt := q }
                let draw := fieldOf w 159 128
                let items := (List.range count).map (splatItem s t n j draw rs data)
                let d : Draw := ⟨t.ctx, n, rs, BitVec.ofNat 32 draw, [], some j, s.gfx.nextOrder⟩
                let s1 := { s with gfx := { s.gfx with draws := s.gfx.draws ++ [d], nextOrder := s.gfx.nextOrder + count } }
                (items.foldl (fun s i => { s with gfx := { s.gfx with splats := s.gfx.splats ++ [i] } }.spillFor i) s1).modTask n
                  fun t => { t with missed := none }

/-! ### Copies (R207, R211, R267) -/

/-- A copy-class job as a job of the copy engine on the task's die. -/
def classCopy (t : Task) (n j : Nat) (a : CpyArgs) : CopyJob :=
  { id := j, wave := noWave, ctx := t.ctx, task := n, block := 0, src := a.src, dst := a.dst, ssp := a.ssp,
    dsp := a.dsp, scoreOrRank := t.die * 40 + a.f 49 44, dcoreOrRank := t.die * 40 + a.f 55 50, len := a.len, bv := false,
    bar := 0, pol := 0, running := none, left := [], cause := 0, addr := 0, barLine := false, missed := none }
/-- The cause its words are refused with, or 0. -/
def State.copyBad (s : State) (t : Task) (a : CpyArgs) : Nat :=
  let bad := fun (sp core : Nat) (ofs : DWord) =>
    sp = 3 && !(ofs.toNat + a.len ≤ 0x300000 && s.vaultHeld t.ctx (t.die * 40 + core) ofs.toNat a.len)
  if !a.legal ∨ (a.ssp ≠ 0 ∧ a.ssp ≠ 3) ∨ (a.dsp ≠ 0 ∧ a.dsp ≠ 3) ∨ a.bv ∨ (a.ssp = 3 ∧ 40 ≤ a.f 49 44)
      ∨ (a.dsp = 3 ∧ 40 ≤ a.f 55 50) then 0x03
  else if bad a.ssp (a.f 49 44) a.src || bad a.dsp (a.f 55 50) a.dst then 0x07
  else 0
/-- Write the bytes a job has read, up to the page of the first failure (R211); the job's own first failure is named by
cause. -/
def State.copyOut (s : State) (n j : Nat) (t : Task) (k : CopyJob) (bs : Bytes) (cause : Nat) : State :=
  if k.dsp = 3 then (s.perform (cellsAt (vaultKey k.dcoreOrRank k.dst.toNat) bs) []).jobEnd n j cause
  else
    let r := s.rangeCopy (engineAt t.ctx t.die) .wr k.dst bs.length
    let fit := match r.1.2 with
      | some (_, f) => bs.take (failOfs 0 k.dst f)
      | none => bs
    let write := fun (s : State) (c : Nat) =>
      let cells := zipCells (pieceKeys r.1.1) fit
      (s.perform cells ((pieceLines r.1.1).filter fun l => cells.any fun c => lineOf c.1 = l.line)).jobEnd n j c
    match r.1.2 with
    | none => write r.2 cause
    | some (.miss p o, _) => r.2.taskMiss n t t.die p o .wr fun s => write s 0x06
    | some (c, _) => write r.2 c.cause
/-- COPY_CLASS_JOB: the copy reads its source and writes its destination; where either fails, it writes what lies before
the failing page. (DEDUCED: log 44) -/
def execCopyClassJob (n j : Nat) (s : State) : Host.Outcome State Fault Refusal :=
  match s.jobTask n j 3 with
  | none => .next s
  | some t =>
    .next <| s.jobRead n j t (t.record j 32) 32 fun s b =>
      let r := fun i => BitVec.ofNat 64 (cardAt b (8 * i) 8)
      let a : CpyArgs := ⟨r 0, r 1, r 2, r 3⟩
      let bad := s.copyBad t a
      if bad ≠ 0 then s.jobEnd n j bad
      else
        let k := classCopy t n j a
        let q := s.spaceRead k (t.die * 40) 0 k.len
        let till := fun (f : DWord) => q.1.1.take (failOfs k.ssp k.src f)
        match q.1.2 with
        | none => q.2.copyOut n j t k q.1.1 0
        | some (.miss p o, f) => q.2.taskMiss n t t.die p o .rd fun s => s.copyOut n j t k (till f) 0x06
        | some (c, f) => q.2.copyOut n j t k (till f) c.cause

/-! ### Encodes (R382) -/

/-- A record's must-be-zero fields and its descriptor are as R382 asks. -/
def encodeTarget (va : DWord) (w : Nat) : Option Target :=
  let d := fieldOf w 255 64
  match targetOf va (bytesOfNat 64 d) with
  | some t =>
    if fieldOf w 511 448 = 0 ∧ fieldOf w 319 296 = 0 ∧ fieldOf w 287 280 = 0 ∧ fieldOf w 278 256 = 0 ∧ fieldOf w 63 0 = 0
        ∧ t.format < 2 ∧ t.width ≤ 3840 ∧ t.height ≤ 2160 then some t else none
  | none => none
/-- The bytes of a frame, row by row. (DESIGN CHOICE: log 45) -/
def State.frameBytes (s : State) (n j : Nat) (t : Task) (q : Target) : Nat → State → (State → Bytes → State) → State
  | 0, s0, go => go s0 []
  | rows + 1, s0, go =>
    s0.jobRead n j t (q.base + BitVec.ofNat 64 ((q.height - (rows + 1)) * q.pitch)) (q.width * pixBytes q.format) fun s1 b =>
      s.frameBytes n j t q rows s1 fun s2 r => go s2 (b ++ r)
/-- Write bytes for a job, then go on; a failure ends the job. (DESIGN CHOICE: log 45) -/
def State.jobWrite (s : State) (n j : Nat) (t : Task) (va : DWord) (bs : Bytes) (go : State → State) : State :=
  let r := s.rangeOf (engineAt t.ctx t.die) .wr va bs.length
  match r.1.2 with
  | none => go (r.2.perform (zipCells (pieceKeys r.1.1) bs) (pieceLines r.1.1))
  | some (.miss p o, _) => r.2.taskMiss n t t.die p o .wr fun s => s.jobEnd n j 0x06
  | some (c, _) => r.2.jobEnd n j c.cause
/-- ENCODE_JOB: the bitstream is written with its length; one longer than OUTCAP sets OUTLEN to all ones, and what stands
in the buffer is then any prefix. (DESIGN CHOICE: log 45) -/
def execEncodeJob (n j : Nat) (s : State) : Host.Outcome State Fault Refusal :=
  match s.jobTask n j 4 with
  | none => .next s
  | some t =>
    .next <| s.jobRead n j t (t.record j 64) 64 fun s b =>
      let w := natOfBytes b
      match encodeTarget (t.record j 64) w with
      | none => s.jobEnd n j 0x03
      | some q => s.frameBytes n j t q q.height s fun s frame =>
        let bits := Config.bitstream (w.testBit 279) (fieldOf w 295 288) q.width q.height frame
        let cap := fieldOf w 415 384
        let fit := decide (bits.length ≤ cap)
        let out := if fit then bits else bits.take (Config.freeNat s.fresh % (cap + 1))
        let len := if fit then bits.length else 0xFFFFFFFF
        let s1 := if fit then s else { s with fresh := s.fresh + 1 }
        s1.jobWrite n j t (BitVec.ofNat 64 (fieldOf w 383 320)) out fun s =>
          s.jobWrite n j t (t.record j 64 + 52) (bytesOfNat 4 len) fun s => s.jobEnd n j 0

end Sys2Proof.Machine
end

