-- ==== Sys2Proof/Machine/Ring.lean ====
section
/-! DEFINITION. Machine/Ring.lean: the command rings (R367, R374 to R376, R380), the permission checks (R378), and the
commands that launch tasks, invalidate translations, and create, destroy and supply contexts (R268, R309, R370, R375,
R377). -/

namespace Sys2Proof.Machine

/-! ### The ring (R367, R380) -/

/-- A function's ring: commands it holds, the next one read, and the host's tail. -/
def State.cmdLen (s : State) (f : Nat) : Nat := ringLen (s.reg f (oFn 0x48))
def State.cmdHead (s : State) (f : Nat) : Nat := s.reg f (oFn 0x50)
/-- The 64 bytes of the command at the head (R374). -/
def State.headBytes (s : State) (f : Nat) : Bytes :=
  s.peek (hostKey (s.reg f (oFn 0x40) + 64 * (s.cmdHead f % s.cmdLen f))) 64
def State.expect (s : State) (f : Nat) : Nat := s.reg f (oFn 0x18)
/-- The ring halts in ERROR. (DEDUCED: log 57) -/
def State.haltRing (s : State) (f why : Nat) : State := s.setFn f { s.fn f with ringHalt := why }
/-- An index lies at a ring's head or behind it. (DEDUCED: log 57) -/
def behind (ix head : Nat) : Bool := (head + 2 ^ 32 - ix) % 2 ^ 32 < 2 ^ 31
/-- A rotation takes effect: the key, the sequence from 1, and a ring that runs; a halted ring passes over the commands up
to the index. (DEDUCED: log 57) -/
def State.rotate (s : State) (f : Nat) (key : BitVec 256) (ix : Nat) : State :=
  let k := s.fn f
  let s1 := (s.setReg f (oFn 0x18) 1).setFn f { k with key := some key, ringHalt := 0 }
  if k.ringHalt ≠ 0 ∧ !behind ix (s.cmdHead f) then s1.setReg f (oFn 0x50) ix else s1
/-- The rotations due at the head take effect, in order of arrival; on a halted ring the next one does.
(DEDUCED: log 57) -/
def State.rotations (s : State) (f : Nat) : Nat → State
  | 0 => s
  | n + 1 =>
    match (s.fn f).rotations with
    | [] => s
    | (key, ix) :: r =>
      if behind ix.toNat (s.cmdHead f) ∨ (s.fn f).ringHalt ≠ 0 then
        ((s.setFn f { s.fn f with rotations := r }).rotate f key ix.toNat).rotations f n
      else s

/-- A command under way: its bytes. -/
def cmdOp (b : Bytes) : Nat := cardAt b 0 2
def cmdCtx (b : Bytes) : Nat := cardAt b 2 2
def cmdSeq (b : Bytes) : Nat := cardAt b 8 8
def cmdCpl (b : Bytes) : Nat := cardAt b 0x10 8
/-- ARG as a number of 192 bits, and bits of it. -/
def cmdArg (b : Bytes) : Nat := cardAt b 0x18 24
def argF (b : Bytes) (hi lo : Nat) : Nat := fieldOf (cmdArg b) hi lo
/-- The status record (R376). -/
def statusRecord (now seq res detail status : Nat) : Bytes :=
  bytesOfNat 1 status ++ bytesOfNat 1 detail ++ bytesOfNat 2 res ++ bytesOfNat 4 seq ++ bytesOfNat 8 now
def State.putStatus (s : State) (cpl seq status detail res : Nat) : State :=
  if cpl = 0 ∨ cpl % 16 ≠ 0 then s else s.poke (cellsAt (hostKey cpl) (statusRecord s.time (seq % 2 ^ 32) res detail status))
/-- The ring goes on to its next command. (DEDUCED: log 57) -/
def State.cmdNext (s : State) (f : Nat) : State :=
  (s.setFn f { s.fn f with taken := none, asked := none }).setReg f (oFn 0x50) ((s.cmdHead f + 1) % 2 ^ 32)
/-- The command completes: its status record, and the next command. -/
def State.complete_ (s : State) (f : Nat) (b : Bytes) (status detail res : Nat) : State :=
  (s.putStatus (cmdCpl b) (cmdSeq b) status detail res).cmdNext f
/-- The command waits for a page; two mapped replies that leave it missing end the wait. (DEDUCED: log 57) -/
def State.cmdMiss (s : State) (f die ctx page origin : Nat) (late : State → State) : State :=
  let k := askedFor (s.fn f).asked page
  if 2 ≤ k then late s
  else (s.request die ctx page .rd origin).setFn f { s.fn f with asked := some (page, k) }

/-! ### Permission (R360, R378) -/

/-- The interface of a function is locked: no context of it comes or goes (R360). -/
def State.lockedFn (s : State) (f : Nat) : Bool := (s.fn f).tdisp.isLocked
/-- The function whose contexts a CREATE or FORK would add to. -/
def State.bindsTo (s : State) (b : Bytes) : Option Nat :=
  if cmdOp b = 9 then some (argF b 9 0)
  else if cmdOp b = 4 then some (fieldOf (s.peekN (hostKey (argF b 63 0 + 2)) 2) 9 0)
  else none
/-- The context a command acts on: RESTORE's is the one its manifest names, FORK's the template of its block. -/
def State.namedCtx (s : State) (b : Bytes) : Option Nat :=
  let op := cmdOp b
  if op = 7 then some (s.peekN (hostKey (argF b 63 0 + 4)) 2)
  else if op = 4 then some (fieldOf (s.peekN (hostKey (argF b 63 0)) 2) 9 0)
  else if op = 8 ∨ op = 9 ∨ op = 11 then none
  else some (cmdCtx b)
/-- The command is not permitted: status 4. -/
def State.refused (s : State) (f : Nat) (b : Bytes) : Bool :=
  let op := cmdOp b
  let ctx := (s.namedCtx b).bind (mget s.ctxs ·)
  let other : Bool := match ctx with
    | some c => c.fn ≠ f
    | none => false
  let dead : Bool := match ctx with
    | some c => c.terminated
    | none => false
  (f ≠ 0 && (op = 3 || op = 4 || op = 5 || (8 ≤ op && op ≤ 12)))
    || ((op = 1 || op = 2) && other) || (f ≠ 0 && (op = 6 || op = 7) && other)
    || (dead && op ≠ 10)
    || (match s.bindsTo b with | some g => s.lockedFn g | none => false)
    || (op = 10 && (match ctx with | some c => s.lockedFn c.fn | none => false))
/-- Reserved fields and an absent context: status 2 (R375). -/
def State.malformed (s : State) (b : Bytes) : Bool :=
  let op := cmdOp b
  let a := fun hi lo => decide (argF b hi lo ≠ 0)
  let absent : Bool := match s.namedCtx b with
    | some c => op ≠ 7 && (mget s.ctxs c).isNone
    | none => false
  op = 0 || decide (12 < op) || decide (cardAt b 4 4 ≠ 0) || absent
    || (op = 8 && (a 191 75 || decide (512 < argF b 74 65)))
    || (op = 9 && (a 191 26 || decide (512 < argF b 9 0) || (argF b 12 12 = 1 && a 11 10)))
    || (op = 10 && a 191 0)
    || (op = 11 && (a 63 39 || a 191 106 || decide (512 < argF b 105 96)))
    || (op = 12 && (a 63 39 || a 191 96))

/-- The card of a LAUNCH or FRAME that waits for its page will not be mapped: the reply has ended the context (R312,
R376). (DEDUCED: log 57) -/
def State.cardLost (s : State) (f : Nat) (b : Bytes) : Bool :=
  decide (cmdOp b ≤ 2) && (s.fn f).asked.isSome
    && (mget s.ctxs (cmdCtx b)).elim false fun c => c.terminated && decide (c.termCause = 0x06)

/-- What a command's meaning answers: a completion, or that it waits. -/
inductive CmdOut where
  | done (s : State) (status detail res : Nat)
  | wait (s : State)
  /-- It is over and its status record comes later. -/
  | later (s : State)

/-- Take the command at the head of a function's ring, where its OP is one of these (R367): sequence, MAC, CPL,
permission, form, and then its meaning, which may have it wait at the head. (DESIGN CHOICE: log 7, DEDUCED: log 57) -/
def State.takeCommand (s0 : State) (f : Nat) (op : Nat) (run : State → Bytes → CmdOut) : State :=
  let s := s0.rotations f (s0.fn f).rotations.length
  let b := s.headBytes f
  if 513 ≤ f ∨ !s0.portOpen ∨ s.cmdLen f = 0 ∨ (s.fn f).ringHalt ≠ 0 ∨ behind (s.reg f (oFn 0x4C)) (s.cmdHead f)
      ∨ !(cmdOp b = op ∨ cmdOp b = 0 ∨ 12 < cmdOp b) then s0
  else
    let go := fun (s : State) =>
      if cmdCpl b % 16 ≠ 0 then s.cmdNext f
      else if s.cardLost f b then s.complete_ f b 2 0x06 0
      else if s.refused f b then s.complete_ f b 4 0 0
      else if s.malformed b then s.complete_ f b 2 0 0
      else match run s b with
        | .done s1 st d r => s1.complete_ f b st d r
        | .wait s1 => s1
        | .later s1 => s1.cmdNext f
    if (s.fn f).taken.isSome then go s
    else
      let e := s.expect f
      let q := cmdSeq b
      let mac := match (s.fn f).key with
        | some k => bytesOfNat 16 (kmac128 k (b.take 0x30)).toNat = b.drop 0x30
        | none => false
      if q < e then (s.setReg f (oFn 0x10) (min 0xFFFF (s.reg f (oFn 0x10) + 1))).cmdNext f
      else if e < q then s.haltRing f 1
      else if 2 ^ 48 ≤ q then s.haltRing f 3
      else if !mac then s.haltRing f 2
      else go ((s.setReg f (oFn 0x18) (e + 1)).setFn f { s.fn f with taken := some s.time })

/-! ### LAUNCH and FRAME (R268, R370, R376) -/

/-- What both launches share: the card is read in its context's translation, checked and accepted. -/
def State.hostCard (s : State) (f : Nat) (b : Bytes) (open_ : Bool) : CmdOut :=
  let ctx := cmdCtx b
  let va : DWord := BitVec.ofNat 64 (argF b 63 0)
  let home := (mget s.ctxs ctx).elim 0 (·.home)
  if va.toNat % 128 ≠ 0 then .done s 2 2 0
  else
    match s.readVirt (s.beacon ctx) va 128 with
    | (.error (.miss p o, _), s1) =>
      if 2 ≤ askedFor (s.fn f).asked p then .done s1 2 0x06 0 else .wait (s1.cmdMiss f home ctx p o id)
    | (.error (c, _), s1) => .done s1 2 c.cause 0
    | (.ok card, s1) =>
      let st := s1.cardStatus ctx card
      if st = 1 then .done s1 3 1 0
      else if st = 2 then .done s1 2 2 0
      else if st = 3 then .done s1 4 3 0
      else if open_ then
        let ix := s1.sched.frames.length
        let fr : LogFrame := { ctx := ctx, number := BitVec.ofNat 32 (argF b 95 64), tin := (s.fn f).taken.getD s.time,
                               tstart := none, trend := none, tenc0 := none, tenc1 := none, encTask := none, tasks := [],
                               status := 1, written := false }
        let s2 := { s1 with sched := { s1.sched with frames := s1.sched.frames ++ [fr] } }
        .done (s2.accept ctx card (some ix)).2 1 0 0
      else .done (s1.accept ctx card none).2 1 0 0
/-- LAUNCH from the host. -/
def execHostLaunch (f : Nat) (s : State) : Host.Outcome State Fault Refusal :=
  .next (s.takeCommand f 1 fun s b => s.hostCard f b false)
/-- FRAME. -/
def execFrame (f : Nat) (s : State) : Host.Outcome State Fault Refusal :=
  .next (s.takeCommand f 2 fun s b => s.hostCard f b true)

/-! ### S2INV (R309, R373) -/

/-- The intermediate page range a TLB entry covers at stage 2 holds an address. -/
def TlbE.holds (t : TlbE) (ia : Nat) : Bool :=
  let sh := max 12 t.shift2
  s1ia t.leaf1 t.shift1 t.va t.va / 2 ^ sh = ia / 2 ^ sh
/-- Pages of the leaf at an intermediate address, as a context's table stands: they share this quotient. -/
def State.leafSpan (s : State) (ctx ia : Nat) : Nat :=
  match s.s2leaf ctx ia with
  | .leaf _ lvl _ => 512 ^ lvl
  | _ => 1
/-- The biases of the pages are those of their leaves again (R373). -/
def State.dropBias (s : State) (p : Nat → Nat → Bool) : State :=
  { s with vm := { s.vm with bias := s.vm.bias.filter fun e => !p (e.1 / 2 ^ 36) (e.1 % 2 ^ 36) } }
/-- Shared frames that a context's leaves name no more, once their pages have been invalidated, lose a reference
(R323). (DEDUCED: log 58) -/
def State.dropUnmapped (s : State) (ctx : Nat) (p : Nat → Bool) : State :=
  match mget s.ctxs ctx with
  | none => s
  | some c =>
    let stands := fun (e : Nat × Nat) => match s.s2leaf ctx (4096 * e.1) with
      | .leaf l 0 _ => eBit l 9 && decide (eDev l / 4096 = e.2)
      | _ => false
    let gone := c.shared.filter fun e => p e.1 && !stands e
    gone.foldl (fun s e => s.releaseFrame e.2)
      (s.setCtx ctx { c with shared := c.shared.filter fun e => !(p e.1 && !stands e) })
/-- S2INV: the stage-2 entries of one address, or of all, of a function's contexts are invalidated. -/
def execS2inv (f : Nat) (s : State) : Host.Outcome State Fault Refusal :=
  .next (s.takeCommand f 8 fun s b =>
    let g := argF b 74 65
    let mine := fun (c : Nat) => match mget s.ctxs c with
      | some k => decide (k.fn = g)
      | none => false
    let all := argF b 64 64 = 1
    let ia := argF b 63 0
    let s1 := (s.dropTlb fun t => mine t.ctx && (all || t.holds ia)).dropBias fun c p =>
      mine c && (all || p / s.leafSpan c ia = ia / 4096 / s.leafSpan c ia)
    .done ((s.ctxs.filter fun c => mine c.1).foldl (fun s c => s.dropUnmapped c.1 fun p => all || p = ia / 4096) s1) 1 0 0)

/-! ### Leaves of a context -/

/-- A stage-2 leaf: intermediate page, entry, level, its own address. -/
structure Leaf where
  page : Nat
  e : DWord
  lvl : Nat
  pa : Nat
  deriving DecidableEq, Repr
/-- The valid leaves below a table, in ascending intermediate order. -/
def State.leavesIn (s : State) : Nat → Nat → Nat → List Leaf
  | 0, t, base => (List.range 512).filterMap fun i =>
    let e := s.entryAt (t + 8 * i)
    if eBit e 0 then some ⟨base + i, e, 0, t + 8 * i⟩ else none
  | lvl + 1, t, base => (List.range 512).flatMap fun i =>
    let e := s.entryAt (t + 8 * i)
    if !eBit e 0 then []
    else if lvl = 0 ∧ eBit e 7 then [⟨base + 512 * i, e, 1, t + 8 * i⟩]
    else s.leavesIn lvl (eDev e) (base + i * 512 ^ (lvl + 1))
/-- Every valid leaf of a context; none where it has no table. -/
def State.leaves (s : State) (ctx : Nat) : List Leaf :=
  if s.s2root ctx = 0 then [] else s.leavesIn 3 (s.s2root ctx) 0
/-- Device frames a leaf maps. -/
def Leaf.frames (l : Leaf) : List Nat :=
  if eBit l.e 11 then [] else (List.range (512 ^ l.lvl)).map (eDev l.e / 4096 + ·)

/-! ### Contexts come and go (R324, R330, R371, R377) -/

/-- A key id nobody holds and no cached line is labelled with (R324). (DESIGN CHOICE: log 76) -/
def State.freeKey (s : State) (not_ : Nat) : Option Nat :=
  ((List.range 4095).map (· + 1)).find? fun k => k ≠ not_ && (mget s.vm.keys k).isNone
    && !(s.cores.any fun c => c.2.l1.any fun l => l.label = k)
    && !(s.vm.dirty.any fun e => mget s.vm.lineKey e.1 = some k)
/-- The lowest context id no context has. (DESIGN CHOICE: log 76) -/
def State.freeId (s : State) : Option Nat := (List.range 1024).find? fun n => (mget s.ctxs n).isNone
/-- Context slots in use on a die (R18). -/
def State.slotsUsed (s : State) (d : Nat) : Nat := (s.ctxs.filter fun c => c.2.home = d).length
def State.slotFree (s : State) (d : Nat) : Bool := (s.die d).usable && !(s.die d).lost && s.slotsUsed d < 256
/-- The die with the most free slots, the lowest of equals. -/
def State.emptiest (s : State) : Option Nat :=
  ((List.range 4).filter s.slotFree).foldl (fun m d => match m with
    | none => some d
    | some e => if s.slotsUsed d < s.slotsUsed e then some d else some e) none
/-- Every control of a context takes its reset value. -/
def State.resetCtx (s : State) (n : Nat) : State :=
  { s with regs := s.regs.filter fun e =>
    !((oSched n 0 ≤ e.1 && e.1 < oSched n 0x40) || (oCtx n 0 ≤ e.1 && e.1 < oCtx n 0x40)
      || (oLog n 0 ≤ e.1 && e.1 < oLog n 0x10)) }
/-- Make a context: its id, session key, domain key where its domain has none, eyelet key and log key. none: no slot, id
or key id is free. (DESIGN CHOICE: log 76) -/
def State.newCtx (s : State) (fn die : Nat) (dom : Option Nat) : Option (Nat × State) :=
  match s.freeId, s.freeKey 0 with
  | some n, some sk =>
    if !s.slotFree die then none
    else
      let have_ := dom.bind (mget s.vm.domains ·)
      let fresh := match dom, have_ with
        | some _, none => s.freeKey sk
        | _, _ => some 0
      match fresh with
      | none => none
      | some dk0 =>
        let dk := have_.getD dk0
        let k := s.vm.nextKey
        let vm1 := { s.vm with
          nextKey := k + 4,
          keys := if dk0 = 0 then mput s.vm.keys sk false else mput (mput s.vm.keys sk false) dk0 true,
          domains := match dom with | some d => mput s.vm.domains d dk | none => s.vm.domains,
          domKeys := match dom with
            | some d => if dk0 = 0 then s.vm.domKeys else mput s.vm.domKeys d (k + 3)
            | none => s.vm.domKeys }
        let c : Ctx := { fn := fn, home := die, skey := sk, dom := dom, dkey := if dom.isSome then dk else 0, ekey := some (k + 1) }
        let s1 := ({ s with vm := vm1, trust := { s.trust with logKeys := mput s.trust.logKeys n (k + 2) } }.resetCtx n)
        some (n, s1.setCtx n c)
  | _, _ => none
/-- CREATE (R377). -/
def execCreate (f : Nat) (s : State) : Host.Outcome State Fault Refusal :=
  .next (s.takeCommand f 9 fun s b =>
    let die := if argF b 12 12 = 1 then s.emptiest else some (argF b 11 10)
    let dom := if argF b 25 25 = 1 then some (argF b 24 13) else none
    match die.bind fun d => s.newCtx (argF b 9 0) d dom with
    | some (n, s1) => .done s1 1 0 n
    | none => .done s 3 0 0)

/-- Domains with neither a context nor a Daymark entry lose their key. -/
def State.dropDomains (s : State) : State :=
  let lives := fun (d : Nat) => (s.ctxs.any fun c => c.2.dom = some d)
    || s.dies.any fun e => e.2.day.any fun b => b.2.any fun g => g.ref ≠ 0 && g.dom = d
  let gone := (s.vm.domains.filter fun e => !lives e.1)
  { s with vm := { s.vm with
    domains := s.vm.domains.filter fun e => lives e.1,
    domKeys := s.vm.domKeys.filter fun e => lives e.1,
    keys := s.vm.keys.filter fun e => !gone.any fun g => g.2 = e.1 } }
/-- A context ends with its tasks (R301, R377). -/
def State.endCtx (s : State) (n : Nat) : State :=
  let s1 := s.terminate n 0 0
  let mine := (s1.sched.tasks.filter fun t => t.2.ctx = n).map (·.1)
  mine.foldl (fun s t => match s.task? t with
    | some k => s.finishTask t { k with status := some (k.status.getD (4, 0)), ended := some (k.ended.getD s.time) } true
    | none => s) s1
/-- A context that has ended gives back its references, frames, keys, slot and id (R323, R324, R326, R377). -/
def State.dropCtx (s2 : State) (n : Nat) : State :=
  match mget s2.ctxs n with
  | none => s2
  | some c =>
    let s3 := c.shared.foldl (fun s e => s.releaseFrame e.2) s2
    let spent := (c.pool ++ c.poolUsed.map (·.1)).filter fun p => s3.spent (p / 4096)
    let s4 := { s3 with
      ctxs := mdel s3.ctxs n,
      ctxGen := mput s3.ctxGen n (mgetD s3.ctxGen n 0 + 1),
      vm := { s3.vm with
        keys := mdel s3.vm.keys c.skey, pages := s3.vm.pages.filter fun p => p.ctx ≠ n,
        retired := spent.map (· / 4096) ++ s3.vm.retired } }
    (s4.dropBias fun m _ => m = n).dropDomains
/-- A context is freed: it ends, its tasks end, and it gives back its references, keys, slot and id (R323, R324, R377).
(DEDUCED: log 53) -/
def State.freeCtx (s : State) (n : Nat) : State := (s.endCtx n).dropCtx n
/-- DESTROY (R377). -/
def execDestroy (f : Nat) (s : State) : Host.Outcome State Fault Refusal :=
  .next (s.takeCommand f 10 fun s b => .done (s.freeCtx (cmdCtx b)) 1 0 0)

/-! ### GRANT and POOLADD (R308, R377, R404) -/

/-- A 2 MiB unit of device memory can be granted: it lies below RSVLIM of its die, no function owns it, no frame of it is
retired or serves as a refetch frame. (DEDUCED: log 58) -/
def State.grantable (s : State) (unit : Nat) : Bool :=
  unit % 2 ^ 16 < s.reg 0 (oMod (0x50 + 4 * (unit / 2 ^ 16))) && unit / 2 ^ 16 < 4 && (mget s.vm.grants unit).isNone
    && !(s.vm.retired.any fun f => f / 512 = unit)
    && !(s.dies.any fun d => d.2.retireMap.any fun e => e.2 / 512 = unit)
/-- A range of units, within one die. (DEDUCED: log 58) -/
def oneDie (pa n size : Nat) : Bool := 0 < n && pa / 2 ^ 37 = (pa + n * size - 1) / 2 ^ 37
/-- GRANT. (DEDUCED: log 58) -/
def execGrant (f : Nat) (s : State) : Host.Outcome State Fault Refusal :=
  .next (s.takeCommand f 11 fun s b =>
    let pa := argF b 38 0
    let n := argF b 95 64
    if pa % 2 ^ 21 ≠ 0 ∨ !oneDie pa n (2 ^ 21) then .done s 2 0 0
    else
      let units := (List.range n).map (pa / 2 ^ 21 + ·)
      if !units.all s.grantable then .done s 3 0 0
      else .done { s with vm := { s.vm with grants := units.foldl (fun m u => mput m u (argF b 105 96)) s.vm.grants } } 1 0 0)

/-- Frames that stand in some pool. -/
def State.pooled (s : State) (pa : Nat) : Bool :=
  s.ctxs.any fun c => c.2.pool.contains pa || (c.2.poolUsed.any fun e => e.1 = pa) || c.2.overlay.any fun e => e.2 = pa
/-- Frames some leaf maps. -/
def State.mappedFrames (s : State) : List Nat := s.ctxs.flatMap fun c => (s.leaves c.1).flatMap Leaf.frames
/-- The frames of a range may join the pool of a context of a function. (DEDUCED: log 58) -/
def State.poolable (s : State) (fn pa n : Nat) : Bool :=
  let used := s.mappedFrames
  (List.range n).all fun i =>
    let p := pa + 4096 * i
    namesByte p && mget s.vm.grants (p / 2 ^ 21) = some fn && !s.vm.reserve.contains (p / 4096)
      && !s.vm.retired.contains (p / 4096) && !s.pooled p && !used.contains (p / 4096)
def framesFrom (pa n : Nat) : List Nat := (List.range n).map fun i => pa + 4096 * i
/-- POOLADD. (DEDUCED: log 58) -/
def execPooladd (f : Nat) (s : State) : Host.Outcome State Fault Refusal :=
  .next (s.takeCommand f 12 fun s b =>
    let pa := argF b 38 0
    let n := argF b 95 64
    match mget s.ctxs (cmdCtx b) with
    | none => .done s 2 0 0
    | some c =>
      if pa % 4096 ≠ 0 ∨ !oneDie pa n 4096 then .done s 2 0 0
      else if !s.poolable c.fn pa n then .done s 4 0 0
      else .done (s.setCtx (cmdCtx b) { c with pool := framesFrom pa n ++ c.pool }) 1 0 0)

end Sys2Proof.Machine
end

