-- ==== Sys2Proof/Machine/Sessions.lean ====
section
/-! DEFINITION. Machine/Sessions.lean: sealing and forking (R327, R328, R379), migration (R329), snapshots and their
restore (R386 to R389, R392), and the loss of a die (R390). -/

namespace Sys2Proof.Machine

/-! ### SEAL (R327) -/

/-- A context has work: resident or switched-out clusters, or tasks. -/
def State.hasAny (s : State) (ctx : Nat) : Bool :=
  (s.waves.any fun e => e.2.id.ctx = ctx) || (s.blocks.any fun e => e.2.ctx = ctx)
    || (s.sched.images.any fun e => e.2.ctx = ctx) || s.sched.tasks.any fun e => e.2.ctx = ctx
/-- Tournament mode is on (R363). -/
def State.tourney (s : State) : Bool := (s.reg 0 (oMod 0x20)).testBit 0
/-- The 2 MiB leaves of a context become tables of 4 KiB leaves, in frames of its pool. none: the pool lacks a frame.
(DEDUCED: log 59) -/
def State.splitLeaves (s0 : State) (ctx : Nat) : Option State :=
  ((s0.leaves ctx).filter fun l => l.lvl = 1).foldl (fun o l => o.bind fun s => s.splitLeaf ctx l.e l.pa) (some s0)
/-- A page in host memory moves to a frame of the pool, so that it can be shared. none: the pool lacks one.
(DEDUCED: log 59) -/
def State.fetchHost (s : State) (ctx : Nat) (l : Leaf) : Option State :=
  if !eBit l.e 11 then some s
  else match mget s.ctxs ctx with
    | none => none
    | some c => match c.anyRun 1 with
      | none => none
      | some p =>
        let s1 := (s.setCtx ctx (c.useRun p 1 (some (4096 * l.page)))).copyBytes (hostKey (eOut l.e)) (devKey p) 4096 c.skey
        some (s1.putLeaf ctx l.page l.pa (leafWith (l.e &&& ~~~0xC00) p c.skey 0 false))
/-- Every segment of a page that has copied some of them is copied; none where a segment cannot be. -/
def State.copyWhole (s : State) (ctx page : Nat) : Nat → Option State
  | 0 => some s
  | k + 1 => (s.copyWhole ctx page k).bind fun s => match s.breakShare ctx (4096 * page + 1024 * k) with
    | .ok s1 => some s1
    | .error _ => none
/-- A page of a template ends shared; a backing copy is registered where one is given. none: the pool lacks a frame.
(DEDUCED: log 59) -/
def State.sealPage (s0 : State) (ctx dom : Nat) (l : Leaf) (back : Nat) : Option State :=
  let bk := if back = 0 then none else some (BitVec.ofNat 64 back : DWord)
  ((s0.fetchHost ctx l).bind fun s => if eBit l.e 9 ∧ eSeg l.e ≠ 0 then s.copyWhole ctx l.page 4 else some s).map fun s =>
  match s.smallLeaf ctx l.page, mget s.ctxs ctx with
  | some (e, pa), some c =>
    if eBit e 9 then
      match bk with
      | none => s
      | some a => { s with dies := meach s.dies fun (d : Die) => { d with day := d.day.map fun b =>
          (b.1, b.2.map fun g => if g.ref ≠ 0 ∧ g.frame = eDev e / 4096 then { g with bk := true, back := a } else g) } }
    else s.mergePage ctx l.page pa e c dom (s.pageHash dom ctx l.page e) true bk
  | _, _ => s
/-- The pages of a template, one after the other. (DEDUCED: log 59) -/
def State.sealPages (s : State) (ctx dom : Nat) : List (Leaf × Nat) → Option State
  | [] => some s
  | e :: r => (s.sealPage ctx dom e.1 e.2).bind fun s => s.sealPages ctx dom r
/-- SEAL. (DEDUCED: log 59) -/
def execSeal (f : Nat) (s : State) : Host.Outcome State Fault Refusal :=
  .next (s.takeCommand f 3 fun s b =>
    let ctx := cmdCtx b
    let table := argF b 63 0
    match (s.liveCtx ctx).bind (·.dom) with
    | none => .done s 2 0 0
    | some dom =>
      if s.hasAny ctx then .done s 2 0 0
      else match s.splitLeaves ctx with
        | none => .done s 3 0 0
        | some s1 =>
          let ls := s1.leaves ctx
          let back := fun (i : Nat) => if table = 0 then 0 else s.peekN (hostKey (table + 8 * i)) 8
          if s.tourney ∧ (List.range ls.length).any (fun i => back i = 0) then .done s 2 0 0
          else if ls.any fun l => l.frames.any s1.frameBusy then .wait s
          else
            match s1.sealPages ctx dom (ls.zipIdx.map fun e => (e.1, back e.2)) with
            | none => .done s 3 0 0
            | some s2 => .done (s2.modCtx ctx fun c => { c with sealed := true }) 1 0 0)

/-! ### FORK (R328, R379) -/

/-- Intermediate pages of the stage-1 tables below one at an address. (DEDUCED: log 59) -/
def State.s1tables (s : State) (ctx : Nat) : Nat → Nat → List Nat
  | 0, t => [t / 4096]
  | lvl + 1, t => t / 4096 :: (List.range 512).flatMap fun i =>
    match s.tableRead ctx (t + 8 * i) with
    | .entry e => if eBit e 0 && !s1bad e && !(lvl = 0 && eBit e 2) then s.s1tables ctx lvl (eOut e) else []
    | _ => []
/-- Raise the reference of a shared frame; none where its count is full. (DEDUCED: log 59) -/
def State.raiseRef (s : State) (frame : Nat) : Option State :=
  let hit := fun (g : DayEntry) => g.ref ≠ 0 && g.frame = frame
  if s.dies.any fun d => d.2.day.any fun b => b.2.any fun g => hit g && g.ref = 2 ^ 24 - 1 then none
  else some { s with dies := meach s.dies fun (d : Die) => { d with day := d.day.map fun b =>
    (b.1, b.2.map fun g => if hit g then { g with ref := g.ref + 1 } else g) } }
/-- Take a frame at an address out of a context's pool, where it stands in it. -/
def Ctx.takeAt (c : Ctx) (p : Nat) : Ctx := if c.pool.contains p then c.takeFrame p none else c
/-- One leaf of a template in its fork: a stage-1 table gets a frame of its own, any other page stays shared.
(DEDUCED: log 59) -/
def State.forkLeaf (s : State) (tmpl new : Nat) (tables : List Nat) (l : Leaf) : Option State :=
  let ia := 4096 * l.page
  let attrs := fun (kid frame : Nat) (shr : Bool) => leafWith (l.e &&& ~~~2) frame kid 0 shr
  match mget s.ctxs new with
  | none => none
  | some c =>
    if tables.contains l.page then
      match c.frameOn c.home with
      | none => none
      | some p =>
        let s1 := s.setCtx new (c.takeFrame p (some l.page))
        (s1.copyBytes (s.s2key tmpl l.e 12 ia) (devKey p) 4096 c.skey).s2put new ia (attrs c.skey p false) 0 3 (s.s2root new)
    else if eBit l.e 11 then s.s2put new ia (attrs (eKid l.e) (eOut l.e) false) l.lvl 3 (s.s2root new)
    else match s.raiseRef (eDev l.e / 4096) with
      | none => none
      | some s1 =>
        (s1.modCtx new fun c => c.holds l.page (eDev l.e / 4096)).s2put new ia (attrs (eKid l.e) (eDev l.e) true) l.lvl 3
          (s.s2root new)
/-- The tables of a fork, leaf by leaf. -/
def State.forkLeaves (s : State) (tmpl new : Nat) (tables : List Nat) : List Leaf → Option State
  | [] => some s
  | l :: r => match s.forkLeaf tmpl new tables l with
    | none => none
    | some s1 => s1.forkLeaves tmpl new tables r
/-- The whole fork; none where a slot, a key, a frame or a reference is wanting. (DEDUCED: log 59) -/
def State.forkFrom (s : State) (tmpl fn die : Nat) (dom : Option Nat) (s1r s2r win wlen pa n : Nat) : Option (Nat × State) :=
  match s.newCtx fn die dom with
  | none => none
  | some (new, s1) =>
    let s2 := (((s1.setReg 0 (oCtx new 0x00) s1r).setReg 0 (oCtx new 0x08) s2r).setReg 0 (oCtx new 0x10) win).setReg 0
      (oCtx new 0x18) wlen
    let s3 := s2.modCtx new fun c => ({ c with pool := framesFrom pa n } : Ctx).takeAt s2r
    ((s3.zeroFrame new s2r 1).forkLeaves tmpl new (s.s1tables tmpl 3 (s.s1root tmpl)) (s.leaves tmpl)).map fun s => (new, s)
/-- FORK. (DEDUCED: log 59) -/
def execFork (f : Nat) (s : State) : Host.Outcome State Fault Refusal :=
  .next (s.takeCommand f 4 fun s b =>
    let a := argF b 63 0
    let k := s.peek (hostKey a) 64
    let g := cardAt k
    let dirty := decide (1024 ≤ g 0 2) || decide (1024 ≤ g 2 2) || decide (512 < g 2 2) || decide (4 ≤ g 4 1)
      || decide (g 5 3 ≠ 0) || decide (natOfBytes (k.drop 0x30) ≠ 0) || decide (g 8 8 % 4096 ≠ 0) || decide (2 ^ 48 ≤ g 8 8)
      || decide (g 0x10 8 % 4096 ≠ 0) || decide (2 ^ 39 ≤ g 0x10 8) || decide (g 0x18 8 % 2 ^ 21 > 1)
      || decide (2 ^ 48 ≤ g 0x18 8) || decide (2 ^ 24 ≤ g 0x20 4)
    let pa := g 0x24 8
    let n := g 0x2C 4
    match mget s.ctxs (g 0 2) with
    | none => .done s 2 0 0
    | some t =>
      if a % 64 ≠ 0 ∨ dirty ∨ !t.sealed ∨ pa % 4096 ≠ 0 ∨ pa / 2 ^ 37 ≠ g 4 1 ∨ !oneDie pa n 4096
          ∨ !s.poolable (g 2 2) pa n then .done s 2 0 0
      else match s.forkFrom (g 0 2) (g 2 2) (g 4 1) t.dom (g 8 8) (g 0x10 8) (g 0x18 8) (g 0x20 4) pa n with
        | none => .done s 3 0 0
        | some (new, s1) => .done s1 1 0 new)

/-! ### MIGRATE (R329) -/

/-- Every cluster of a context is asked to leave. -/
def State.preemptAll (s : State) (ctx : Nat) : State :=
  (((s.blocks.filter fun b => b.2.ctx = ctx).map fun b => b.2.cluster).eraseDups).foldl (fun s cl => s.preempt cl 1) s
/-- No cluster of it is resident. -/
def State.allOut (s : State) (ctx : Nat) : Bool :=
  !(s.waves.any fun e => e.2.id.ctx = ctx) && !s.blocks.any fun e => e.2.ctx = ctx
/-- Switched-out records of a context go, and the generations of their slots advance (R76, R329). -/
def State.dropRecords (s : State) (ctx : Nat) : State :=
  let mine := s.cores.flatMap fun c => (c.2.records.filter fun r => r.ctx = ctx).map fun r => c.1 * 96 + r.slot
  let s1 := mine.eraseDups.foldl (fun s w => s.bumpGen w) s
  { s1 with cores := meach s1.cores fun (c : Core) => { c with records := c.records.filter fun r => r.ctx ≠ ctx } }
/-- The context's home becomes another die: images are placed anew, entries of the old translations go, and unplaced work
bound to the home die follows. (DEDUCED: log 61) -/
def State.rehome (s : State) (ctx to_ : Nat) : State :=
  let from_ := (mget s.ctxs ctx).elim 0 (·.home)
  let s1 := s.dropRecords ctx
  let s2 := s1.setDie from_ { s1.die from_ with tlb := (s1.die from_).tlb.filter fun t => t.ctx ≠ ctx }
  let s3 := { s2 with
    sched := { s2.sched with images := meach s2.sched.images fun i => if i.ctx = ctx then { i with moved := true } else i } }
  let s4 := s3.modCtx ctx fun c => { c with home := to_, migrating := false }
  let homely := fun (p : Pending) => match s4.task? p.task with
    | some t => t.ctx = ctx && t.card.dies = 0
    | none => false
  let go := (s4.die from_).queue.filter homely
  let s5 := go.foldl (fun s p => s.abandon from_ p.stamp) s4
  let s6 := s5.setQueue from_ ((s5.die from_).queue.filter fun p => !homely p)
  go.foldl (fun s p => s.enqueue to_ p.task [p.index]) s6
/-- MIGRATE. (DEDUCED: log 61) -/
def execMigrate (f : Nat) (s : State) : Host.Outcome State Fault Refusal :=
  .next (s.takeCommand f 5 fun s b =>
    let ctx := cmdCtx b
    let to_ := argF b 1 0
    match s.liveCtx ctx with
    | none => .done s 2 0 0
    | some c =>
      if s.trust.stepRun.isSome then .wait s
      else if c.home = to_ then .done s 1 0 0
      else if !s.slotFree to_ then .done (s.modCtx ctx fun c => { c with migrating := false }) 3 0 0
      else
        let s1 := (s.modCtx ctx fun c => { c with migrating := true }).preemptAll ctx
        if s1.allOut ctx then .done (s1.rehome ctx to_) 1 0 0 else .wait s1)

/-! ### SNAPSHOT (R386 to R388) -/

/-- The hash that names a shared frame. -/
def State.hashOf (s : State) (frame : Nat) : Option (BitVec 128) :=
  s.dies.findSome? fun d => d.2.day.findSome? fun b => (b.2.find? fun g => g.ref ≠ 0 && g.frame = frame).map (·.hash)
/-- A page as a snapshot holds it. -/
def State.snapPage (s : State) (ctx : Nat) (l : Leaf) : SnapPage :=
  let ovl := (mget s.ctxs ctx).bind fun c => mget c.overlay l.page
  let host := eBit l.e 11
  { page := l.page, leaf := l.e, lvl := l.lvl,
    data := match ovl with
      | some o => s.peek (devKey o) 4096
      | none => if host || eBit l.e 9 then [] else
        (List.range (512 ^ l.lvl)).flatMap fun i => s.peek (s.s2key ctx l.e (lvlShift l.lvl) (4096 * (l.page + i))) 4096,
    overlay := ovl.isSome, hash := if eBit l.e 9 then s.hashOf (eDev l.e / 4096) else none }
/-- What re-creates a session. -/
def State.snapOf (s : State) (ctx : Nat) (c : Ctx) (step store fn : Nat) (seq cpl : Nat) : Snap :=
  let ctl := fun (l : List Nat) (at_ : Nat → Nat) => l.map fun o => (at_ o, BitVec.ofNat 64 (s.reg 0 (at_ o)))
  { ix := s.trust.nextSnap, ctx := ctx, step := step, tcap := s.time, store := BitVec.ofNat 64 store, fn := fn,
    seq := BitVec.ofNat 64 seq, cpl := BitVec.ofNat 64 cpl, was := { c with snapping := false },
    controls := ctl [0, 4, 8, 12, 16, 20] (oSched ctx) ++ ctl [0, 8, 0x10, 0x18, 0x30, 0x38, 0x3C] (oCtx ctx)
      ++ ctl [0, 8, 12] (oLog ctx),
    pages := (s.leaves ctx).map (s.snapPage ctx),
    images := (s.sched.images.filter fun i => i.2.ctx = ctx).map (·.2), hostDone := store = 0 }
/-- Dies a snapshot has a shard for: the homes of its images and the places of its frames. -/
def Snap.dies (n : Snap) : List Nat :=
  (List.range 4).filter fun d => n.was.home = d
    || n.pages.any (fun p => !eBit p.leaf 11 && p.hash.isNone && dieOfFrame (eDev p.leaf) = d)
    || n.was.overlay.any fun o => dieOfFrame o.2 = d
/-- Its shards fit the local half of the spare regions (R388). -/
def Snap.fits (n : Snap) : Bool := n.dies.all fun d => (Config.shard n d).length ≤ 2 ^ 32
/-- Where a die's spare region begins (R17, R388, R404). -/
def spareKey (d : Nat) : Key := devKey (d * 2 ^ 37 + 104 * 2 ^ 30)
/-- The shards are written to the local halves of the spare regions (R386, R388). (DESIGN CHOICE: log 60) -/
def State.putShards (s : State) (n : Snap) : State :=
  n.dies.foldl (fun s d => s.poke (cellsAt (spareKey d) (Config.shard n d))) s
/-- SNAPSHOT: the clusters leave, the state is taken, and they may come back. (DEDUCED: log 61) -/
def execSnapshot (f : Nat) (s : State) : Host.Outcome State Fault Refusal :=
  .next (s.takeCommand f 6 fun s b =>
    let ctx := cmdCtx b
    match s.liveCtx ctx with
    | none => .done s 2 0 0
    | some c =>
      if s.trust.stepRun.isSome then .wait s
      else
        let s1 := (s.modCtx ctx fun c => { c with snapping := true }).preemptAll ctx
        if !s1.allOut ctx then .wait s1
        else
          let n := s1.snapOf ctx c s.trust.stepNo (argF b 63 0) f (cmdSeq b) (cmdCpl b)
          let s2 := s1.modCtx ctx fun c => { c with snapping := false }
          if !n.fits then .done s2 3 0 0
          else
            let s3 := ({ s2 with trust := { s2.trust with snaps := s2.trust.snaps ++ [n], nextSnap := n.ix + 1 } } :
              State).putShards n
            if n.hostDone then .done s3 1 0 0 else .later s3)

/-- The signed part of a manifest (R387). (DESIGN CHOICE: log 60) -/
def Snap.manifest (n : Snap) : Bytes :=
  let entry := fun (d : Nat) =>
    let b := Config.shard n d
    bytesOfNat 8 d ++ bytesOfNat 8 b.length ++ bytesOfNatBE 48 (sha384 b).toNat
  bytesOfNat 4 0x4E414D53 ++ bytesOfNat 2 n.ctx ++ bytesOfNat 2 n.dies.length ++ bytesOfNat 8 n.step ++ bytesOfNat 8 n.tcap
    ++ n.dies.flatMap entry
/-- Bytes of the two signatures: ECDSA P-384, then LMS_SHA256_M32_H20 with W8. (DESIGN CHOICE: log 60) -/
def sigBytes (lms : Nat) (msg : Bytes) : Bytes :=
  bytesOfNatBE 96 (Config.ecdsaSign msg) ++ bytesOfNatBE 1772 (Config.lmsSign lms msg)
/-- Everything a snapshot stores at the host: the manifest with its signatures, then the shards.
(DESIGN CHOICE: log 60) -/
def Snap.stored (n : Snap) (lms : Nat) : Bytes :=
  n.manifest ++ sigBytes lms n.manifest ++ n.dies.flatMap (Config.shard n)
/-- The LMS key has signatures left (R365). -/
def State.canSign (s : State) : Bool := s.trust.lms < 2 ^ 20
/-- SNAPSHOT_HOST_COPY: the snapshot with an index is copied to the host store, and its command's status is written: 3
where no signature is left for its manifest. (DEDUCED: log 61) -/
def execSnapshotHostCopy (ix : Nat) (s : State) : Host.Outcome State Fault Refusal :=
  match s.trust.snaps.find? fun n => n.ix = ix && !n.hostDone with
  | none => .next s
  | some n =>
    let done := fun (m : Snap) => if m.ix = ix then { m with hostDone := true } else m
    let t := { s.trust with snaps := s.trust.snaps.map done }
    if !s.canSign then .next (({ s with trust := t } : State).putStatus n.cpl.toNat n.seq.toNat 3 0 0)
    else
      let s1 := s.poke (cellsAt (hostKey n.store.toNat) (n.stored s.trust.lms))
      .next (({ s1 with trust := { t with lms := s.trust.lms + 1 } } : State).putStatus n.cpl.toNat n.seq.toNat 1 0 0)

/-! ### Restoring a session (R390, R392) -/

/-- A frame for a page of a session: its old one, where nothing else has it and its die is there, or one of the pool.
(DEDUCED: log 61) -/
def State.frameFor (s : State) (ctx old : Nat) : Option (Nat × State) :=
  match mget s.ctxs ctx with
  | none => none
  | some c =>
    let free := !(s.die (dieOfFrame old)).lost && mget s.vm.grants (old / 2 ^ 21) = some c.fn && !s.pooled old
      && !s.mappedFrames.contains (old / 4096)
    if free then some (old, s)
    else match (c.pool.filter fun p => !(s.die (dieOfFrame p)).lost).head? with
      | some p => some (p, s.setCtx ctx (c.takeFrame p none))
      | none => none
/-- Whether n frames from an address may go to a session again. -/
def State.runFree (s : State) (ctx old n : Nat) : Bool :=
  match mget s.ctxs ctx with
  | none => false
  | some c => !(s.die (dieOfFrame old)).lost && mget s.vm.grants (old / 2 ^ 21) = some c.fn
      && (List.range n).all fun i => !s.pooled (old + 4096 * i) && !s.mappedFrames.contains (old / 4096 + i)
/-- The lowest 2 MiB run of a session's pool on a die that is there. -/
def Ctx.liveRun (s : State) (c : Ctx) : Option Nat :=
  ((List.range 4).filter fun d => !(s.die d).lost).findSome? fun d => c.runOn (some d) 512
/-- A private page of a session: its bytes in a frame of their own. (DEDUCED: log 61) -/
def State.putSmall (s : State) (ctx page : Nat) (leaf : DWord) (old : Nat) (data : Bytes) : Option State :=
  let kid := (mget s.ctxs ctx).elim 0 (·.skey)
  match s.frameFor ctx old with
  | none => none
  | some (o, s1) =>
    (s1.perform (cellsAt (devKey o) data) ((List.range 64).map fun i => ⟨o / 64 + i, kid, false⟩)).s2put ctx (4096 * page)
      (leafWith leaf o kid 0 false) 0 3 (s.s2root ctx)
/-- A private 2 MiB page: at its old place, in a run of the pool, or as 512 pages. (DEDUCED: log 61) -/
def State.putLarge (s : State) (ctx : Nat) (p : SnapPage) : Option State :=
  let kid := (mget s.ctxs ctx).elim 0 (·.skey)
  let at_ := fun (s : State) (o : Nat) =>
    (s.perform (cellsAt (devKey o) p.data) ((List.range 32768).map fun i => ⟨o / 64 + i, kid, false⟩)).s2put ctx
      (4096 * p.page) (leafWith p.leaf o kid 0 false) 1 3 (s.s2root ctx)
  let old := eDev p.leaf
  if s.runFree ctx old 512 then at_ s old
  else match mget s.ctxs ctx with
    | none => none
    | some c => match c.liveRun s with
      | some o => at_ (s.setCtx ctx (c.useRun o 512 none)) o
      | none => (List.range 512).foldl (fun r i => r.bind fun s =>
          s.putSmall ctx (p.page + i) (p.leaf &&& ~~~0x80) (old + 4096 * i) ((p.data.drop (4096 * i)).take 4096)) (some s)
/-- Put one page of a snapshot back. -/
def State.putPage (s : State) (ctx : Nat) (dom : Option Nat) (p : SnapPage) : Option State :=
  let ia := 4096 * p.page
  let root := s.s2root ctx
  let kid := (mget s.ctxs ctx).elim 0 (·.skey)
  match p.hash with
  | some h =>
    -- a shared page: its frame is found by its hash, and its own segments come back to an overlay frame
    match (s.bucket h).find? fun g => g.ref ≠ 0 && g.hash = h && some g.dom = dom with
    | none => none
    | some g =>
      match s.raiseRef g.frame with
      | none => none
      | some s0 =>
        let s1 := s0.modCtx ctx fun c => c.holds p.page g.frame
        let leaf := leafWith p.leaf (4096 * g.frame) (eKid p.leaf) (eSeg p.leaf) true
        if !p.overlay then s1.s2put ctx ia leaf 0 3 root
        else match (mget s1.ctxs ctx).bind fun c => (c.pool.filter fun q => !(s1.die (dieOfFrame q)).lost).head? with
          | none => none
          | some o =>
            let s2 := s1.modCtx ctx fun c =>
              { c.takeFrame o (some p.page) with overlay := mput c.overlay p.page o }
            (s2.perform (cellsAt (devKey o) p.data) ((List.range 64).map fun i => ⟨o / 64 + i, kid, false⟩)).s2put ctx ia leaf
              0 3 root
  | none =>
    if eBit p.leaf 11 then s.s2put ctx ia p.leaf p.lvl 3 root
    else if p.lvl = 1 then s.putLarge ctx p
    else s.putSmall ctx p.page p.leaf (eDev p.leaf) p.data
def State.putPages (s : State) (ctx : Nat) (dom : Option Nat) : List SnapPage → Option State
  | [] => some s
  | p :: r => match s.putPage ctx dom p with
    | none => none
    | some s1 => s1.putPages ctx dom r
/-- Re-create a session from a snapshot on a die: context id and key ids as they were, a new generation and eyelet key
(R301), its tables and pages, and its images to be placed anew. none: a slot, a key id or a frame is wanting.
(DEDUCED: log 61) -/
def State.recreate (s : State) (n : Snap) (die : Nat) : Option State :=
  let held := (mget s.vm.keys n.was.skey).isSome
  let domOk : Bool := match n.was.dom with
    | none => true
    | some d => mget s.vm.domains d = some n.was.dkey || ((mget s.vm.domains d).isNone && (mget s.vm.keys n.was.dkey).isNone)
  if !s.slotFree die ∨ held ∨ !domOk ∨ (mget s.ctxs n.ctx).isSome then none
  else
    let ok := fun (p : Nat) => !(s.die (dieOfFrame p)).lost && mget s.vm.grants (p / 2 ^ 21) = some n.was.fn && !s.pooled p
    let c : Ctx := { n.was with
      home := die, terminated := false, migrating := false, snapping := false, overlay := [], shared := [],
      ekey := some (s.vm.nextKey + 1),
      pool := (n.was.pool ++ n.was.poolUsed.map (·.1)).filter ok, poolUsed := [], credit := 0 }
    let vm1 := { s.vm with
      keys := mput (match n.was.dom with | some _ => mput s.vm.keys n.was.dkey true | none => s.vm.keys) n.was.skey false,
      domains := match n.was.dom with | some d => mput s.vm.domains d n.was.dkey | none => s.vm.domains,
      domKeys := match n.was.dom with
        | some d => mput s.vm.domKeys d (mgetD s.vm.domKeys d s.vm.nextKey)
        | none => s.vm.domKeys,
      nextKey := s.vm.nextKey + 2 }
    let s1 := n.controls.foldl (fun s e => s.setReg 0 e.1 e.2.toNat) (({ s with vm := vm1 }).resetCtx n.ctx)
    let s2 := { s1.setCtx n.ctx c with ctxGen := mput s1.ctxGen n.ctx (mgetD s1.ctxGen n.ctx 0 + 1) }
    -- the stage-2 tables are built again from a root frame
    match s2.frameFor n.ctx (s2.s2root n.ctx) with
    | none => none
    | some (r, s3) =>
      let s4 := (s3.modCtx n.ctx fun c => c.takeAt r).zeroFrame n.ctx r 1
      let s5 := s4.setReg 0 (oCtx n.ctx 0x08) r
      let base := s5.sched.nextImage
      (s5.putPages n.ctx n.was.dom n.pages).map fun s => { s with sched := { s.sched with
        nextImage := base + n.images.length,
        images := s.sched.images ++ n.images.zipIdx.map fun e => (base + e.2, { e.1 with moved := true }) } }
/-- The buddy of a die: i xor 1, or i xor 2 when that one is lost. (DEDUCED: log 63) -/
def State.buddyOf (s : State) (d : Nat) : Nat := if (s.die (d ^^^ 1)).lost then d ^^^ 2 else d ^^^ 1
/-- The dies a session may come back on: its old home, its buddy, then the others in order (R392). (DEDUCED: log 61) -/
def State.homes (s : State) (n : Snap) : List Nat :=
  let h := n.was.home
  h :: s.buddyOf h :: (List.range 4).filter fun d => d ≠ h && d ≠ s.buddyOf h
/-- (DEDUCED: log 61) -/
def State.recreateAny (s : State) (n : Snap) : Option (Nat × State) :=
  (s.homes n).findSome? fun d => (s.recreate n d).map fun s1 => (d, s1)
/-- References held on the shared pages of a snapshot, so that none is freed while its session is replaced: the frames,
one for each reference. (DEDUCED: log 61) -/
def State.holdRefs (s : State) (n : Snap) : List Nat × State :=
  n.pages.foldl (fun r p => match p.hash.bind fun h => (r.2.bucket h).find? fun g =>
      g.ref ≠ 0 && g.hash = h && some g.dom = n.was.dom with
    | none => r
    | some g => match r.2.raiseRef g.frame with
      | none => r
      | some s1 => (g.frame :: r.1, s1)) ([], s)
/-- Replace a session by its restored form; the state once the old one has ended comes first. none: a slot, a key id or a
frame is wanting. (DEDUCED: log 61) -/
def State.replace (s : State) (n : Snap) : State × Option (Nat × State) :=
  let ended := if (mget s.ctxs n.ctx).isSome then s.endCtx n.ctx else s
  let r := ended.holdRefs n
  (ended, ((r.2.dropCtx n.ctx).recreateAny n).map fun e => (e.1, r.1.foldl (fun s f => s.releaseFrame f) e.2))

/-- The shards a manifest in host memory names: die, length, digest; and the bytes that follow it.
(DESIGN CHOICE: log 60) -/
def shardList (m : Bytes) : List (Nat × Nat × Bytes) :=
  (List.range (cardAt m 6 2)).map fun i =>
    (cardAt m (0x18 + 64 * i) 8, cardAt m (0x20 + 64 * i) 8, (m.drop (0x28 + 64 * i)).take 48)
/-- (DESIGN CHOICE: log 60) -/
def splitBytes (b : Bytes) : List Nat → List Bytes
  | [] => []
  | n :: r => b.take n :: splitBytes (b.drop n) r
/-- What a manifest in host memory stands for, where its signatures and digests hold (R387): the snapshot the module
stored there, or what its bytes mean otherwise. (DESIGN CHOICE: log 60) -/
def State.manifestAt (s : State) (a : Nat) : Option Snap :=
  let k := s.peekN (hostKey (a + 6)) 2
  let len := 0x18 + 64 * k
  let m := s.peek (hostKey a) len
  let sig := s.peek (hostKey (a + len)) 1868
  let ls := shardList m
  let body := s.peek (hostKey (a + len + 1868)) ((ls.map (·.2.1)).sum)
  let shards := splitBytes body (ls.map (·.2.1))
  let signed := ((List.range s.trust.lms).any fun i => sigBytes i m = sig) || Config.signatureOk m sig
  if cardAt m 0 4 ≠ 0x4E414D53 ∨ k = 0 ∨ 4 < k ∨ !signed
      ∨ !((ls.zip shards).all fun e => bytesOfNatBE 48 (sha384 e.2).toNat = e.1.2.2) then none
  else match s.trust.snaps.find? fun n => n.manifest = m && n.dies.map (Config.shard n) = shards with
    | some n => some n
    | none => Config.unshard m shards
/-- A session that rolls back keeps its Flash log as it stood once it had ended, and its launch numbers (R145, R370). -/
def State.keepLog (s old : State) (ctx : Nat) : State :=
  match mget old.ctxs ctx with
  | none => s
  | some c =>
    let s1 := s.modCtx ctx fun k => { k with lastSeal := c.lastSeal, nextLaunch := max k.nextLaunch c.nextLaunch }
    [0, 8, 12].foldl (fun s o => s.setReg 0 (oLog ctx o) (old.reg 0 (oLog ctx o))) s1
/-- RESTORE. (DEDUCED: log 61) -/
def execRestore (f : Nat) (s : State) : Host.Outcome State Fault Refusal :=
  .next (s.takeCommand f 7 fun s b =>
    match s.manifestAt (argF b 63 0) with
    | none => .done s 2 0 0
    | some n =>
      if f ≠ 0 ∧ n.was.fn ≠ f then .done s 4 0 0
      else
        -- a session that still lives is replaced by its restored form
        let r := s.replace n
        match r.2 with
        | none => .done s 3 0 0
        | some (_, s2) => .done (s2.keepLog r.1 n.ctx) 1 0 0)

/-! ### Step copies (R389) -/

/-- SNAPSTEP in ns, as it is read (R381, R389). (DEDUCED: log 63) -/
def State.stepNs (s : State) : Nat := max 100 (min 60000 (s.reg 0 (oMod 0x30))) * 1000000
/-- The dies that take part in step copies. (DEDUCED: log 63) -/
def State.stepDies (s : State) : List Nat := (List.range 4).filter fun d => (s.die d).usable && !(s.die d).lost
/-- Sessions homed on a die. -/
def State.sessionsOn (s : State) (d : Nat) : List (Nat × Ctx) := s.ctxs.filter fun c => c.2.home = d && !c.2.terminated
/-- Snapshots of a die's sessions for a step. (DEDUCED: log 63) -/
def State.takeStep (s : State) (d step : Nat) : State :=
  let all := s.sessionsOn d
  let snaps := all.map fun c => s.snapOf c.1 c.2 step 0 c.2.fn 0 0
  let to_ := s.buddyOf d
  let slot := step % 2
  let keep := s.trust.buddies.filter fun e => !(e.1 = to_ && e.2.1 = slot && e.2.2.1 ≠ step)
  let bytes := snaps.flatMap fun n => n.dies.flatMap (Config.shard n)
  let s1 : State := { s with
    ctxs := s.ctxs.map fun c => if c.2.home = d then (c.1, { c.2 with snapping := false }) else c }
  -- a copy that does not fit its slot is not made, and the step with it
  if 2 ^ 31 < bytes.length then { s1 with trust := { s.trust with stepRun := none } }
  else
    let s2 := s1.poke (cellsAt (spareKey to_ + 2 ^ 32 + 2 ^ 31 * slot) bytes)
    { s2 with trust := { s.trust with
        buddies := keep ++ [(to_, slot, step, snaps)],
        stepRun := s.trust.stepRun.map fun r => (r.1, r.2 ++ [d]) } }
/-- SNAPSHOT_STEP: in tournament mode, every SNAPSTEP, a die's sessions leave their cores and are copied to its buddy.
(DEDUCED: log 63) -/
def execSnapshotStep (die : Nat) (s : State) : Host.Outcome State Fault Refusal :=
  if !s.portOpen ∨ !s.tourney ∨ !(s.stepDies.contains die) ∨ s.stepDies.length < 2 then .next s
  else
    let s1 := match s.trust.stepRun with
      | some _ => s
      | none => if s.time < s.trust.stepAt + s.stepNs then s
        else { s with trust := { s.trust with stepRun := some (s.trust.stepNo + 1, []), stepAt := s.time } }
    match s1.trust.stepRun with
    | none => .next s
    | some (n, ds) =>
      if ds.contains die then .next s1
      else
        let mine := s1.sessionsOn die
        let s2 := mine.foldl (fun s c => (s.modCtx c.1 fun k => { k with snapping := true }).preemptAll c.1) s1
        if mine.all fun c => s2.allOut c.1 then .next (s2.takeStep die n) else .next s2
/-- SNAPST: the dies lost and the last completed step. -/
def State.putSnapst (s : State) : State :=
  let lost := ((List.range 4).map fun d => if (s.die d).lost then 2 ^ d else 0).sum
  s.setReg 0 (oMod 0x34) (lost + s.trust.stepNo % 2 ^ 28 * 16)
/-- SNAPSHOT_STEP_COMPLETE: a die's copy is finished; with the last one the manifest is written and the step counts.
(DEDUCED: log 63) -/
def execSnapshotStepComplete (die : Nat) (s : State) : Host.Outcome State Fault Refusal :=
  match s.trust.stepRun with
  | none => .next s
  | some (n, ds) =>
    if !ds.contains die ∨ ds.contains (4 + die) then .next s
    else
      let l := ds ++ [4 + die]
      if s.stepDies.all fun d => l.contains (4 + d) then
        if !s.canSign then .next { s with trust := { s.trust with stepRun := none } }
        else .next { s with trust := { s.trust with stepRun := none, stepNo := n, lms := s.trust.lms + 1 } }.putSnapst
      else .next { s with trust := { s.trust with stepRun := some (n, l) } }

/-! ### A die lost (R390, R392) -/

/-- The newest completed copy of a session on a die that survives. (DEDUCED: log 62) -/
def State.lastCopy (s : State) (ctx : Nat) : Option Snap :=
  let all := (s.trust.buddies.filter fun e => !(s.die e.1).lost && e.2.2.1 ≤ s.trust.stepNo).flatMap (·.2.2.2)
  (all.filter fun n => n.ctx = ctx).foldl (fun m n => match m with
    | none => some n
    | some k => if k.step < n.step then some n else some k) none
/-- A session has its home or a private frame on a die. (DEDUCED: log 62) -/
def State.dependsOn (s : State) (c : Nat × Ctx) (d : Nat) : Bool :=
  c.2.home = d || (s.leaves c.1).any (fun l => !eBit l.e 9 && !eBit l.e 11 && dieOfFrame (eDev l.e) = d)
    || c.2.overlay.any fun o => dieOfFrame o.2 = d
/-- A session that lay on the lost die rolls back one step and goes on elsewhere; without a copy it ends.
(DEDUCED: log 62) -/
def State.recover (s : State) (ctx : Nat) : State :=
  match s.lastCopy ctx with
  | none => s.terminate ctx 0 0
  | some n =>
    -- its tasks stay in the ready pool and are met again by its restored waves
    let tasks := s.sched.tasks.filter fun t => t.2.ctx = ctx
    let s0 := { s with sched := { s.sched with tasks := s.sched.tasks.filter fun t => t.2.ctx ≠ ctx } }
    match (s0.replace n).2 with
    | none => s.terminate ctx 0 0
    | some (d, s2) =>
      let back := tasks.foldl (fun (m : Map Task) t => mput m t.1 t.2) s2.sched.tasks
      (({ s2 with sched := { s2.sched with tasks := back } }).keepLog s ctx).logEvent ctx d 6
/-- What stood on the die is gone: its waves, its queue, its requests. (DEDUCED: log 62) -/
def State.cutDie (s : State) (d : Nat) : State :=
  let ws := (s.waves.filter fun e => e.1 / 3840 = d).map (·.1)
  let s1 := ws.foldl (fun s w => s.dropWave w) s
  let k := s1.die d
  let s2 := s1.setDie d { k with lost := true, queue := [], incoming := [], reqs := [], tlb := [], asked := none }
  let s3 := { s2 with
    cores := s2.cores.filter fun c => c.1 / 40 ≠ d,
    trust := { s2.trust with
      stepRun := none,
      buddies := match s2.trust.stepRun with
        | some r => s2.trust.buddies.filter fun e => e.2.2.1 ≠ r.1
        | none => s2.trust.buddies },
    ctxs := meach s2.ctxs fun c => { c with snapping := false } }
  let left := (k.queue ++ k.incoming).filter fun p => (s3.task? p.task).isSome
  left.foldl (fun s p =>
    let h := ((s.task? p.task).bind fun t => mget s.ctxs t.ctx).elim 0 (·.home)
    if h = d then s else s.enqueue h p.task [p.index]) s3
/-- The lowest die that is there. (DEDUCED: log 62) -/
def State.survivor (s : State) : Option Nat := s.stepDies.head?
/-- The two dies a bridge link joins (R13). -/
def bridgeDies (link : Nat) : List Nat := [[0, 1], [0, 2], [0, 3], [1, 2], [1, 3], [2, 3]].getD link []
/-- The bridge links of a die. -/
def bridgesOf (die : Nat) : List Nat := (List.range 6).filter fun l => (bridgeDies l).contains die
/-- Every bridge link of a die goes down. (DEDUCED: log 62) -/
def State.cutLinks (s : State) (die : Nat) : State :=
  (bridgesOf die).foldl (fun s l => s.setLink l { s.link l with up := false }) s
/-- A die is lost (R390): the lowest survivor brings back what lay on it, and logs it. (DEDUCED: log 62) -/
def State.loseDie (die : Nat) (s : State) : State :=
  if 4 ≤ die ∨ !s.portOpen ∨ !(s.die die).usable ∨ (s.die die).lost ∨ s.stepDies.length < 2 then s
  else
    let hit := s.ctxs.filter fun c => !c.2.terminated && s.dependsOn c die
    let s1 := (s.cutDie die).cutLinks die
    let s2 := { s1 with trust := { s1.trust with driver := if s1.trust.driver = die then s1.survivor.getD 0 else s1.trust.driver } }
    let s3 := (s2.putSnapst).logAll die 5
    hit.foldl (fun s c => s.recover c.1) s3
/-- DIE_LOST. (DEDUCED: log 62) -/
def execDieLost (die : Nat) (s : State) : Host.Outcome State Fault Refusal := .next (s.loseDie die)

end Sys2Proof.Machine
end

