-- ==== Sys2Proof/Machine/Trust.lean ====
section
/-! DEFINITION. Machine/Trust.lean: host writes to registers (R6 to R8, R24, R361, R363, R368), interface locks and the
Lamplighter (R360, R362), measurements (R365, R366), keys (R364, R367, R371), tournament mode and monitors (R23, R368,
R396, R397). -/

namespace Sys2Proof.Machine

/-! ### The power limit and the tournament clock (R24, R368) -/

/-- Clock of a tournament code, in MHz (R363). -/
def codeMhz (code : Nat) : Nat := 1800 + 200 * code
/-- W the tournament clock needs, as firmware measured it; 0 outside tournament mode. (DEDUCED: log 70) -/
def State.clockNeed (s : State) : Nat :=
  if s.tourney then (Config.powerNeed (BitVec.ofNat 2 (s.reg 0 (oMod 0x20) / 2))).toNat else 0
/-- PWRST with a result and a count. (DEDUCED: log 70) -/
def State.putPwrst (s : State) (result count : Nat) : State :=
  s.setReg 0 (oMod 0x48) (result + count % 256 * 256 + s.clockNeed % 2048 * 65536)
/-- A power request is checked (R24). -/
def State.powerRequest (s : State) (req : Nat) : State :=
  let st := s.reg 0 (oMod 0x48)
  let result := if req < 700 ∨ 1100 < req then 1 else if s.tourney ∧ req < s.clockNeed then 2 else 0
  let s1 := if result = 0 then s.setReg 0 (oMod 0x44) req else s
  s1.putPwrst result (fieldOf st 15 8 + 1)
/-- A write of TOURN has changed the mode from old: the change falls due at one tick within 10 µs.
(DEDUCED: log 70) -/
def State.tournWrite (s : State) (old : Nat) : State :=
  let new := s.reg 0 (oMod 0x20)
  let st := s.reg 0 (oMod 0x48)
  let s1 := s.putPwrst (fieldOf st 1 0) (fieldOf st 15 8)
  if new = old then s1
  else { s1 with
    fresh := s1.fresh + 1,
    trust := { s1.trust with tournAt := s1.trust.tournAt ++ [(max ((s1.trust.tournAt.getLast?).elim 0 (·.1))
      (s1.time + 1 + Config.freeNat s1.fresh % 10000), BitVec.ofNat 32 new)] } }
/-- TCLKST: the clock codes, and the copy of TTRIP. -/
def State.putTclkst (s : State) (codes : Nat) : State :=
  s.setReg 0 (oMod 0x24) (codes % 65536 + s.reg 0 (oMod 0x28) % 16 * 65536)
/-- The clock code a mode gives every die. -/
def modeCode (tourn : Nat) : Nat := if tourn.testBit 0 then tourn / 2 % 4 else 4
/-- The clock a mode gives a die. -/
def modeMhz (tourn : Nat) : Nat := if tourn.testBit 0 then codeMhz (tourn / 2 % 4) else 2200
/-- TOURN_SWITCH (R368). (DEDUCED: log 70) -/
def execTournSwitch (s : State) : Host.Outcome State Fault Refusal :=
  match s.trust.tournAt with
  | [] => .next s
  | (at_, v) :: rest =>
    if s.time < at_ then .next s
    else
      let s1 := { s with
        dies := meach s.dies fun (d : Die) =>
          { d with mhz := if d.trip then min d.mhz (modeMhz v.toNat) else modeMhz v.toNat },
        trust := { s.trust with tournAt := rest } }
      let s2 := s1.putTclkst (modeCode v.toNat * 0x1111)
      .next (s2.ctxs.foldl (fun s c => s.logEvent c.1 c.2.home 1) s2)

/-! ### Register writes (R6, R7, R361) -/

/-- Where a register that covers a byte offset starts, and the half of it that the offset names. -/
def coveredBy (f ofs : Nat) : Option (Nat × Bool × RegInfo) :=
  match regInfo f ofs with
  | some i => some (ofs, false, i)
  | none => if ofs % 8 = 4 then match regInfo f (ofs - 4) with
      | some i => if i.wide then some (ofs - 4, true, i) else none
      | none => none
    else none
/-- The context a register of the physical function's space controls. -/
def ctxOfReg (ofs : Nat) : Option Nat :=
  if 0x80000 ≤ ofs ∧ ofs < 0x90000 then some ((ofs - 0x80000) / 0x40)
  else if 0xC0000 ≤ ofs ∧ ofs < 0xD0000 then some ((ofs - 0xC0000) / 0x40)
  else if 0xF0000 ≤ ofs ∧ ofs < 0xF4000 then some ((ofs - 0xF0000) / 0x10)
  else none
/-- The function whose interface governs a register: its context's owner for an RL register of a context (R360). -/
def State.governs (s : State) (f ofs : Nat) (i : RegInfo) : Nat :=
  if f = 0 ∧ i.access = .rl then ((ctxOfReg ofs).bind (mget s.ctxs ·)).elim f (·.fn) else f
/-- An ignored RL write is counted (R361, R363). (DEDUCED: log 68) -/
def State.deny (s : State) (g : Nat) : State := s.setReg g (oFn 0x04) (min 0xFFFF (s.reg g (oFn 0x04) + 1))
/-- What a rule attaches to the write of a register, with the value before it. (DEDUCED: log 68) -/
def State.afterWrite (s : State) (f ofs old : Nat) : State :=
  if f ≠ 0 then s
  else if ofs = oMod 0x40 then s.powerRequest (s.reg 0 (oMod 0x40))
  else if ofs = oMod 0x20 then s.tournWrite old
  else if ofs = oMod 0x28 then s.putTclkst (s.reg 0 (oMod 0x24))
  else if 0xE0000 ≤ ofs ∧ ofs < 0xE0000 + 0x40 * 513 then s.flushRings
  else s
/-- The bits of MONEV that were set in this clk of their die: a write in the same clk does not clear them (R397). -/
def State.justSet (s : State) (f ofs : Nat) : Nat :=
  match (List.range 4).find? fun d => f = 0 ∧ ofs = oMon d 0x500 with
  | none => 0
  | some d => (((List.range 4).filter fun b => mget (s.die d).monAt b = some (s.die d).clk).map fun b => 2 ^ b).sum
/-- Write bits of one register: new holds the bits that take a value, mask says which bits the access covers.
(DEDUCED: log 68) -/
def State.putBits (s : State) (f ofs : Nat) (i : RegInfo) (new mask : Nat) : State :=
  let old := s.regRead f ofs
  let g := s.governs f ofs i
  let st := (s.fn g).tdisp
  if i.access = .ro then s
  else if st = .error then (if i.access = .rl then s.deny g else s)
  else if i.access = .rl ∧ st.isLocked then s.deny g
  else
    let v := if i.access = .w1c then old &&& (2 ^ 64 - 1 - (new &&& mask &&& (2 ^ 64 - 1 - s.justSet f ofs)))
      else ((old &&& (2 ^ 64 - 1 - mask)) ||| (new &&& mask)) &&& i.mask
    (s.setReg f ofs v).afterWrite f ofs old
/-- A 4-byte write. (DEDUCED: log 68) -/
def State.write4 (s : State) (f ofs v : Nat) : State :=
  match coveredBy f ofs with
  | none => s
  | some (at_, hi, i) =>
    if hi then s.putBits f at_ i (v % 2 ^ 32 * 2 ^ 32) (bits 63 32) else s.putBits f at_ i (v % 2 ^ 32) (bits 31 0)
/-- A write of 4 or 8 bytes at its own alignment; any other width or offset is not supported and has no effect (R6).
(DEDUCED: log 68) -/
def State.writeReg (s : State) (f ofs width v : Nat) : State :=
  if !s.portOpen then s
  else if 513 ≤ f ∨ (width ≠ 4 ∧ width ≠ 8) ∨ ofs % width ≠ 0 ∨ 2 ^ 21 ≤ ofs then
    { s with trust := { s.trust with out := s.trust.out ++ [.unsupported] } }
  else if width = 4 then s.write4 f ofs v
  else match regInfo f ofs with
    | some i => if i.wide then s.putBits f ofs i v (bits 63 0) else (s.write4 f ofs v).write4 f (ofs + 4) (v / 2 ^ 32)
    | none => (s.write4 f ofs v).write4 f (ofs + 4) (v / 2 ^ 32)
/-- REGISTER_WRITE. (DEDUCED: log 78) -/
def execRegisterWrite (f ofs width : Nat) (v : DWord) (s : State) : Host.Outcome State Fault Refusal :=
  .next (s.writeReg f ofs width v.toNat)
/-- PWRREQ. -/
def execPwrreq (v : Word) (s : State) : Host.Outcome State Fault Refusal := .next (s.writeReg 0 (oMod 0x40) 4 v.toNat)
/-- TOURN. -/
def execTourn (v : Word) (s : State) : Host.Outcome State Fault Refusal := .next (s.writeReg 0 (oMod 0x20) 4 v.toNat)
/-- TTRIP. -/
def execTtrip (v : Word) (s : State) : Host.Outcome State Fault Refusal := .next (s.writeReg 0 (oMod 0x28) 4 v.toNat)
/-- CMDTAIL. -/
def execCmdtail (f : Nat) (v : Word) (s : State) : Host.Outcome State Fault Refusal :=
  .next (s.writeReg f (oFn 0x4C) 4 v.toNat)
/-- RPQTAIL. -/
def execRpqtail (f : Nat) (v : Word) (s : State) : Host.Outcome State Fault Refusal :=
  .next (if 513 ≤ f then s else s.writeReg 0 (oPage f 0x24) 4 v.toNat)
/-- PRQHEAD. -/
def execPrqhead (f : Nat) (v : Word) (s : State) : Host.Outcome State Fault Refusal :=
  .next (if 513 ≤ f then s else s.writeReg 0 (oPage f 0x10) 4 v.toNat)

/-! ### Interfaces (R360 to R362) -/

/-- Context ids bound to a function, ascending. -/
def State.boundTo (s : State) (f : Nat) : List Nat := (s.ctxs.filter fun c => c.2.fn = f).map (·.1)
/-- The SPDM responder is down: firmware did not run, and requests are answered with ERROR (R393). -/
def State.spdmDown (s : State) : Bool := s.trust.boot_step = 1 || s.trust.boot_step = 2
/-- Offsets of the locked registers of a function, ascending: the contexts are those bound to it when its lock was
accepted (R360). (DEDUCED: log 71) -/
def State.lockedRegs (s : State) (f : Nat) : List Nat :=
  let mine := if (s.fn f).digest.isSome then (s.fn f).lockSet else s.boundTo f
  let rl := fun (l : List Nat) => l.filter fun o => match regInfo 0 o with
    | some i => decide (i.access = .rl)
    | none => false
  rl (mine.flatMap fun n => (List.range 16).map fun i => oSched n (4 * i))
    ++ rl (mine.flatMap fun n => (List.range 16).map fun i => oCtx n (4 * i))
    ++ (if f = 0 then rl ((List.range 24).map fun i => oMod (4 * i)) else [])
    ++ rl (mine.flatMap fun n => (List.range 4).map fun i => oLog n (4 * i))
    ++ (if f = 0 then (List.range 4).map fun d => oMon d 0x104 else [])
/-- The lock digest as the registers stand. -/
def State.lockDigest (s : State) (f : Nat) : BitVec 384 :=
  sha384 ((s.lockedRegs f).flatMap fun o =>
    bytesOfNat 4 o ++ bytesOfNat (match regInfo 0 o with | some i => if i.wide then 8 else 4 | none => 4) (s.reg 0 o))
/-- An answer or a report to the host. (DEDUCED: log 71) -/
def State.say (s : State) (m : OutMsg) : State := { s with trust := { s.trust with out := s.trust.out ++ [m] } }
/-- An SPDM or TDISP request: answered once the port is open, with ERROR where firmware did not run (R393). -/
def State.spdm (s : State) (answer : State) : State :=
  if s.spdmDown then s.say .error else if s.portOpen then answer else s
/-- LOCK_INTERFACE_REQUEST: accepted in CONFIG_UNLOCKED. -/
def execLockInterfaceRequest (f : Nat) (s : State) : Host.Outcome State Fault Refusal :=
  if 513 ≤ f then .next s
  else .next (s.spdm (
    if (s.fn f).tdisp ≠ .unlocked then s.say .error
    else s.setFn f { s.fn f with tdisp := .locked, digest := some (s.lockDigest f), lockSet := s.boundTo f }))
/-- START_INTERFACE_REQUEST: accepted in CONFIG_LOCKED while the selective IDE stream is established (R364). -/
def execStartInterfaceRequest (f : Nat) (s : State) : Host.Outcome State Fault Refusal :=
  if 513 ≤ f then .next s
  else .next (s.spdm (
    if (s.fn f).tdisp ≠ .locked ∨ !(s.trust.ide.any fun e => e.2.1 = f) then s.say .error
    else s.setFn f { s.fn f with tdisp := .run }))
/-- The function is not compared in the pass under way (R362). -/
def State.leavePass (s : State) (f : Nat) : State :=
  { s with trust := { s.trust with pass := s.trust.pass.filter (· ≠ f) } }
/-- The TDISP unlock, from any state. -/
def execTdispUnlock (f : Nat) (s : State) : Host.Outcome State Fault Refusal :=
  if 513 ≤ f then .next s
  else .next (s.spdm
    ((s.setFn f { s.fn f with tdisp := .unlocked, errReason := 0, digest := none, lockSet := [] }).leavePass f))
/-- An interface enters ERROR: every context bound to its function is terminated (R361). -/
def State.ifaceError (s : State) (f why : Nat) : State :=
  let mine := (s.ctxs.filter fun c => c.2.fn = f).map (·.1)
  mine.foldl (fun s n => s.terminate n 0 0) ((s.setFn f { s.fn f with tdisp := .error, errReason := why }).leavePass f)
/-- TDISP_ERROR. (DEDUCED: log 71) -/
def execTdispError (f : Nat) (s : State) : Host.Outcome State Fault Refusal :=
  if 513 ≤ f ∨ !s.portOpen ∨ (s.fn f).tdisp = .error then .next s else .next (s.ifaceError f 2)
/-- The functions the Lamplighter's pass has still to compare: those left of the pass under way, else every locked one,
ascending (R362). -/
def State.passLeft (s : State) : List Nat :=
  if s.trust.pass.isEmpty then (List.range 513).filter s.lockedFn else s.trust.pass
/-- LAMPLIGHTER_WALK: the comparison of a locked interface, in its turn of the pass (R362). -/
def execLamplighterWalk (f : Nat) (s : State) : Host.Outcome State Fault Refusal :=
  if 513 ≤ f ∨ !s.portOpen ∨ s.passLeft.head? ≠ some f then .next s
  else
    let s0 := { s with trust := { s.trust with pass := s.passLeft.tail } }
    let s1 := s0.setReg f (oFn 0x08) ((s.reg f (oFn 0x08) + 1) % 2 ^ 32)
    .next (if (s.fn f).digest = some (s.lockDigest f) then s1 else s1.ifaceError f 1)

/-! ### Attestation (R365, R366) -/

/-- Content of a measurement block. -/
def State.block (s : State) (f block : Nat) : Bytes :=
  let mine := s.ctxs.filter fun c => c.2.fn = f
  let dig := fun (d : BitVec 384) => bytesOfNatBE 48 d.toNat
  match block with
  | 1 => dig (s.trust.boot.getD 0)
  | 2 => dig (s.trust.firmware.getD 0)
  | 3 => s.trust.microcode.flatMap dig
  | 4 => (s.fns.filter fun e => e.2.digest.isSome).flatMap fun e =>
      dig (e.2.digest.getD 0) ++ bytesOfNat 4 (s.regRead e.1 (oFn 0))
  | 5 => bytesOfNat 4 (s.reg 0 (oMod 0x20)) ++ bytesOfNat 4 (s.reg 0 (oMod 0x24)) ++ bytesOfNat 4 (s.reg 0 (oMod 0x28))
      ++ bytesOfNat 8 s.time
  | 6 => mine.flatMap fun c => [0, 4, 8, 12, 16, 20].flatMap fun o => bytesOfNat 4 (s.reg 0 (oSched c.1 o))
  | 7 => (List.range 80).flatMap fun p => bytesOfNat 4 (s.pair p).status.toNat
  | 8 => mine.flatMap fun c => bytesOfNat 4 (s.reg 0 (oLog c.1 12)) ++ bytesOfNat 16 c.2.lastSeal.toNat
  | _ => []
/-- Bytes of an LMS_SHA256_M32_H20 signature with LMOTS_SHA256_N32_W8: leaf number, one-time signature, type and path; the
trailer of a signed response holds it (R365). (PRESUMED: log 71) -/
def lmsLen : Nat := 4 + (4 + 32 + 34 * 32) + 4 + 20 * 32
/-- The blocks a request names: one, or, with index 0xFF, all of them (R366). (PRESUMED: log 71) -/
def blocksOf (block : Nat) : List Nat := if block = 0xFF then (List.range 8).map (· + 1) else [block]
/-- A signed response: two signatures over one transcript, or ERROR once the LMS key is used up. A module whose firmware
did not run answers ERROR (R393). (DEDUCED: log 71) -/
def State.signed (s : State) (body : Bytes) (msg : Nat → Nat → Nat → OutMsg) : State :=
  s.spdm (
    if !s.canSign then s.say .errorUnspecified
    else
      let s1 := s.say (msg (Config.ecdsaSign body) (Config.lmsSign s.trust.lms body) lmsLen)
      { s1 with trust := { s1.trust with lms := s.trust.lms + 1 } })
/-- GET_MEASUREMENTS. (DEDUCED: log 71) -/
def execGetMeasurements (f block : Nat) (s : State) : Host.Outcome State Fault Refusal :=
  let body := (blocksOf block).flatMap (s.block f)
  .next (if 513 ≤ f ∨ (block = 0 ∨ 8 < block) ∧ block ≠ 0xFF then s.spdm (s.say .error)
    else s.signed body (.measurements f block body))
/-- CHALLENGE. (DEDUCED: log 71) -/
def execChallenge (nonce : BitVec 256) (s : State) : Host.Outcome State Fault Refusal :=
  let body := bytesOfNatBE 32 nonce.toNat ++ (List.range 8).flatMap fun i => s.block 0 (i + 1)
  .next (s.signed body (.challengeAuth nonce body))

/-! ### Sessions and keys (R364, R367, R371) -/

/-- SPDM_SECURED_SESSION: a session with the responder, with mutual authentication or without. -/
def execSpdmSecuredSession (both : Bool) (s : State) : Host.Outcome State Fault Refusal :=
  .next (s.spdm (s.setFn 0 { s.fn 0 with session := true, mutualSession := both }))
/-- The keys that an IDE_KM message sets: of one of the PCIe port's 64 selective streams, of its link stream, or of one
direction of the CXL port. (DEDUCED: log 71) -/
def State.keyIde (s : State) (use : IdeUse) (key : BitVec 256) : State :=
  match use with
  | .selective f n =>
    if 513 ≤ f ∨ 64 ≤ n then s else { s with trust := { s.trust with ide := mput s.trust.ide n (f, key) } }
  | .link => { s with trust := { s.trust with ideLink := some key } }
  | .cxl out => { s with trust := { s.trust with cxlIde := mput s.trust.cxlIde (bnat out) key } }
/-- IDE_KM. (DEDUCED: log 71) -/
def execIdeKm (use : IdeUse) (key : BitVec 256) (s : State) : Host.Outcome State Fault Refusal :=
  .next (s.spdm (if (s.fn 0).session then s.keyIde use key else s.say .error))
/-- RING_KEY_ROTATION: the module makes a new ring key, which takes effect for the commands from an index on, and releases
it in the session; a message sent outside a secured session gets ERROR (R367, R403). (DEDUCED: log 71) -/
def execRingKeyRotation (f : Nat) (secured : Bool) (ix : Word) (s : State) : Host.Outcome State Fault Refusal :=
  if 513 ≤ f then .next s
  else .next (s.spdm (
    if !secured ∨ !(s.fn 0).session then s.say .error
    else
      let key := Config.moduleKey s.vm.nextKey
      let s0 := { s with vm := { s.vm with nextKey := s.vm.nextKey + 1 } }
      let s1 := s0.setFn f { s.fn f with rotations := (s.fn f).rotations ++ [(key, ix)] }
      (s1.rotations f (s1.fn f).rotations.length).say (.ringKey f key)))
/-- LOG_KEY_REQUEST: the log key of a context id is released in a session with mutual authentication. -/
def execLogKeyRequest (ctx : Nat) (s : State) : Host.Outcome State Fault Refusal :=
  .next (s.spdm (
    if (s.fn 0).mutualSession && (mget s.trust.logKeys ctx).isSome then s.say (.logKey ctx (s.logKey ctx))
    else s.say .error))

/-! ### Monitors and clocks (R23, R368, R396, R397) -/

/-- A bit of MONEV is set. -/
def State.monev (s : State) (die bit_ : Nat) : State :=
  let k := s.die die
  (s.setDie die { k with monAt := mput k.monAt bit_ k.clk }).setReg 0 (oMon die 0x500) (s.reg 0 (oMon die 0x500) ||| 2 ^ bit_)
/-- The mode in force: TOURN as the last switch applied it. -/
def State.inForce (s : State) : Nat :=
  match (List.range 16).find? fun c => s.reg 0 (oMod 0x24) % 16 = c with
  | some c => if c < 4 then 2 * c + 1 else 0
  | none => 0
/-- An event of a die is recorded in every log while tournament mode is in force. -/
def State.recordEvent (s : State) (die ev : Nat) : State := if s.inForce ≠ 0 then s.logAll die ev else s
/-- A temperature threshold, a signed number of 32 bits. (DESIGN CHOICE: log 79) -/
def State.threshold (s : State) (die ofs : Nat) : Int := (BitVec.ofNat 32 (s.reg 0 (oMon die ofs))).toInt
/-- A temperature of the die, as last read, stands at or above its trip threshold. (DESIGN CHOICE: log 79) -/
def State.hot (s : State) (die : Nat) : Bool :=
  (List.range 64).any fun n => decide (s.threshold die 0x104 ≤ (BitVec.ofNat 16 (s.reg 0 (oMon die (4 * n)))).toInt)
/-- A temperature is read: it sets the bit of each threshold it has reached. (DESIGN CHOICE: log 79) -/
def State.tempRead (s : State) (die : Nat) (v : Int) : State :=
  let s1 := if s.threshold die 0x100 ≤ v then (s.monev die 0).recordEvent die 4 else s
  if s.threshold die 0x104 ≤ v then s1.monev die 1 else s1
/-- MONITOR_EVENT: a monitor has a reading; one at or above its threshold sets its bit, and is recorded.
(DEDUCED: log 70, DESIGN CHOICE: log 79) -/
def execMonitorEvent (die : Nat) (k : MonKind) (v : BitVec 16) (s : State) : Host.Outcome State Fault Refusal :=
  if 4 ≤ die ∨ !s.portOpen then .next s
  else match k with
    | .temp n =>
      .next ((s.setReg 0 (oMon die (4 * n.val)) v.toNat).tempRead die v.toInt)
    | .droop n =>
      let s1 := s.setReg 0 (oMon die (0x200 + 4 * n.val)) (v.toNat % 4096)
      if s.reg 0 (oMon die 0x300) ≤ v.toNat % 4096 then .next ((s1.monev die 2).recordEvent die 4) else .next s1
    | .power => .next ((s.monev die 3).recordEvent die 4)
    | .softError => .next (s.setReg 0 (oMon die 0x504) (min (2 ^ 32 - 1) (s.reg 0 (oMon die 0x504) + 1)))
/-- THERMAL_TRIP: a temperature has reached the trip threshold. The die's clock falls, to a value the spec leaves open;
TTRIP and its copy take the bit. (DEDUCED: log 70) -/
def execThermalTrip (die : Nat) (s : State) : Host.Outcome State Fault Refusal :=
  if 4 ≤ die ∨ !s.portOpen ∨ (s.die die).trip ∨ (s.die die).lost ∨ !s.hot die then .next s
  else
    let k := s.die die
    let s1 := { s with fresh := s.fresh + 1 }.setDie die { k with
      trip := true, mhz := Config.freeNat s.fresh % (max 1 k.mhz) }
    let s2 := (s1.monev die 1).setReg 0 (oMod 0x28) (s.reg 0 (oMod 0x28) ||| 2 ^ die)
    .next ((s2.putTclkst (s2.reg 0 (oMod 0x24))).recordEvent die 2)
/-- TRIP_CLEAR: every temperature lies below the trip threshold again; the clock returns to what the mode gives.
(DEDUCED: log 70) -/
def execTripClear (die : Nat) (s : State) : Host.Outcome State Fault Refusal :=
  if 4 ≤ die ∨ !s.portOpen ∨ !(s.die die).trip ∨ s.hot die then .next s
  else .next ((s.setDie die { s.die die with trip := false, mhz := modeMhz s.inForce }).recordEvent die 3)
/-- BOOST_THROTTLE: in normal operation a die's clock moves, up to 2.6 GHz by boost or down by throttling (R23). -/
def execBoostThrottle (die mhz : Nat) (s : State) : Host.Outcome State Fault Refusal :=
  if 4 ≤ die ∨ !s.portOpen ∨ s.inForce ≠ 0 ∨ (s.die die).trip ∨ mhz = 0 ∨ 2600 < mhz then .next s
  else .next (s.setDie die { s.die die with mhz := mhz })

end Sys2Proof.Machine
end

