-- ==== Sys2Proof/Machine/Links.lean ====
section
/-! DEFINITION. Machine/Links.lean: the two ends of a bridge or Wenzil link (R383, R384, R391), link training (R364) and
the timebase between modules (R26, R385). -/

namespace Sys2Proof.Machine

/-- How far a sequence number lies behind another, modulo 1,024. (DEDUCED: log 69) -/
def seqAhead (a b : BitVec 10) : Nat := (a - b).toNat
/-- Flits of the window that an ACK field acknowledges leave it: those up to and with the number it names.
(DEDUCED: log 69) -/
def Link.acked (l : Link) (ack : BitVec 10) : Link :=
  { l with window := l.window.filter fun e => !(decide (seqAhead ack e.flit.seq < 512)) }
/-- The ACK field a flit carries now: the last sequence received in order, and whether the one after it is missing. -/
def Link.stamp (l : Link) (f : Flit) : Flit := { f with ack := l.ackOut, nak := l.nakOut.isSome }

/-- Sixteen resends of one flit retrain the link. Each of three attempts succeeds or fails, as the spec leaves open; the
window stays, and three failures take the link down, and with its last bridge link a die (R384, R390).
(DEDUCED: log 69) -/
def State.retrain (s : State) (link : Nat) : State :=
  let l := s.link link
  let s1 := { s with fresh := s.fresh + 3 }
  if (List.range 3).any fun i => Config.freeBit (s.fresh + i) then
    s1.setLink link { l with window := l.window.map fun e => { e with resends := 0 } }
  else
    let s2 := s1.setLink link { l with up := false }
    (bridgeDies link).foldl (fun s d =>
      if (bridgesOf d).all fun b => !(s.link b).up then s.loseDie d else s) s2
/-- The die whose clk a link's sender runs by. (DEDUCED: log 69) -/
def linkDie (link : Nat) : Nat := if link < 6 then (bridgeDies link).headD 0 else (link - 6) / 2
/-- Flit n of the window is sent again, alone; a second reason for it in the same clk sends nothing (R391). -/
def State.resend (s : State) (link : Nat) (n : BitVec 10) : State :=
  let l := s.link link
  let clk := (s.die (linkDie link)).clk
  match l.window.find? fun e => e.flit.seq = n with
  | none => s
  | some e =>
    if e.resentAt = some clk then s
    else
      let s1 := s.setLink link { l with window := l.window.map fun k =>
        if k.flit.seq = n then ⟨l.stamp k.flit, s.time, k.resends + 1, some clk⟩ else k }
      if 16 ≤ e.resends + 1 then s1.retrain link else s1

/-- FLIT_SEND: a new flit is sent while fewer than 256 are unacknowledged. -/
def execFlitSend (link : Nat) (payload : List Byte) (kind : BitVec 6) (s : State) : Host.Outcome State Fault Refusal :=
  let l := s.link link
  if !l.up ∨ payload.length ≠ 56 ∨ 256 ≤ l.window.length then .next s
  else .next (s.setLink link { l with
    sendSeq := l.sendSeq + 1,
    window := l.window ++ [⟨l.stamp ⟨payload, l.sendSeq, kind, 0, false, true, true⟩, s.time, 0, none⟩] })

/-- The flit next in order is delivered, then the held flits that now follow. -/
def Link.deliver (l : Link) : Nat → Link
  | 0 => l
  | fuel + 1 =>
    match l.heldFlits.find? fun f => f.seq = l.expect with
    | none => l
    | some f => ({ l with
        delivered := l.delivered ++ [(f.payload, f.kind)],
        heldFlits := l.heldFlits.filter fun g => g.seq ≠ f.seq,
        ackOut := l.expect,
        expect := l.expect + 1 } : Link).deliver fuel
/-- A gap stands before a held flit: the first missing flit is asked for. (DEDUCED: log 69) -/
def Link.naks (l : Link) : Link := { l with nakOut := if l.heldFlits.isEmpty then none else some l.expect }
/-- A good flit arrives. (DEDUCED: log 69) -/
def Link.take (l : Link) (f : Flit) : Link :=
  if 256 ≤ seqAhead f.seq l.expect ∨ l.heldFlits.any (fun g => g.seq = f.seq) then l
  else
    let l1 := { l with heldFlits := l.heldFlits ++ [f] }
    (l1.deliver l1.heldFlits.length).naks
/-- The cipher tag of the group that the next flit to arrive belongs to: the first of the 8 brings it (R364).
(DEDUCED: log 69) -/
def Link.tagOk (l : Link) (f : Flit) : Bool := if l.rx = 0 then f.tag else l.groupOk
/-- A flit of a group has arrived. -/
def Link.arrived (l : Link) (f : Flit) : Link := { l with rx := l.rx + 1, groupOk := l.tagOk f }
/-- FLIT_RECEIVE: a flit that fails its CRC, and every flit of a group whose cipher tag fails, is dropped, and the first
missing flit is asked for. (DESIGN CHOICE: log 75, DEDUCED: log 78) -/
def execFlitReceive (link : Nat) (fl : Flit) (s : State) : Host.Outcome State Fault Refusal :=
  let l := (s.link link).arrived fl
  if !l.up then .next s
  else if !fl.good ∨ !l.groupOk ∨ fl.payload.length ≠ 56 then .next (s.setLink link { l with nakOut := some l.expect })
  else
    let s1 := s.setLink link ((l.acked fl.ack).take fl)
    .next (if fl.nak then s1.resend link (fl.ack + 1) else s1)
/-- NAK: flit n is missing; those before it have arrived. -/
def execNak (link : Nat) (n : BitVec 10) (s : State) : Host.Outcome State Fault Refusal :=
  if !(s.link link).up then .next s
  else .next ((s.setLink link ((s.link link).acked (n - 1))).resend link n)
/-- RESEND_TIMEOUT. -/
def execResendTimeout (link : Nat) (s : State) : Host.Outcome State Fault Refusal :=
  match (s.link link).window with
  | e :: _ => if (s.link link).up ∧ e.sentAt + 1000 < s.time then .next (s.resend link e.flit.seq) else .next s
  | [] => .next s

/-- The grandmaster: the lowest clock identity among this module's and those the joined modules name (R385).
(DEDUCED: log 69) -/
def State.grandmaster (s : State) : DWord :=
  s.links.foldl (fun m e => match e.2.master with
    | some k => if e.2.up && k.toNat < m.toNat then k else m
    | none => m) Config.clockId
/-- PTP_MESSAGE: the other end of a Wenzil link names its grandmaster, and the offset to it, in ns. Of the grandmaster
of all joined modules, the offset counts; where it is this module itself, there is none. The correction slews the rate of
the timebase, which a machine counted in that timebase does not show; a module that stood apart is aligned again within
20 ns. (DEDUCED: log 69) -/
def execPtpMessage (link : Nat) (note : PtpNote) (s : State) : Host.Outcome State Fault Refusal :=
  if link < 6 ∨ 14 ≤ link ∨ !(s.link link).up then .next s
  else
    let s1 := s.setLink link { s.link link with master := some note.master }
    let l := s1.link link
    let ofs := if s1.grandmaster = Config.clockId then 0 else if s1.grandmaster = note.master then note.offset else l.offset
    .next (s1.setLink link { l with offset := ofs, aligned := l.aligned || decide (ofs.natAbs ≤ 20) })
/-- Any whole number. (DEDUCED: log 69) -/
def freeInt (n : Nat) : Int := if Config.freeBit n then Config.freeNat n else -(Config.freeNat n : Int)
/-- LINK_TRAINING: a link that was down comes up with nothing sent. A bridge link takes the module's own key. The offset a
Wenzil link finds is open; one above 1 µs keeps the module out of gangs. (DEDUCED: log 69) -/
def execLinkTraining (link : Nat) (terms : LinkTerms) (s : State) : Host.Outcome State Fault Refusal :=
  if 14 ≤ link ∨ s.trust.boot_step < 6 ∨ (s.link link).up then .next s
  else if link < 6 then
    if (bridgeDies link).any fun d => (s.die d).lost then .next s
    else .next (s.setLink link { up := true, key := some (Config.linkKey link) })
  else
    let o := freeInt s.fresh
    .next (({ s with fresh := s.fresh + 1 } : State).setLink link
      { up := true, key := some terms.key, offset := o, aligned := decide (o.natAbs ≤ 1000), master := some terms.master })

end Sys2Proof.Machine
end

