-- ==== Sys2Proof/Machine/HostPort.lean ====
section
/-! DEFINITION. Machine/HostPort.lean: host accesses to device memory (R261, R304, R372, R373). -/

namespace Sys2Proof.Machine

/-- A cached translation maps the page of a device address. (DEDUCED: log 67) -/
def TlbE.maps (t : TlbE) (pa : Nat) : Bool :=
  !eBit t.leaf2 11 && eDev t.leaf2 / 2 ^ t.shift2 = pa / 2 ^ t.shift2
/-- The intermediate page at which a cached translation maps a device address. -/
def TlbE.pageOf (t : TlbE) (pa : Nat) : Nat :=
  (s1ia t.leaf1 t.shift1 t.va t.va / 2 ^ t.shift2 * 2 ^ t.shift2 + pa % 2 ^ t.shift2) / 4096
/-- The page of a device address: its context, its number and the BIAS bit of its leaf. A translation in use names it,
else the leaf that maps it. (DEDUCED: log 67) -/
def State.hostPage (s : State) (pa : Nat) : Option (Nat × Nat × Bool) :=
  match s.dies.findSome? fun d => d.2.tlb.find? fun t => t.maps pa with
  | some t => some (t.ctx, t.pageOf pa, eBit t.leaf2 10)
  | none => s.ctxs.findSome? fun c => ((s.leaves c.1).find? fun l => l.frames.contains (pa / 4096)).map fun l =>
      (c.1, l.page + (pa / 4096 - eDev l.e / 4096), eBit l.e 10)
/-- Host bias is in force for the page of a device address; a page no context maps is in device bias.
(DEDUCED: log 67) -/
def State.biasAt (s : State) (pa : Nat) : Bool :=
  match s.hostPage pa with
  | some (ctx, page, leaf) => s.hostBias ctx page leaf
  | none => false
/-- A host access sets the bias in force of the pages of its n bytes, as any access does (R373). -/
def State.hostNotes (s : State) (pa n : Nat) : State :=
  (((List.range n).map fun i => (pa + i) / 4096).eraseDups).foldl (fun s p => match s.hostPage (4096 * p) with
    | some (ctx, page, leaf) => s.noteBias ctx page leaf
    | none => s) s
/-- Where a byte of device memory lies once its frame has been retired and fetched again (R326). -/
def State.redirect (s : State) (pa : Nat) : Key :=
  match mget (s.die (pa / 2 ^ 37)).retireMap (pa / 4096) with
  | some f => devKey (f * 4096 + pa % 4096)
  | none => devKey pa
/-- The byte memory itself holds: older than the home L2's where a line has been written there and not been flushed
(R153). -/
def State.oldByte (s : State) (k : Key) : Byte :=
  match mget s.vm.dirty (lineOf k) with
  | some l => l.getD (k % 64) 0
  | none => memByte s.mem k
/-- The byte a host read gets. (DEDUCED: log 67) -/
def State.hostByte (s : State) (pa : Nat) : Byte :=
  let k := s.redirect pa
  if s.biasAt pa then s.oldByte k else memByte s.mem k
/-- A host write of one byte: in device bias at the home L2; in host bias in memory, whose line then stands as the one
copy. (DEDUCED: log 67) -/
def State.hostPut (s : State) (pa : Nat) (b : Byte) : State :=
  let k := s.redirect pa
  let l := lineOf k
  if s.biasAt pa then
    let old := (List.range 64).map fun i => s.oldByte (64 * l + i)
    let s1 := s.poke (cellsAt (64 * l) old ++ [(k, b)])
    { s1 with vm := { s1.vm with dirty := mdel s1.vm.dirty l, lastWrite := mput s1.vm.lastWrite (l / 64) s.time } }
  else
    s.perform [(k, b)] ((mget s.vm.lineKey l).elim [] fun key => [⟨l, key, false⟩])
/-- The line of byte i of an access lies within its n bytes. -/
def wholeLine (pa n i : Nat) : Bool := pa ≤ 64 * ((pa + i) / 64) && 64 * ((pa + i) / 64) + 64 ≤ pa + n
/-- The access reaches a lost die, or a line whose copy has failed: one that is read, or written in part (R247, R326,
R392). (DEDUCED: log 67) -/
def State.hostFails (s : State) (pa n : Nat) (write : Bool) : Bool :=
  (List.range n).any fun i =>
    let k := s.redirect (pa + i)
    (s.die (dieOf k)).lost || ((mget s.vm.bad (lineOf k)).isSome && !(write && wholeLine pa n i))
      || (!write && s.vm.soft.contains k)
/-- Lines written whole, and bytes written, fail no more (R247, R326). -/
def State.hostHeals (s : State) (pa n : Nat) : State :=
  let at_ := List.range n
  let lines := (at_.filter (wholeLine pa n)).map fun i => lineOf (s.redirect (pa + i))
  let keys := at_.map fun i => s.redirect (pa + i)
  { s with vm := { s.vm with bad := s.vm.bad.filter fun e => !lines.contains e.1,
                             soft := s.vm.soft.filter fun k => !keys.contains k } }
/-- HOST_ACCESS: a write where there is data, else a read of len bytes. (DEDUCED: log 67, 78) -/
def execHostAccess (pa : Nat) (data : List Byte) (len : Nat) (s : State) : Host.Outcome State Fault Refusal :=
  let n := if data.isEmpty then len else data.length
  let say := fun (m : OutMsg) => ({ s with trust := { s.trust with out := s.trust.out ++ [m] } } : State)
  if !s.portOpen then .next s
  else match (List.range n).find? fun i => !namesByte (pa + i) with
    | some i => .fault (.noSuchByte (pa + i))
    | none =>
      let t := s.hostNotes pa n
      if s.hostFails pa n (!data.isEmpty) then .next (say .unsupported)
      else if data.isEmpty then
        let bytes := (List.range n).map fun i => s.hostByte (pa + i)
        .next { t with trust := { t.trust with out := t.trust.out ++ [.hostData bytes] } }
      else .next ((data.zipIdx.foldl (fun s b => s.hostPut (pa + b.2) b.1) t).hostHeals pa n)

end Sys2Proof.Machine
end

