-- ==== Sys2Proof/Machine/Integer.lean ====
section
/-! DEFINITION. Machine/Integer.lean: the V instructions on integers, logic and bits (R176 to R181). -/

namespace Sys2Proof.Machine

def execIadd (f : V2) (s : State) : Host.Outcome State Fault Refusal := s.runV2 f fun a b => pureRes (a + b)
def execIsub (f : V2) (s : State) : Host.Outcome State Fault Refusal := s.runV2 f fun a b => pureRes (a - b)

/-- The exact sum of IADDX (R177). -/
def iaddxSum (op : BitVec 2) (a b : Word) (p : Bool) : Nat :=
  match op.toNat with
  | 0 => a.toNat + b.toNat + bnat p
  | 1 => a.toNat + b.toNat
  | 2 => a.toNat + (~~~b).toNat + bnat p
  | _ => a.toNat + (~~~b).toNat + 1

/-- IADDX (R177): the sum modulo 2^32, and its carry in p31 of every active lane. -/
def execIaddx (f : V2) (op : BitVec 2) (s : State) : Host.Outcome State Fault Refusal :=
  s.issue (fun s w x v => s.vGate w v x { g := f.g, srcs := [f.a, f.b], tgt := .reg f.d }) fun s w x v =>
    let act := v.active x f.g
    let a := s.readV v x f.a
    let b := s.readV v x f.b
    let y := fun t => iaddxSum op (laneAt a t) (laneAt b t) (mbit (v.preg 31) t)
    (s.vDone w x v { g := f.g, srcs := [f.a, f.b], tgt := .reg f.d } fun t => pureRes (BitVec.ofNat 32 (y t))).modWave w
      fun u => u.setP 31 (maskOf fun t => if mbit act t then decide (2 ^ 32 ≤ y t) else mbit (v.preg 31) t)

def execImul (f : V2) (s : State) : Host.Outcome State Fault Refusal := s.runV2 f fun a b => pureRes (a * b)
def execImulh (f : V2) (s : State) : Host.Outcome State Fault Refusal :=
  s.runV2 f fun a b => pureRes (BitVec.ofInt 32 (a.toInt * b.toInt / 2 ^ 32))
def execUmulh (f : V2) (s : State) : Host.Outcome State Fault Refusal :=
  s.runV2 f fun a b => pureRes (BitVec.ofNat 32 (a.toNat * b.toNat / 2 ^ 32))

/-- a · b + c, exact, read as signed or unsigned (R176). -/
def imadRes (sat u : Bool) (a b c : Word) : Res Word :=
  if u then intRes sat false (a.toNat * b.toNat + c.toNat) else intRes sat true (a.toInt * b.toInt + c.toInt)
def execImad (f : V2) (sat u : Bool) (s : State) : Host.Outcome State Fault Refusal := s.runV2D f (imadRes sat u)
def execImad3 (f : V2) (sat u : Bool) (c : VSrc) (s : State) : Host.Outcome State Fault Refusal :=
  s.runV3 f c (imadRes sat u)

def execImin (f : V2) (s : State) : Host.Outcome State Fault Refusal :=
  s.runV2 f fun a b => pureRes (if a.toInt ≤ b.toInt then a else b)
def execImax (f : V2) (s : State) : Host.Outcome State Fault Refusal :=
  s.runV2 f fun a b => pureRes (if a.toInt ≤ b.toInt then b else a)
def execUmin (f : V2) (s : State) : Host.Outcome State Fault Refusal :=
  s.runV2 f fun a b => pureRes (if a.toNat ≤ b.toNat then a else b)
def execUmax (f : V2) (s : State) : Host.Outcome State Fault Refusal :=
  s.runV2 f fun a b => pureRes (if a.toNat ≤ b.toNat then b else a)
def execIabs (f : V1) (s : State) : Host.Outcome State Fault Refusal :=
  s.runV1 f fun a => pureRes (if a.toInt < 0 then -a else a)
def execIadds (f : V2) (u : Bool) (s : State) : Host.Outcome State Fault Refusal :=
  s.runV2 f fun a b => if u then intRes true false (a.toNat + b.toNat) else intRes true true (a.toInt + b.toInt)
def execIsubs (f : V2) (u : Bool) (s : State) : Host.Outcome State Fault Refusal :=
  s.runV2 f fun a b => if u then intRes true false ((a.toNat : Int) - b.toNat) else intRes true true (a.toInt - b.toInt)

/-- The conditions of R178 and, with the unsigned four, of SCMP (R156). -/
def cmpHolds (cond : Nat) (a b ua ub : Int) : Bool :=
  match cond with
  | 0 => a = b | 1 => a ≠ b | 2 => a < b | 3 => a ≤ b | 4 => b < a | 5 => b ≤ a
  | 6 => ua < ub | 7 => ua ≤ ub | 8 => ub < ua | _ => ub ≤ ua
def execIcmp (f : P2) (cond : Fin 6) (s : State) : Host.Outcome State Fault Refusal :=
  s.runP2 f fun a b => pureRes (cmpHolds cond a.toInt b.toInt 0 0)
def execUcmp (f : P2) (cond : Fin 6) (s : State) : Host.Outcome State Fault Refusal :=
  s.runP2 f fun a b => pureRes (cmpHolds cond a.toNat b.toNat 0 0)

def execAnd (f : V2) (s : State) : Host.Outcome State Fault Refusal := s.runV2 f fun a b => pureRes (a &&& b)
def execOr (f : V2) (s : State) : Host.Outcome State Fault Refusal := s.runV2 f fun a b => pureRes (a ||| b)
def execXor (f : V2) (s : State) : Host.Outcome State Fault Refusal := s.runV2 f fun a b => pureRes (a ^^^ b)

/-- A word from its bits. -/
def wordOfBits (f : Nat → Bool) : Word := BitVec.ofNat 32 ((List.range 32).foldr (fun i n => 2 * n + bnat (f i)) 0)
/-- LTAB (R180). -/
def ltabWord (tab : BitVec 8) (a b c : Word) : Word :=
  wordOfBits fun i => tab.toNat.testBit (bnat (a.toNat.testBit i) + 2 * bnat (b.toNat.testBit i) + 4 * bnat (c.toNat.testBit i))
def execLtab (f : V2) (tab : BitVec 8) (c : VSrc) (s : State) : Host.Outcome State Fault Refusal :=
  s.runV3 f c fun a b d => pureRes (ltabWord tab a b d)

def execShl (f : V2) (s : State) : Host.Outcome State Fault Refusal :=
  s.runV2 f fun a b => pureRes (a <<< (b.toNat % 32))
def execShr (f : V2) (s : State) : Host.Outcome State Fault Refusal :=
  s.runV2 f fun a b => pureRes (a >>> (b.toNat % 32))
def execSar (f : V2) (s : State) : Host.Outcome State Fault Refusal :=
  s.runV2 f fun a b => pureRes (a.sshiftRight (b.toNat % 32))
def execRot (f : V2) (s : State) : Host.Outcome State Fault Refusal :=
  s.runV2 f fun a b => pureRes (a.rotateLeft (b.toNat % 32))

/-- Extract a field of offset o and width wd from the n-bit value a (R157, R181). -/
def bfeNat (a o wd : Nat) (sx : Bool) : Int :=
  if wd = 0 then 0 else if sx then sextN wd (a / 2 ^ o) else ((a / 2 ^ o % 2 ^ wd : Nat) : Int)
/-- Insert the low wd bits of b at offset o of a. -/
def bfiNat (a b o wd : Nat) : Nat :=
  a - a / 2 ^ o % 2 ^ wd * 2 ^ o + b % 2 ^ wd * 2 ^ o
def execBfe (f : V2) (sx : Bool) (s : State) : Host.Outcome State Fault Refusal :=
  s.runV2 f fun a b =>
    let o := b.toNat % 32
    pureRes (BitVec.ofInt 32 (bfeNat a.toNat o (min (b.toNat / 256 % 64) (32 - o)) sx))
def execBfi (f : V2) (c : VSrc) (s : State) : Host.Outcome State Fault Refusal :=
  s.runV3 f c fun a b d =>
    let o := d.toNat % 32
    pureRes (BitVec.ofNat 32 (bfiNat a.toNat b.toNat o (min (d.toNat / 256 % 64) (32 - o))))

/-- Number of one bits among the low n. -/
def ones (n a : Nat) : Nat := ((List.range n).filter fun i => a.testBit i).length
/-- Leading zero bits of an n-bit value. -/
def leadZeros (n a : Nat) : Nat := if a = 0 then n else n - 1 - Nat.log2 a
def execPopc (f : V1) (s : State) : Host.Outcome State Fault Refusal :=
  s.runV1 f fun a => pureRes (BitVec.ofNat 32 (ones 32 a.toNat))
def execClz (f : V1) (s : State) : Host.Outcome State Fault Refusal :=
  s.runV1 f fun a => pureRes (BitVec.ofNat 32 (leadZeros 32 a.toNat))
def execBrev (f : V1) (s : State) : Host.Outcome State Fault Refusal :=
  s.runV1 f fun a => pureRes (wordOfBits fun i => a.toNat.testBit (31 - i))

end Sys2Proof.Machine
end

