-- ==== Sys2Proof/Machine/Startup.lean ====
section
/-! DEFINITION. Machine/Startup.lean: cold reset and the steps of start-up (R364, R393, R395, R399). -/

namespace Sys2Proof.Machine

/-- The march kernel of firmware (R399): no v registers and no pad; the code's own loops need four levels.
(DEDUCED: log 72) -/
def marchKernel : Kernel := { sregs := 128, loopDepth := 4 }
/-- The march wave of a pair: slot 0 of the pair's even core, in supervisor mode; its context and block are no one's.
(DEDUCED: log 17, 72, DESIGN CHOICE: log 5) -/
def marchWave (p : Nat) : Wave :=
  let id : WId := { die := p / 20, core := p % 20 * 2, slot := 0, ctx := 1024, task := 2 ^ 40, block := 2 ^ 40, kern := marchKernel,
                    march := true }
  { id := id, regs := { h := 8 },
    ctl := { a := { phase := .run, mask := allLanes, sup := true }, b := { sup := true }, live := allLanes } }
/-- Step 4: a march wave is placed on every pair. (DEDUCED: log 72) -/
def State.placeMarch (s : State) : State :=
  (List.range 80).foldl (fun s p =>
    (s.setPair p { s.pair p with uniformOk := !Config.uniformFails p }).setWave (2 * p * 96) (marchWave p)) s
/-- A die as memory training leaves it. (DESIGN CHOICE: log 9) -/
def freshDie (d : Nat) : Nat × Die := (d, { usable := Config.memoryTrains d })
/-- The log2 of the Daymark buckets that start-up reads (R317). (DEDUCED: log 68) -/
def State.bucketsRead (s : State) : Nat := min 24 (max 10 (s.reg 0 (oMod 0x10)))
/-- Every register at its reset value, nothing placed; memory keeps what it holds, the timebase its count, and the LMS key
and the module's key numbers what they have been used for (R26, R365).
(DESIGN CHOICE: log 2) -/
def State.cleared (s : State) : State :=
  { State.reset with
    time := s.time, agenda := s.agenda, fresh := s.fresh, mem := s.mem,
    vm := { nextKey := s.vm.nextKey }, trust := { lms := s.trust.lms } }
/-- COLD_RESET: the steps of start-up in order, up to the march; the last march wave to retire opens the port.
(DEDUCED: log 72) -/
def execColdReset (s : State) : Host.Outcome State Fault Refusal :=
  let s0 := s.cleared
  let s1 := { s0 with trust := { s0.trust with
    boot := some Config.bootDigest, firmware := some Config.firmwareDigest, boot_step := 1 } }
  if !Config.firmwareSigned then .next s1
  else
    let s2 := { s1 with trust := { s1.trust with microcode := (List.range 4).map Config.microcodeDigest, boot_step := 2 } }
    if !Config.microcodeLoads then .next s2
    else
      let s3 := { s2 with
        dies := (List.range 4).map freshDie,
        links := (List.range 6).map fun l => (l, { up := true, key := some (Config.linkKey l) }),
        vm := { s2.vm with buckets := s2.bucketsRead },
        trust := { s2.trust with boot_step := 4 } }
      .next s3.placeMarch

end Sys2Proof.Machine
end

