-- ==== Sys2Proof/Machine/Uniform.lean ====
section
/-! DEFINITION. Machine/Uniform.lean: the U instructions (R154 to R159). -/

namespace Sys2Proof.Machine

def execSmov (f : U1) (s : State) : Host.Outcome State Fault Refusal := s.runU1 f pureRes
/-- SSEL (R155). -/
def execSsel (f : U2) (nc : Bool) (k : BitVec 3) (s : State) : Host.Outcome State Fault Refusal :=
  s.runU f.g f.d [f.a, f.b, .k k] fun l => pureRes (if (uAt l 2 ≠ 0) != nc then uAt l 0 else uAt l 1)
/-- A truth value as a U result. -/
def boolRes (b : Bool) : Res DWord := pureRes (if b then 1 else 0)
def execKlop (f : U2) (op : BitVec 3) (s : State) : Host.Outcome State Fault Refusal :=
  s.runU2 f fun a b => boolRes (klopBit op (a ≠ 0) (b ≠ 0))
def execSadd (f : U2) (s : State) : Host.Outcome State Fault Refusal := s.runU2 f fun a b => pureRes (a + b)
def execSsub (f : U2) (s : State) : Host.Outcome State Fault Refusal := s.runU2 f fun a b => pureRes (a - b)
def execSmul (f : U2) (s : State) : Host.Outcome State Fault Refusal := s.runU2 f fun a b => pureRes (a * b)
def execSmulh (f : U2) (u : Bool) (s : State) : Host.Outcome State Fault Refusal :=
  s.runU2 f fun a b => pureRes (if u then BitVec.ofNat 64 (a.toNat * b.toNat / 2 ^ 64)
    else BitVec.ofInt 64 (a.toInt * b.toInt / 2 ^ 64))
def execSmad (f : U2) (c : USrc) (s : State) : Host.Outcome State Fault Refusal :=
  s.runU3 f c fun a b d => pureRes (a * b + d)
def execSmin (f : U2) (u : Bool) (s : State) : Host.Outcome State Fault Refusal :=
  s.runU2 f fun a b => pureRes (if (if u then a.toNat ≤ b.toNat else a.toInt ≤ b.toInt) then a else b)
def execSmax (f : U2) (u : Bool) (s : State) : Host.Outcome State Fault Refusal :=
  s.runU2 f fun a b => pureRes (if (if u then a.toNat ≤ b.toNat else a.toInt ≤ b.toInt) then b else a)
def execScmp (f : U2) (cond : Fin 10) (s : State) : Host.Outcome State Fault Refusal :=
  s.runU2 f fun a b => boolRes (cmpHolds cond a.toInt b.toInt a.toNat b.toNat)
def execSlea (f : U2) (sh : BitVec 4) (s : State) : Host.Outcome State Fault Refusal :=
  s.runU2 f fun a b => pureRes (a + (b <<< sh.toNat))
def execSand (f : U2) (s : State) : Host.Outcome State Fault Refusal := s.runU2 f fun a b => pureRes (a &&& b)
def execSor (f : U2) (s : State) : Host.Outcome State Fault Refusal := s.runU2 f fun a b => pureRes (a ||| b)
def execSxor (f : U2) (s : State) : Host.Outcome State Fault Refusal := s.runU2 f fun a b => pureRes (a ^^^ b)
def execSshl (f : U2) (s : State) : Host.Outcome State Fault Refusal :=
  s.runU2 f fun a b => pureRes (a <<< (b.toNat % 64))
def execSshr (f : U2) (s : State) : Host.Outcome State Fault Refusal :=
  s.runU2 f fun a b => pureRes (a >>> (b.toNat % 64))
def execSsar (f : U2) (s : State) : Host.Outcome State Fault Refusal :=
  s.runU2 f fun a b => pureRes (a.sshiftRight (b.toNat % 64))
def execSrot (f : U2) (s : State) : Host.Outcome State Fault Refusal :=
  s.runU2 f fun a b => pureRes (a.rotateLeft (b.toNat % 64))
/-- SBFE (R157). -/
def execSbfe (f : U2) (sx : Bool) (s : State) : Host.Outcome State Fault Refusal :=
  s.runU2 f fun a b =>
    let o := b.toNat % 64
    pureRes (BitVec.ofInt 64 (bfeNat a.toNat o (min (b.toNat / 256 % 128) (64 - o)) sx))
/-- SBFI (R157). -/
def execSbfi (f : U2) (c : USrc) (s : State) : Host.Outcome State Fault Refusal :=
  s.runU3 f c fun a b d =>
    let o := d.toNat % 64
    pureRes (BitVec.ofNat 64 (bfiNat a.toNat b.toNat o (min (d.toNat / 256 % 128) (64 - o))))
def execSpopc (f : U1) (s : State) : Host.Outcome State Fault Refusal :=
  s.runU1 f fun a => pureRes (BitVec.ofNat 64 (ones 64 a.toNat))
def execSclz (f : U1) (s : State) : Host.Outcome State Fault Refusal :=
  s.runU1 f fun a => pureRes (BitVec.ofNat 64 (leadZeros 64 a.toNat))

/-- A float result in [31:0], zero above (R158). -/
def Res.dword (r : Res Nat) : Res DWord := ⟨BitVec.ofNat 64 r.val, r.fl⟩
def low32 (a : DWord) : Nat := a.toNat % 2 ^ 32
def execSfadd (f : U2) (m : FMod) (s : State) : Host.Outcome State Fault Refusal :=
  s.runU2 f fun a b => (fAdd f32 m (low32 a) (low32 b)).dword
def execSfmul (f : U2) (m : FMod) (s : State) : Host.Outcome State Fault Refusal :=
  s.runU2 f fun a b => (fMul f32 m (low32 a) (low32 b)).dword
def execSffma (f : U2) (m : FMod) (nc : Bool) (c : USrc) (s : State) : Host.Outcome State Fault Refusal :=
  s.runU3 f c fun a b d => (fMac f32 m nc (low32 a) (low32 b) (low32 d)).dword
def execSfcmp (f : U2) (cond : BitVec 3) (n : NMod) (s : State) : Host.Outcome State Fault Refusal :=
  s.runU2 f fun a b =>
    let r := fcond f32 cond (finA f32 n (low32 a)) (finB f32 n (low32 b))
    ⟨if r.val then 1 else 0, r.fl⟩
/-- SCVT (R159): an INT32 result is sign-extended, every other zero-extended. -/
def execScvt (f : U1) (rnd : BitVec 2) (sat : Bool) (fmt src : Fmt) (s : State) : Host.Outcome State Fault Refusal :=
  s.runU1 f fun a =>
    let r := cvtElem (elemOf src) (elemOf fmt) (Rnd.of rnd) sat a.toNat
    ⟨if fmt = .i32 then BitVec.ofInt 64 (sextN 32 r.val) else BitVec.ofNat 64 r.val, r.fl⟩

end Sys2Proof.Machine
end

