-- ==== Sys2Proof/Machine/Dispatch.lean ====
section
/-! DEFINITION. Machine/Dispatch.lean: one arm per instruction and event. -/

namespace Sys2Proof.Machine

def exec (i : Instr) (s : State) : Host.Outcome State Fault Refusal :=
  match i with
  | .mov f => Sys2Proof.Machine.execMov f s
  | .sel f nc p => Sys2Proof.Machine.execSel f nc p s
  | .sread g d k => Sys2Proof.Machine.execSread g d k s
  | .plop g pd pa pb op => Sys2Proof.Machine.execPlop g pd pa pb op s
  | .pset g pd a => Sys2Proof.Machine.execPset g pd a s
  | .pmov g d => Sys2Proof.Machine.execPmov g d s
  | .pmovPreds g a => Sys2Proof.Machine.execPmovPreds g a s
  | .fadd f m => Sys2Proof.Machine.execFadd f m s
  | .fsub f m => Sys2Proof.Machine.execFsub f m s
  | .fmul f m => Sys2Proof.Machine.execFmul f m s
  | .ffma f m nc => Sys2Proof.Machine.execFfma f m nc s
  | .fma3 f m nc c => Sys2Proof.Machine.execFma3 f m nc c s
  | .fmin f n => Sys2Proof.Machine.execFmin f n s
  | .fmax f n => Sys2Proof.Machine.execFmax f n s
  | .fcmp f cond n => Sys2Proof.Machine.execFcmp f cond n s
  | .frnd f rnd na absa => Sys2Proof.Machine.execFrnd f rnd na absa s
  | .ffract f na absa => Sys2Proof.Machine.execFfract f na absa s
  | .fscale f rnd sat na absa => Sys2Proof.Machine.execFscale f rnd sat na absa s
  | .frcp f na absa => Sys2Proof.Machine.execFrcp f na absa s
  | .frsq f na absa => Sys2Proof.Machine.execFrsq f na absa s
  | .fsqrt f na absa => Sys2Proof.Machine.execFsqrt f na absa s
  | .fexp2 f na absa => Sys2Proof.Machine.execFexp2 f na absa s
  | .flog2 f na absa => Sys2Proof.Machine.execFlog2 f na absa s
  | .fsin f na absa => Sys2Proof.Machine.execFsin f na absa s
  | .fcos f na absa => Sys2Proof.Machine.execFcos f na absa s
  | .hadd2 f m => Sys2Proof.Machine.execHadd2 f m s
  | .hsub2 f m => Sys2Proof.Machine.execHsub2 f m s
  | .hmul2 f m => Sys2Proof.Machine.execHmul2 f m s
  | .hfma2 f m nc => Sys2Proof.Machine.execHfma2 f m nc s
  | .hmin2 f n => Sys2Proof.Machine.execHmin2 f n s
  | .hmax2 f n => Sys2Proof.Machine.execHmax2 f n s
  | .hcmp2 f cond n => Sys2Proof.Machine.execHcmp2 f cond n s
  | .badd2 f m => Sys2Proof.Machine.execBadd2 f m s
  | .bmul2 f m => Sys2Proof.Machine.execBmul2 f m s
  | .bfma2 f m nc => Sys2Proof.Machine.execBfma2 f m nc s
  | .dot4i f sat c => Sys2Proof.Machine.execDot4i f sat c s
  | .dot4u f sat c => Sys2Proof.Machine.execDot4u f sat c s
  | .dot2h f m nc c => Sys2Proof.Machine.execDot2h f m nc c s
  | .dot2b f m nc c => Sys2Proof.Machine.execDot2b f m nc c s
  | .cvt f rnd sat fmt src => Sys2Proof.Machine.execCvt f rnd sat fmt src s
  | .qnt f fmt => Sys2Proof.Machine.execQnt f fmt s
  | .dqnt f fmt => Sys2Proof.Machine.execDqnt f fmt s
  | .iadd f => Sys2Proof.Machine.execIadd f s
  | .isub f => Sys2Proof.Machine.execIsub f s
  | .iaddx f op => Sys2Proof.Machine.execIaddx f op s
  | .imul f => Sys2Proof.Machine.execImul f s
  | .imulh f => Sys2Proof.Machine.execImulh f s
  | .umulh f => Sys2Proof.Machine.execUmulh f s
  | .imad f sat u => Sys2Proof.Machine.execImad f sat u s
  | .imad3 f sat u c => Sys2Proof.Machine.execImad3 f sat u c s
  | .imin f => Sys2Proof.Machine.execImin f s
  | .imax f => Sys2Proof.Machine.execImax f s
  | .umin f => Sys2Proof.Machine.execUmin f s
  | .umax f => Sys2Proof.Machine.execUmax f s
  | .iabs f => Sys2Proof.Machine.execIabs f s
  | .iadds f u => Sys2Proof.Machine.execIadds f u s
  | .isubs f u => Sys2Proof.Machine.execIsubs f u s
  | .icmp f cond => Sys2Proof.Machine.execIcmp f cond s
  | .ucmp f cond => Sys2Proof.Machine.execUcmp f cond s
  | .and f => Sys2Proof.Machine.execAnd f s
  | .or f => Sys2Proof.Machine.execOr f s
  | .xor f => Sys2Proof.Machine.execXor f s
  | .ltab f tab c => Sys2Proof.Machine.execLtab f tab c s
  | .shl f => Sys2Proof.Machine.execShl f s
  | .shr f => Sys2Proof.Machine.execShr f s
  | .sar f => Sys2Proof.Machine.execSar f s
  | .rot f => Sys2Proof.Machine.execRot f s
  | .bfe f sx => Sys2Proof.Machine.execBfe f sx s
  | .bfi f c => Sys2Proof.Machine.execBfi f c s
  | .popc f => Sys2Proof.Machine.execPopc f s
  | .clz f => Sys2Proof.Machine.execClz f s
  | .brev f => Sys2Proof.Machine.execBrev f s
  | .shfl f seg => Sys2Proof.Machine.execShfl f seg s
  | .shflx f seg => Sys2Proof.Machine.execShflx f seg s
  | .shflup f seg => Sys2Proof.Machine.execShflup f seg s
  | .shfldn f seg => Sys2Proof.Machine.execShfldn f seg s
  | .vote g op pa => Sys2Proof.Machine.execVote g op pa s
  | .rdlane f => Sys2Proof.Machine.execRdlane f s
  | .wrlane f => Sys2Proof.Machine.execWrlane f s
  | .red f seg op rnd => Sys2Proof.Machine.execRed f seg op rnd s
  | .scan f seg op rnd => Sys2Proof.Machine.execScan f seg op rnd s
  | .smov f => Sys2Proof.Machine.execSmov f s
  | .ssel f nc k => Sys2Proof.Machine.execSsel f nc k s
  | .klop f op => Sys2Proof.Machine.execKlop f op s
  | .sadd f => Sys2Proof.Machine.execSadd f s
  | .ssub f => Sys2Proof.Machine.execSsub f s
  | .smul f => Sys2Proof.Machine.execSmul f s
  | .smulh f u => Sys2Proof.Machine.execSmulh f u s
  | .smad f c => Sys2Proof.Machine.execSmad f c s
  | .smin f u => Sys2Proof.Machine.execSmin f u s
  | .smax f u => Sys2Proof.Machine.execSmax f u s
  | .scmp f cond => Sys2Proof.Machine.execScmp f cond s
  | .slea f sh => Sys2Proof.Machine.execSlea f sh s
  | .sand f => Sys2Proof.Machine.execSand f s
  | .sor f => Sys2Proof.Machine.execSor f s
  | .sxor f => Sys2Proof.Machine.execSxor f s
  | .sshl f => Sys2Proof.Machine.execSshl f s
  | .sshr f => Sys2Proof.Machine.execSshr f s
  | .ssar f => Sys2Proof.Machine.execSsar f s
  | .srot f => Sys2Proof.Machine.execSrot f s
  | .sbfe f sx => Sys2Proof.Machine.execSbfe f sx s
  | .sbfi f c => Sys2Proof.Machine.execSbfi f c s
  | .spopc f => Sys2Proof.Machine.execSpopc f s
  | .sclz f => Sys2Proof.Machine.execSclz f s
  | .sfadd f m => Sys2Proof.Machine.execSfadd f m s
  | .sfmul f m => Sys2Proof.Machine.execSfmul f m s
  | .sffma f m nc c => Sys2Proof.Machine.execSffma f m nc c s
  | .sfcmp f cond n => Sys2Proof.Machine.execSfcmp f cond n s
  | .scvt f rnd sat fmt src => Sys2Proof.Machine.execScvt f rnd sat fmt src s
  | .ld g d m la sz scope pol => Sys2Proof.Machine.execLd g d m la sz scope pol s
  | .st g d m sz scope pol => Sys2Proof.Machine.execSt g d m sz scope pol s
  | .sld g d base ofs la sz scope pol => Sys2Proof.Machine.execSld g d base ofs la sz scope pol s
  | .sst g d base ofs sz scope pol => Sys2Proof.Machine.execSst g d base ofs sz scope pol s
  | .ldp g d m la sz acq => Sys2Proof.Machine.execLdp g d m la sz acq s
  | .stp g d m sz rel => Sys2Proof.Machine.execStp g d m sz rel s
  | .pref g m lvl pol => Sys2Proof.Machine.execPref g m lvl pol s
  | .atom g op d m scope => Sys2Proof.Machine.execAtom g op d m scope s
  | .atomp g op d m => Sys2Proof.Machine.execAtomp g op d m s
  | .fenceAcq scope => Sys2Proof.Machine.execFenceAcq scope s
  | .fenceRel scope => Sys2Proof.Machine.execFenceRel scope s
  | .fenceAr scope => Sys2Proof.Machine.execFenceAr scope s
  | .tex g mode d x base ofs la pol => Sys2Proof.Machine.execTex g mode d x base ofs la pol s
  | .tld g d x base ofs la pol => Sys2Proof.Machine.execTld g d x base ofs la pol s
  | .tq g d x base ofs la pol => Sys2Proof.Machine.execTq g d x base ofs la pol s
  | .cpy base pol => Sys2Proof.Machine.execCpy base pol s
  | .cpyb base => Sys2Proof.Machine.execCpyb base s
  | .cpyw base => Sys2Proof.Machine.execCpyw base s
  | .qstat k d => Sys2Proof.Machine.execQstat k d s
  | .bari e base ofs => Sys2Proof.Machine.execBari e base ofs s
  | .bara c b base ofs => Sys2Proof.Machine.execBara c b base ofs s
  | .barw ph base ofs => Sys2Proof.Machine.execBarw ph base ofs s
  | .bart pd ph base ofs => Sys2Proof.Machine.execBart pd ph base ofs s
  | .mmaMac m x => Sys2Proof.Machine.execMmaMac m x s
  | .mmaZero m => Sys2Proof.Machine.execMmaZero m s
  | .mmaDrain m => Sys2Proof.Machine.execMmaDrain m s
  | .mldb m x => Sys2Proof.Machine.execMldb m x s
  | .mrel m => Sys2Proof.Machine.execMrel m s
  | .mwait id => Sys2Proof.Machine.execMwait id s
  | .mstat slot d => Sys2Proof.Machine.execMstat slot d s
  | .sendv g pd cap d => Sys2Proof.Machine.execSendv g pd cap d s
  | .mkcap d reg => Sys2Proof.Machine.execMkcap d reg s
  | .dropcap scalar => Sys2Proof.Machine.execDropcap scalar s
  | .arm reg => Sys2Proof.Machine.execArm reg s
  | .pemit g n d seq => Sys2Proof.Machine.execPemit g n d seq s
  | .segl g move d => Sys2Proof.Machine.execSegl g move d s
  | .segq g d => Sys2Proof.Machine.execSegq g d s
  | .segc g d => Sys2Proof.Machine.execSegc g d s
  | .pathend eo seq tgt => Sys2Proof.Machine.execPathend eo seq tgt s
  | .splat g n d seq => Sys2Proof.Machine.execSplat g n d seq s
  | .ordb => Sys2Proof.Machine.execOrdb s
  | .orde => Sys2Proof.Machine.execOrde s
  | .blnd g mode d tgt => Sys2Proof.Machine.execBlnd g mode d tgt s
  | .nop => Sys2Proof.Machine.execNop s
  | .bra cond sense ofs => Sys2Proof.Machine.execBra cond sense ofs s
  | .brp p sense ofs join => Sys2Proof.Machine.execBrp p sense ofs join s
  | .join => Sys2Proof.Machine.execJoin s
  | .jmpi s_ => Sys2Proof.Machine.execJmpi s_ s
  | .call ofs => Sys2Proof.Machine.execCall ofs s
  | .calli s_ => Sys2Proof.Machine.execCalli s_ s
  | .ret => Sys2Proof.Machine.execRet s
  | .exit => Sys2Proof.Machine.execExit s
  | .yield => Sys2Proof.Machine.execYield s
  | .sleep n => Sys2Proof.Machine.execSleep n s
  | .loop s_ cx => Sys2Proof.Machine.execLoop s_ cx s
  | .loopi c cx => Sys2Proof.Machine.execLoopi c cx s
  | .lbrk p sense => Sys2Proof.Machine.execLbrk p sense s
  | .regn live => Sys2Proof.Machine.execRegn live s
  | .claim n => Sys2Proof.Machine.execClaim n s
  | .release n => Sys2Proof.Machine.execRelease n s
  | .launch a d => Sys2Proof.Machine.execLaunch a d s
  | .tbfull form s_ idx => Sys2Proof.Machine.execTbfull form s_ idx s
  | .tbempty form s_ idx => Sys2Proof.Machine.execTbempty form s_ idx s
  | .trap code => Sys2Proof.Machine.execTrap code s
  | .sret skip => Sys2Proof.Machine.execSret skip s
  | .rdsr d idx => Sys2Proof.Machine.execRdsr d idx s
  | .wrsr s_ idx => Sys2Proof.Machine.execWrsr s_ idx s
  | .tlbi s_ => Sys2Proof.Machine.execTlbi s_ s
  | .tlbiAll => Sys2Proof.Machine.execTlbiAll s
  | .mapp d a t => Sys2Proof.Machine.execMapp d a t s
  | .cflush s_ => Sys2Proof.Machine.execCflush s_ s
  | .cflushL1 => Sys2Proof.Machine.execCflushL1 s
  | .cflushMem s_ => Sys2Proof.Machine.execCflushMem s_ s
  | .clauseFetch w x => Sys2Proof.Machine.execClauseFetch w x s
  | .headerWaitEnd w x => Sys2Proof.Machine.execHeaderWaitEnd w x s
  | .backEdge w x => Sys2Proof.Machine.execBackEdge w x s
  | .waveRetire w => Sys2Proof.Machine.execWaveRetire w s
  | .loadLanding w id lanes => Sys2Proof.Machine.execLoadLanding w id lanes s
  | .storeLeavesQueue w => Sys2Proof.Machine.execStoreLeavesQueue w s
  | .storeAck core ix => Sys2Proof.Machine.execStoreAck core ix s
  | .atomicPerform w id lanes => Sys2Proof.Machine.execAtomicPerform w id lanes s
  | .sendArrival w => Sys2Proof.Machine.execSendArrival w s
  | .sendOutcome w => Sys2Proof.Machine.execSendOutcome w s
  | .sleepTimeout w x => Sys2Proof.Machine.execSleepTimeout w x s
  | .copyJobStart core id => Sys2Proof.Machine.execCopyJobStart core id s
  | .copyLanding core id ofs len late => Sys2Proof.Machine.execCopyLanding core id ofs len late s
  | .copyJobComplete core id => Sys2Proof.Machine.execCopyJobComplete core id s
  | .matrixCommandStart core uid => Sys2Proof.Machine.execMatrixCommandStart core uid s
  | .matrixCommandRetire core uid => Sys2Proof.Machine.execMatrixCommandRetire core uid s
  | .matrixWatchdog core => Sys2Proof.Machine.execMatrixWatchdog core s
  | .sectionTimeout w => Sys2Proof.Machine.execSectionTimeout w s
  | .preemptRequest cl => Sys2Proof.Machine.execPreemptRequest cl s
  | .switchOutCapture w => Sys2Proof.Machine.execSwitchOutCapture w s
  | .clusterRestore cl => Sys2Proof.Machine.execClusterRestore cl s
  | .pageReply fn => Sys2Proof.Machine.execPageReply fn s
  | .pageMigration ctx page => Sys2Proof.Machine.execPageMigration ctx page s
  | .pinExpiry ctx page => Sys2Proof.Machine.execPinExpiry ctx page s
  | .pagePromotion ctx page => Sys2Proof.Machine.execPagePromotion ctx page s
  | .pageHash ctx page => Sys2Proof.Machine.execPageHash ctx page s
  | .daymarkMerge ctx page => Sys2Proof.Machine.execDaymarkMerge ctx page s
  | .taskDispatch t => Sys2Proof.Machine.execTaskDispatch t s
  | .lightPeriod => Sys2Proof.Machine.execLightPeriod s
  | .batchSend t die => Sys2Proof.Machine.execBatchSend t die s
  | .buoyReport die => Sys2Proof.Machine.execBuoyReport die s
  | .blockPlacement die ix => Sys2Proof.Machine.execBlockPlacement die ix s
  | .carveChangeStart die => Sys2Proof.Machine.execCarveChangeStart die s
  | .carveChange core => Sys2Proof.Machine.execCarveChange core s
  | .donationRequest die peer => Sys2Proof.Machine.execDonationRequest die peer s
  | .donationAnswer die peer => Sys2Proof.Machine.execDonationAnswer die peer s
  | .gangReport gang remote => Sys2Proof.Machine.execGangReport gang remote s
  | .gangStart gang => Sys2Proof.Machine.execGangStart gang s
  | .l2Resend ix => Sys2Proof.Machine.execL2Resend ix s
  | .taskEnd t => Sys2Proof.Machine.execTaskEnd t s
  | .pixelWaveLaunch t die core => Sys2Proof.Machine.execPixelWaveLaunch t die core s
  | .pathFill ix => Sys2Proof.Machine.execPathFill ix s
  | .blendCommit ix => Sys2Proof.Machine.execBlendCommit ix s
  | .lanternComposite ix tx ty => Sys2Proof.Machine.execLanternComposite ix tx ty s
  | .clearJob t j => Sys2Proof.Machine.execClearJob t j s
  | .splatJob t j => Sys2Proof.Machine.execSplatJob t j s
  | .copyClassJob t j => Sys2Proof.Machine.execCopyClassJob t j s
  | .encodeJob t j => Sys2Proof.Machine.execEncodeJob t j s
  | .hostLaunch f => Sys2Proof.Machine.execHostLaunch f s
  | .frame f => Sys2Proof.Machine.execFrame f s
  | .seal f => Sys2Proof.Machine.execSeal f s
  | .fork f => Sys2Proof.Machine.execFork f s
  | .migrate f => Sys2Proof.Machine.execMigrate f s
  | .snapshot f => Sys2Proof.Machine.execSnapshot f s
  | .snapshotHostCopy ix => Sys2Proof.Machine.execSnapshotHostCopy ix s
  | .restore f => Sys2Proof.Machine.execRestore f s
  | .s2inv f => Sys2Proof.Machine.execS2inv f s
  | .create f => Sys2Proof.Machine.execCreate f s
  | .destroy f => Sys2Proof.Machine.execDestroy f s
  | .grant f => Sys2Proof.Machine.execGrant f s
  | .pooladd f => Sys2Proof.Machine.execPooladd f s
  | .ringKeyRotation f secured ix => Sys2Proof.Machine.execRingKeyRotation f secured ix s
  | .getMeasurements f block => Sys2Proof.Machine.execGetMeasurements f block s
  | .challenge nonce => Sys2Proof.Machine.execChallenge nonce s
  | .lockInterfaceRequest f => Sys2Proof.Machine.execLockInterfaceRequest f s
  | .tdispUnlock f => Sys2Proof.Machine.execTdispUnlock f s
  | .tdispError f => Sys2Proof.Machine.execTdispError f s
  | .ideKm use key => Sys2Proof.Machine.execIdeKm use key s
  | .logKeyRequest ctx => Sys2Proof.Machine.execLogKeyRequest ctx s
  | .lamplighterWalk f => Sys2Proof.Machine.execLamplighterWalk f s
  | .tournSwitch => Sys2Proof.Machine.execTournSwitch s
  | .thermalTrip die => Sys2Proof.Machine.execThermalTrip die s
  | .tripClear die => Sys2Proof.Machine.execTripClear die s
  | .monitorEvent die k v => Sys2Proof.Machine.execMonitorEvent die k v s
  | .pwrreq v => Sys2Proof.Machine.execPwrreq v s
  | .tourn v => Sys2Proof.Machine.execTourn v s
  | .ttrip v => Sys2Proof.Machine.execTtrip v s
  | .cmdtail f v => Sys2Proof.Machine.execCmdtail f v s
  | .rpqtail f v => Sys2Proof.Machine.execRpqtail f v s
  | .prqhead f v => Sys2Proof.Machine.execPrqhead f v s
  | .registerWrite f ofs width v => Sys2Proof.Machine.execRegisterWrite f ofs width v s
  | .hostAccess pa data len => Sys2Proof.Machine.execHostAccess pa data len s
  | .flitSend link payload kind => Sys2Proof.Machine.execFlitSend link payload kind s
  | .flitReceive link fl => Sys2Proof.Machine.execFlitReceive link fl s
  | .nak link n => Sys2Proof.Machine.execNak link n s
  | .resendTimeout link => Sys2Proof.Machine.execResendTimeout link s
  | .ptpMessage link note => Sys2Proof.Machine.execPtpMessage link note s
  | .snapshotStep die => Sys2Proof.Machine.execSnapshotStep die s
  | .dieLost die => Sys2Proof.Machine.execDieLost die s
  | .coldReset => Sys2Proof.Machine.execColdReset s
  | .trep w v => Sys2Proof.Machine.execTrep w v s
  | .startInterfaceRequest f => Sys2Proof.Machine.execStartInterfaceRequest f s
  | .linkTraining link terms => Sys2Proof.Machine.execLinkTraining link terms s
  | .boostThrottle die mhz => Sys2Proof.Machine.execBoostThrottle die mhz s
  | .snapshotStepComplete die => Sys2Proof.Machine.execSnapshotStepComplete die s
  | .spdmSecuredSession both => Sys2Proof.Machine.execSpdmSecuredSession both s

end Sys2Proof.Machine
end

