-- ==== Sys2Proof/Machine/Turn.lean ====
section
/-! DEFINITION. Machine/Turn.lean: whose turn it is and what it does (R31, R32, R100 to R103, R116, R118): a slot's next
action, an event, the time that passes; and where a test word is placed. -/

namespace Sys2Proof.Machine

/-- The events that come about only in a slot's own turn. (DEDUCED: log 18) -/
def Instr.ofTurn : Instr → Bool
  | .clauseFetch _ _ | .headerWaitEnd _ _ | .backEdge _ _ | .sleepTimeout _ _ => true
  | _ => false

/-- dt ns of the timebase pass, and each die's clk counts with its clock (R23, R26). -/
def Die.passed (dt : Nat) (d : Die) : Die :=
  let n := d.frac + dt * d.mhz
  { d with clk := d.clk + n / 1000, frac := n % 1000 }
/-- (DESIGN CHOICE: log 2, 11) -/
def State.pass (s : State) (dt : Nat) : State := { s with time := s.time + dt, dies := meach s.dies (Die.passed dt) }
/-- The turn that comes: the next of the agenda, or, where none waits, any. (DESIGN CHOICE: log 1) -/
def State.nextTurn (s : State) : Turn × State :=
  match s.agenda with
  | t :: r => (t, ({ s with agenda := r } : State).pass t.dt)
  | [] => (Config.arbiter s.fresh, ({ s with fresh := s.fresh + 1 } : State).pass (Config.arbiter s.fresh).dt)

/-- A frame's first task issues its first instruction (R370). -/
def State.stampStart (s : State) (task : Nat) : State :=
  match (s.task? task).bind (·.frame) with
  | some f => s.modFrame f fun e =>
      if e.tstart.isNone ∧ e.tasks.head? = some task then { e with tstart := some s.time } else e
  | none => s
/-- An instruction of slot x of wave w is the one under issue; the wave's first is noted. -/
def State.atIssue (s : State) (w : Nat) (x : SlotId) (v : Wave) : State :=
  let s1 := if v.id.started then s else (s.setWave w { v with id := { v.id with started := true } }).stampStart v.id.task
  { s1 with cur := some (w, x) }
/-- The cause a word that is no instruction raises (R118): the checks come in their order. -/
def rejectCause (k : Kernel) (sup : Bool) (cl : Cls) (w : Word) (r : Reject) : Nat :=
  match r with
  | .operand need =>
    if (need = .matrix && !k.matrix) || (need = .ordered && !k.ordered) || (need = .mailbox && !k.mailboxes) then 0x01
    else if cl = .c && 0x21 ≤ (unpackV w).op.toNat && (unpackV w).op.toNat ≤ 0x25 && !sup then 0x12
    else 0x03
  | _ => 0x01
/-- The instruction of the slot under issue is held and does not issue now. -/
def State.onlyHeld (s : State) (w : Nat) (i : Instr) : Bool :=
  match exec i s with
  | .next t => match s.wave? w, t.wave? w, s.cur with
    | some v, some u, some (_, x) => (u.slot x).wait.isSome && u.ctl.issued = v.ctl.issued
    | _, _, _ => false
  | .fault _ => false
  | .refused _ => false
/-- The slot issues the word at its position (R100, R101, R116); a pending trap comes before an instruction that issues
(R73). -/
def State.issueWord (s : State) (w : Nat) (x : SlotId) (v : Wave) (cl : Cls) (word : Word) (ext : List Word) :
    Option Instr × State :=
  if v.windowShut x then (none, s.hold w x .lookahead)
  else match decode cl word ext, s.pendingTrap w x v with
    | .ok i, none => (some i, s.atIssue w x v)
    | .ok i, some s1 =>
      if (v.slot x).wait ≠ some .scoreboard && (s.atIssue w x v).onlyHeld w i then (some i, s.atIssue w x v) else (none, s1)
    | .error _, some s1 => (none, s1)
    | .error r, none => (none, s.trapC w x (rejectCause v.id.kern (v.slot x).sup cl word r))
/-- The slot has completed the last instruction of its clause (R65, R103, R136). -/
def State.clauseEnd (s : State) (w : Nat) (x : SlotId) (v : Wave) : Option Instr × State :=
  let p := v.slot x
  if p.cont = none ∧ v.atLoopEnd x then (some (.backEdge w x), s)
  else if p.cont = none ∧ v.outerLoopEnd x then (none, s.hold w x .frame)
  else if p.yieldDue then
    match s.listGate v with
    | .go => (none, s.endClause w x (p.cont.getD p.nextPc))
    | _ => (none, s.listHold w x)
  else (none, s.endClause w x (p.cont.getD p.nextPc))
/-- What a slot that may run does next. (DEDUCED: log 18) -/
def State.runSlot (s : State) (w : Nat) (x : SlotId) (v : Wave) : Option Instr × State :=
  let p := v.slot x
  match p.clause with
  | none => (some (.clauseFetch w x), s)
  | some c =>
    if c.waiting then (some (.headerWaitEnd w x), s)
    else match c.items[p.pos]? with
      | some (word, ext) => s.issueWord w x v (Cls.ofCode c.hdr.cls) word ext
      | none => s.clauseEnd w x v
/-- A waiter of the wave has no page request, and its die has a place for one again (R309, R311). -/
def State.seeksPlace (s : State) (v : Wave) : Bool :=
  let free := fun (page : Nat) => !s.requested v.id.ctx page
  let slot := fun (p : PcSlot) => decide (p.wait = some .page) && p.asked.elim true fun a => free a.1
  !s.crowded v.id.die && (s.liveCtx v.id.ctx).isSome
    && (slot v.ctl.a || slot v.ctl.b || (v.mem.miss.any fun m => free m.page) || v.trap.asked.elim false fun a => free a.1)
/-- A turn of slot x of wave w: the instruction or event that then has its meaning, if any, and the state before it. A
slot that cannot go on lets its turn pass (R32). -/
def State.slotTurn (s : State) (w : Nat) (x : SlotId) : Option Instr × State :=
  match s.wave? w with
  | none => (none, s)
  | some v =>
    let p := v.slot x
    if v.id.held ∨ s.frozen v ∨ !v.canRun x ∨ v.turnBlocked x then (none, if s.seeksPlace v then s.waveAgain w else s)
    else match p.wait with
      | some .sleep =>
        if p.deadline ≤ s.time then (some (.sleepTimeout w x), s)
        else (none, s)
      | some .claim => (none, s)
      | some .send => (none, s)
      | some .barw => (none, s)
      | some .page => (none, s)
      | _ => if p.firmware then (none, s.firmwareTurn w x v) else s.runSlot w x v
/-- What a turn does. (DESIGN CHOICE: log 1) -/
def State.doTurn (s : State) (a : Act) : Option Instr × State :=
  match a with
  | .slot w x => s.slotTurn w x
  | .event i => if i.cls.isNone && !Instr.ofTurn i then (some i, s) else (none, s)

/-! ### Where a test word is placed -/

/-- A kernel that declares every use and holds every register. -/
def testKernel : Kernel :=
  { matrix := true, ordered := true, mailboxes := true, vregs := 160, sregs := 128, pad := 64, loopDepth := 4 }
/-- A clause of one instruction at address 0: the first word and the extension words it requires.
(DESIGN CHOICE: log 1, 74) -/
def testClause (cl : Cls) (ws : List Word) : Clause :=
  let w := ws.headD 0
  let n := extCount cl w
  { hpc := 0
    hdr := { n := 1, cls := cl.code, xw := BitVec.ofNat 4 n, lw := 7, sw := 7, yd := false, pg := 0, ps := false, low := 0 },
    items := [(w, ws.tail.take n)], next := BitVec.ofNat 48 (8 + 4 * n), waiting := false }
/-- A wave in slot 0 of core 0 of die 0 whose slot A stands at a fetched clause. (DESIGN CHOICE: log 1) -/
def testWave (c : Clause) : Wave :=
  { id := { kern := testKernel },
    regs := { g := 20, h := 8 },
    ctl := { a := { phase := .run, mask := allLanes, clause := some c }, live := allLanes } }
/-- (DESIGN CHOICE: log 1) -/
def testBlock : Block :=
  { die := 0, core := 0, ctx := 0, task := 0, cluster := 0, rank := 0, cx := 0, cy := 0, cz := 0, waves := [0], padOfs := 0,
    padLen := 65536, padAll := 65536, valid := [], rings := [], vofs := 0, vlen := 0, carve := 0 }
/-- The state with the instruction whose bits are w placed: a fetched clause of a wave of context 0, whose turn comes
next. (DESIGN CHOICE: log 1, 74) -/
def State.placeWord (s : State) (nbits w : Nat) : State :=
  let cl := ((decodeTable nbits w).map (·.1)).getD .v
  let s1 := if (mget s.dies 0).isSome then s else s.setDie 0 {}
  let s2 := s1.setCtx 0 { fn := 0, home := 0, skey := 1, dkey := 0, dom := none, ekey := some 0 }
  { (s2.setBlock 0 testBlock).setWave 0 (testWave (testClause cl (tableWords nbits w))) with
    agenda := ⟨0, .slot 0 .A⟩ :: s.agenda }

end Sys2Proof.Machine
end

