-- ==== Sys2Proof/Machine/Step.lean ====
section
/-! DEFINITION. Machine/Step.lean: one step of the machine: one turn of one agent (R25, R31, R97). -/

namespace Sys2Proof.Machine

/-- One step: the next turn is taken off the agenda, and the instruction or event it comes to has its meaning. A turn
that comes to none leaves what the turn itself does: a clause that ends, a slot that waits, a trap before the
instruction. (DESIGN CHOICE: log 1) -/
def step (s : State) : Host.Outcome State Fault Refusal :=
  let n := s.nextTurn
  match n.2.doTurn n.1.act with
  | (some i, s1) => exec i s1
  | (none, s1) => .next s1

/-- The state in which the instruction of these bits is the next to run. (DESIGN CHOICE: log 1) -/
def State.withFetchWord (s : State) (nbits w : Nat) : State := s.placeWord nbits w

end Sys2Proof.Machine
end

