-- ==== Sys2Proof/Safety/Effects.lean ====
section
/-! DEFINITION. Safety/Effects.lean: the terms claims are made in: what stands before an instruction of a wave, and what
it changes, with everything else left as it was. -/

namespace Sys2Proof.Says
open Sys2Proof.Machine

/-! ### Before an instruction -/

/-- An instruction of slot x of wave w, whose state is v, is under issue. -/
structure Issues (s : State) (w : Nat) (x : SlotId) (v : Wave) : Prop where
  cur : s.cur = some (w, x)
  wave : s.wave? w = some v

/-- It is slot x's turn at an instruction: the next item of the agenda is that slot, which may run, its clause of class cl
stands at the word, with these extension words, and s1 is the state once the time of the turn has passed. -/
structure TurnAt (s : State) (w : Nat) (x : SlotId) (cl : Cls) (word : Word) (ext : List Word) (s1 : State) : Prop where
  due : ∃ dt rest, s.agenda = ⟨dt, .slot w x⟩ :: rest ∧ s1 = ({ s with agenda := rest } : State).pass dt
  wave : ∃ v c, s1.wave? w = some v ∧ (v.slot x).clause = some c ∧ Cls.ofCode c.hdr.cls = cl ∧ c.waiting = false ∧
    c.items[(v.slot x).pos]? = some (word, ext) ∧ v.id.held = false ∧ s1.frozen v = false ∧ v.canRun x = true ∧
    v.turnBlocked x = false ∧ (v.slot x).wait = none ∧ (v.slot x).firmware = false ∧ v.windowShut x = false ∧
    ((v.slot x).sup = true ∨ (v.trap.overwrite = none ∧ v.trap.watchdog = false))

/-- No lookahead window is shut (R116), and the region contract holds for the slot: its region-pending bit is clear, or
it runs in supervisor mode (R142). -/
structure Clear (v : Wave) (x : SlotId) : Prop where
  window : v.windowShut x = false
  region : (v.slot x).pend = true → (v.slot x).sup = true

/-- The mailbox registers an executing instruction reads and writes let it pass (R73, R74): none it reads is ARMED, or
FULL without a REGN since its ARM; none it writes is ARMED, or FULL unless the instruction also reads it. -/
structure MailFree (v : Wave) (reads writes : List Nat) : Prop where
  read : ∀ c ∈ reads, v.mbState c ≠ .armed ∧ (v.mbState c = .full → v.mbRegn c = true)
  write : ∀ c ∈ writes, v.mbState c ≠ .armed ∧ (v.mbState c = .full → c ∈ reads)

/-- The queues a V instruction uses are ready (R43, R162, R223, R231): a push finds room, a pop finds an entry, or the
producers of its ring are gone. -/
structure QueuesReady (s : State) (v : Wave) (op : VOp) : Prop where
  qa : op.pushes .qa = true → v.mat.qa.length < 4
  qg : op.pushes .qg = true → v.feed.qg.length < 15
  ql : op.pushes .ql = true → v.feed.ql.length < 15
  qz : op.pops .qz = true → v.mat.qz ≠ []
  qp : op.pops .qp = true → (s.ringHead v).isSome = true
  qn : op.pushes .qn = true → s.ringOpen v = true

/-- A V instruction may execute: its operands are registers the wave holds and codes allowed there (R49, R58, R60, R113),
a collective finds the other slot out of TRAP (R48), and, where a lane is active, its mailbox registers and queues are
ready. -/
structure VReady (s : State) (v : Wave) (x : SlotId) (op : VOp) : Prop where
  clear : Clear v x
  operands : v.vOperandsOk x op = true
  coll : op.coll = true → (v.slot x.other).phase ≠ .trap
  mail : v.active x op.g ≠ 0 → MailFree v (v.vReads x op) (v.vWrites x op)
  queues : v.active x op.g ≠ 0 → QueuesReady s v op

/-! ### What a V instruction changes -/

/-- Registers of a file after a write of r in the lanes act of register n, where there is one. -/
def Written (old new : Nat → Lanes) (n : Option Nat) (act : Mask) (r : Nat → Word) : Prop :=
  ∀ m t, t < 96 → laneAt (new m) t = if n = some m ∧ mbit act t = true then r t else laneAt (old m) t

/-- The main register, and the operand register, that a target names. -/
def mainOf (v : Wave) (x : SlotId) : VTgt → Option Nat
  | .reg (.v n) => some (v.phys x n)
  | _ => none
def operandOf : VTgt → Option Nat
  | .reg (.o n) => some n
  | _ => none
/-- Predicate i of a lane after a result r there. -/
def predAfter (tgt : VTgt) (i : Nat) (r : Word) (old : Bool) : Bool :=
  match tgt with
  | .pred p => if i = p.toNat then r ≠ 0 else old
  | .preds => if i < 32 then r.toNat.testBit i else old
  | .reg _ => old
/-- A queue after a push: one entry more, the results in the active lanes and 0 in the others, where a lane is active. -/
def Pushed (old new : List Lanes) (push : Bool) (act : Mask) (r : Nat → Word) : Prop :=
  if push = true ∧ act ≠ 0 then
    ∃ e, new = old ++ [e] ∧ ∀ t, t < 96 → laneAt e t = if mbit act t = true then r t else 0
  else new = old
/-- The value b0 takes in a lane: the destination as it stands after the instruction (R60). -/
def lastOf (v' : Wave) (x : SlotId) (op : VOp) (act : Mask) (r : Nat → Word) (v : Wave) (t : Nat) : Word :=
  match op.tgt with
  | .reg (.v n) => laneAt (v'.vreg (v.phys x n)) t
  | .reg (.o n) => laneAt (v'.oreg n) t
  | .reg _ => if mbit act t = true then r t else 0
  | .pred p => if mbit (v'.preg p.toNat) t = true then 1 else 0
  | .preds => v'.predWord t

/-- What a V instruction leaves in its wave: r holds each lane's result and flags. Everything a clause of this does not
name is as it was. -/
structure VWave (v v' : Wave) (x : SlotId) (op : VOp) (r : Nat → Res Word) : Prop where
  rest : v' = { v with regs := v'.regs, ctl := v'.ctl, mat := v'.mat, feed := v'.feed, mb := v'.mb }
  regs : v'.regs = { v.regs with v := v'.regs.v, o := v'.regs.o, p := v'.regs.p, flags := v'.regs.flags }
  ctl : v'.ctl = { v.ctl with a := v'.ctl.a, b := v'.ctl.b, issued := v'.ctl.issued, last := x }
  mat : v'.mat = { v.mat with qa := v'.mat.qa, qz := v'.mat.qz }
  feed : v'.feed = { v.feed with qg := v'.feed.qg, ql := v'.feed.ql }
  main : Written v.vreg v'.vreg (mainOf v x op.tgt) (v.active x op.g) fun t => (r t).val
  operand : Written v.oreg v'.oreg (operandOf op.tgt) (v.active x op.g) fun t => (r t).val
  preds : ∀ i t, t < 96 → mbit (v'.preg i) t =
    if mbit (v.active x op.g) t = true then predAfter op.tgt i (r t).val (mbit (v.preg i) t) else mbit (v.preg i) t
  flags : ∀ b, b < 6 → v'.regs.flags.getLsbD b =
    (v.regs.flags.getLsbD b || (List.range 96).any fun t => mbit (v.active x op.g) t && (r t).fl.getLsbD b)
  qa : Pushed v.mat.qa v'.mat.qa (op.pushes .qa) (v.active x op.g) fun t => (r t).val
  qg : Pushed v.feed.qg v'.feed.qg (op.pushes .qg) (v.active x op.g) fun t => (r t).val
  ql : Pushed v.feed.ql v'.feed.ql (op.pushes .ql) (v.active x op.g) fun t => (r t).val
  qz : v'.mat.qz = if op.pops .qz = true ∧ v.active x op.g ≠ 0 then v.mat.qz.tail else v.mat.qz
  mb : v'.mb = if v.active x op.g = 0 then v.mb
    else v.mb.filter fun e => !((v.vReads x op).contains e.1 && decide (e.2.st = .full))
  other : v'.slot x.other = v.slot x.other
  /-- The next instruction of the clause; b1 takes b0; a queue operation sets the region-pending bit in user mode (R60,
  R101, R142). -/
  slot : v'.slot x = { v.slot x with
    pos := (v.slot x).pos + 1, wait := none, only := none, asked := none, due := false, mark := none, counted := false,
    bar := none
    pend := (v.slot x).pend || (((v.slot x).due || (op.queues && decide (v.active x op.g ≠ 0))) && !(v.slot x).sup),
    b1 := (v.slot x).b0, b0 := (v'.slot x).b0, stale := (v'.slot x).stale }
  b0 : ∀ t, t < 96 → laneAt (v'.slot x).b0 t =
    lastOf v' x op (v.active x op.g) (fun t => (r t).val) v t

/-- The ring qp of a wave (R42). -/
def ringOf (s : State) (v : Wave) : List Lanes :=
  match mget s.blocks v.id.block with
  | some b => mgetD b.rings v.id.stage []
  | none => []
/-- The wave once a V instruction has popped qp: its end-of-stream flag is set where the ring had no entry (R43). -/
def popped (s : State) (v : Wave) (x : SlotId) (op : VOp) : Wave :=
  if op.pops .qp = true ∧ v.active x op.g ≠ 0 ∧ ringOf s v = [] then { v with regs := { v.regs with eos := true } } else v
/-- The rings of the wave's block after a V instruction (R42, R43): a pop takes the oldest entry of the wave's own ring; a
push appends the results to the next stage's, unless every wave of that stage has exited. -/
def ringsAfter (s : State) (v : Wave) (x : SlotId) (op : VOp) (r : Nat → Word) (b : Block) : Map (List Lanes) :=
  let a := if op.pops .qp = true ∧ v.active x op.g ≠ 0 then
      match mgetD b.rings v.id.stage [] with
      | _ :: l => mput b.rings v.id.stage l
      | [] => b.rings
    else b.rings
  if op.pushes .qn = true ∧ v.active x op.g ≠ 0 ∧ s.stageGone b (v.id.stage + 1) = false then
    mput a (v.id.stage + 1) (mgetD a (v.id.stage + 1) [] ++ [pushEntry (v.active x op.g) r])
  else a

/-- The state after a V instruction: wave w as VWave says, every other wave as it was, and nothing else changed but, where
the instruction pops qp or pushes qn, the rings of the wave's block. -/
structure VStep (s t : State) (w : Nat) (x : SlotId) (v : Wave) (op : VOp) (r : Nat → Res Word) : Prop where
  rest : t = { s with waves := t.waves, blocks := t.blocks }
  others : ∀ u, u ≠ w → t.wave? u = s.wave? u
  blocks : ∀ k, mget t.blocks k =
    if k = v.id.block then (mget s.blocks k).map fun b => { b with rings := ringsAfter s v x op (fun t => (r t).val) b }
    else mget s.blocks k
  wave : ∃ v', t.wave? w = some v' ∧ VWave (popped s v x op) v' x op r

/-- A V instruction completes wherever it may execute, and does what VStep says: f gives each lane's result from the
lanes of its sources. -/
def VRuns (i : Instr) (op : VOp) (f : List Lanes → Nat → Res Word) : Prop :=
  ∀ s w x v, Issues s w x v → VReady s v x op →
    ∃ t, exec i s = .next t ∧ VStep s t w x v op (f (op.srcs.map (s.readV v x)))
/-- The same with the wave as a further input of the result. -/
def VRunsW (i : Instr) (op : VOp) (f : State → Wave → SlotId → List Lanes → Nat → Res Word) : Prop :=
  ∀ s w x v, Issues s w x v → VReady s v x op →
    ∃ t, exec i s = .next t ∧ VStep s t w x v op (f s v x (op.srcs.map (s.readV v x)))

/-- One and two sources and a destination; a third source; a predicate as destination. -/
def op1 (i : V1) : VOp := { g := i.g, srcs := [i.a], tgt := .reg i.d }
def op2 (i : V2) : VOp := { g := i.g, srcs := [i.a, i.b], tgt := .reg i.d }
def op3 (i : V2) (c : VSrc) : VOp := { g := i.g, srcs := [i.a, i.b, c], tgt := .reg i.d }
def opD (i : V2) : VOp := { g := i.g, srcs := [i.a, i.b, i.d.asSrc], tgt := .reg i.d, readsD := true }
def opP (i : P2) : VOp := { g := i.g, srcs := [i.a, i.b], tgt := .pred i.pd }
def Lane1 (i : V1 → Instr) (f : Word → Res Word) : Prop :=
  ∀ j, VRuns (i j) (op1 j) fun l t => f (srcAt l 0 t)
def Lane2 (i : V2 → Instr) (f : Word → Word → Res Word) : Prop :=
  ∀ j, VRuns (i j) (op2 j) fun l t => f (srcAt l 0 t) (srcAt l 1 t)
def Lane3 (i : V2 → VSrc → Instr) (f : Word → Word → Word → Res Word) : Prop :=
  ∀ j c, VRuns (i j c) (op3 j c) fun l t => f (srcAt l 0 t) (srcAt l 1 t) (srcAt l 2 t)
/-- The third operand is the destination as it stands (R161). -/
def LaneD (i : V2 → Instr) (f : Word → Word → Word → Res Word) : Prop :=
  ∀ j, VRuns (i j) (opD j) fun l t => f (srcAt l 0 t) (srcAt l 1 t) (srcAt l 2 t)
def LaneP (i : P2 → Instr) (f : Word → Word → Res Bool) : Prop :=
  ∀ j, VRuns (i j) (opP j) fun l t =>
    let r := f (srcAt l 0 t) (srcAt l 1 t)
    ⟨if r.val then 1 else 0, r.fl⟩

/-! ### U instructions -/

/-- A U instruction may execute: its operands are registers the wave holds (R58), and, where its guard lets it execute,
its mailbox registers are ready (R73, R74). -/
structure UReady (v : Wave) (x : SlotId) (g : Bool) (d : UDst) (srcs : List USrc) : Prop where
  clear : Clear v x
  operands : (srcs.all v.uSrcOk && v.uDstOk d) = true
  mail : v.uActive x g = true → MailFree v (uReads srcs) (uWrites d)

/-- The slot after an instruction has completed: its next position, with b0 and b1 as they were. -/
def Stepped (p p' : PcSlot) : Prop :=
  p' = { p with pos := p.pos + 1, wait := none, only := none, asked := none, due := false, mark := none, counted := false,
                stale := none, bar := none, pend := p.pend || (p.due && !p.sup) }

/-- What a U instruction leaves in its wave: where its guard lets it execute (R104), the result in its destination and
its flags; everything a clause does not name is as it was. -/
structure UWave (v v' : Wave) (x : SlotId) (g : Bool) (d : UDst) (srcs : List USrc) (r : Res DWord) : Prop where
  rest : v' = { v with regs := v'.regs, ctl := v'.ctl, mb := v'.mb }
  regs : v'.regs = { v.regs with s := v'.regs.s, k := v'.regs.k, flags := v'.regs.flags }
  ctl : v'.ctl = { v.ctl with a := v'.ctl.a, b := v'.ctl.b, issued := v'.ctl.issued, last := x }
  scalar : ∀ m, v'.sreg m = match d with
    | .s n => if v.uActive x g = true ∧ m = n.toNat then r.val else v.sreg m
    | .k _ => v.sreg m
  cond : ∀ i, i < 8 → v'.kreg i = match d with
    | .k n => if v.uActive x g = true ∧ i = n.toNat then decide (r.val ≠ 0) else v.kreg i
    | .s _ => v.kreg i
  flags : v'.regs.flags = if v.uActive x g = true then v.regs.flags ||| r.fl else v.regs.flags
  mb : v'.mb = if v.uActive x g = true then v.mb.filter fun e => !((uReads srcs).contains e.1 && decide (e.2.st = .full))
    else v.mb
  other : v'.slot x.other = v.slot x.other
  slot : Stepped (v.slot x) (v'.slot x)

/-- The state in which only wave w has changed, to one that P describes. -/
def OnlyWave (s t : State) (w : Nat) (P : Wave → Prop) : Prop :=
  t = { s with waves := t.waves } ∧ (∀ u, u ≠ w → t.wave? u = s.wave? u) ∧ ∃ v', t.wave? w = some v' ∧ P v'

/-- A U instruction completes wherever it may execute: f gives its result from its sources' values. -/
def URuns (i : Instr) (g : Bool) (d : UDst) (srcs : List USrc) (f : List DWord → Res DWord) : Prop :=
  ∀ s w x v, Issues s w x v → UReady v x g d srcs →
    ∃ t, exec i s = .next t ∧ OnlyWave s t w fun v' => UWave v v' x g d srcs (f (srcs.map (s.readU v)))
def Scal1 (i : U1 → Instr) (f : DWord → Res DWord) : Prop := ∀ j, URuns (i j) j.g j.d [j.a] fun l => f (uAt l 0)
def Scal2 (i : U2 → Instr) (f : DWord → DWord → Res DWord) : Prop :=
  ∀ j, URuns (i j) j.g j.d [j.a, j.b] fun l => f (uAt l 0) (uAt l 1)
def Scal3 (i : U2 → USrc → Instr) (f : DWord → DWord → DWord → Res DWord) : Prop :=
  ∀ j c, URuns (i j c) j.g j.d [j.a, j.b, c] fun l => f (uAt l 0) (uAt l 1) (uAt l 2)

/-! ### Results -/

/-- The Boolean operations of R156, by their code. -/
def booleanOp (op : BitVec 3) (a b : Bool) : Bool :=
  [a && b, a || b, a ^^ b, a && !b, a || !b, !(a ^^ b), !(a && b), !(a || b)].getD op.toNat false
/-- The comparisons of R178, by their code. -/
def compared (cond : Fin 6) (a b : Int) : Bool :=
  [decide (a = b), decide (a ≠ b), decide (a < b), decide (a ≤ b), decide (b < a), decide (b ≤ a)].getD cond false
/-- An exact result modulo 2^32, or clamped to the range of a signedness, with SA where the clamp changes it (R176). -/
def ranged (sat signed : Bool) (y : Int) : Res Word :=
  let lo : Int := if signed = true then -2147483648 else 0
  let hi : Int := if signed = true then 2147483647 else 4294967295
  if sat = true then ⟨BitVec.ofInt 32 (max lo (min hi y)), if y < lo ∨ hi < y then flSA else 0⟩ else ⟨BitVec.ofInt 32 y, 0⟩
/-- The exact sum of an IADDX, by its form (R177). -/
def carrySum (op : BitVec 2) (a b : Word) (p : Bool) : Nat :=
  [a.toNat + b.toNat + p.toNat, a.toNat + b.toNat, a.toNat + (2 ^ 32 - 1 - b.toNat) + p.toNat,
    a.toNat + (2 ^ 32 - 1 - b.toNat) + 1].getD op.toNat 0
/-- The width of the field a BFE or BFI operand gives (R181). -/
def fieldWidth (b : Word) : Nat := min (b.toNat / 256 % 64) (32 - b.toNat % 32)
/-- The values SREAD selects (R166). -/
def selected (s : State) (v : Wave) (act : Mask) : Sel → Word
  | .flags => v.regs.flags.setWidth 32
  | .flagsc => v.regs.flags.setWidth 32
  | .sendst => v.regs.sendst.setWidth 32
  | .act n => act.extractLsb' (32 * n.val) 32
  | .special n => (s.special v n).setWidth 32
  | .timehi => BitVec.ofNat 32 (s.time / 2 ^ 32)

/-- A numeric result as a lane's word. -/
def lane (r : Res Nat) : Res Word := ⟨BitVec.ofNat 32 r.val, r.fl⟩
/-- The first and the second operand of a float instruction under their modifiers, as numbers of a format (R164). -/
def aOf (f : FFmt) (m : NMod) (a : Nat) : Machine.Num := f.read (fmodif f m.absa m.na a)
def bOf (f : FFmt) (m : NMod) (b : Nat) : Machine.Num := f.read (fmodif f m.absb m.nb b)
/-- A fused product and sum, rounded once (R164, R168). -/
def fused (f : FFmt) (m : FMod) (nc : Bool) (a b c : Nat) : Res Nat :=
  fout f (Rnd.of m.rnd) m.sat (dotNum [(aOf f m.n a, bOf f m.n b)] (f.read (fmodif f false nc c)) (Rnd.of m.rnd))
/-- The 16-bit and the 8-bit elements of a lane (R82). -/
def half (w : Word) (i : Nat) : Nat := (w.extractLsb' (16 * i) 16).toNat
def quarter (w : Word) (i : Nat) : BitVec 8 := w.extractLsb' (8 * i) 8
/-- Two elements computed apart, the flags of both raised (R171). -/
def both (op : Nat → Res Nat) : Res Word :=
  ⟨BitVec.ofNat 16 (op 1).val ++ BitVec.ofNat 16 (op 0).val, (op 0).fl ||| (op 1).fl⟩
def pairs (op : Nat → Nat → Res Nat) (a b : Word) : Res Word := both fun i => op (half a i) (half b i)
/-- Two products of 16-bit elements and an FP32 addend, summed exactly and rounded once (R172). -/
def twoProducts (e : FFmt) (m : FMod) (nc : Bool) (a b c : Word) : Res Nat :=
  fout f32 (Rnd.of m.rnd) m.sat (dotNum
    [(aOf e m.n (half a 0), bOf e m.n (half b 0)), (aOf e m.n (half a 1), bOf e m.n (half b 1))]
    (f32.read (fmodif f32 false nc c.toNat)) (Rnd.of m.rnd))
/-- Magnitude bits of an SE format (R84). -/
def magnitudeBits : SeFmt → Nat
  | .se8 => 7 | .se5 => 4 | .se3 => 2
/-- The block QNT makes of the 48 lanes from base (R174): an inactive lane contributes +0, and a block without an active
lane raises nothing, for no lane of it is active. -/
def blockOf (m : Nat) (act : Mask) (a : Nat → Word) (base : Nat) : QBlock :=
  qntBlock ((List.range 48).map fun i => f32.read (if mbit act (base + i) = true then (a (base + i)).toNat else 0)) m
/-- Segment sizes (R182). -/
def segmentOf (n : Fin 9) : Nat := [96, 48, 32, 24, 16, 12, 8, 4, 2].getD n 96
/-- A lane of the mask has the property. -/
def someLane (act : Mask) (p : Nat → Bool) : Bool := (List.range 96).any fun t => mbit act t && p t
/-- The instruction waits while the other slot is in TRAP (R48, R187). -/
def collected (op : VOp) : VOp := { op with coll := true }
/-- A lane's word in the lowest active lane; 0 where no lane is active. -/
def firstOf (v : Wave) (x : SlotId) (g : Bool) (l : Lanes) : Word :=
  match lowest (v.active x g) with
  | some t => laneAt l t
  | none => 0
/-- The lane number of RDLANE and WRLANE (R184). -/
def namedBy (s : State) (v : Wave) (x : SlotId) (j : V2) : Word := firstOf v x j.g (s.readV v x j.b)
/-- One combination of RED and SCAN (R186). -/
def combine (op : Fin 11) (rnd : BitVec 2) (acc x : Word) : Res Word :=
  if op = 0 then ⟨acc + x, 0⟩
  else if op = 1 then ⟨BitVec.ofInt 32 (min acc.toInt x.toInt), 0⟩
  else if op = 2 then ⟨BitVec.ofInt 32 (max acc.toInt x.toInt), 0⟩
  else if op = 3 then ⟨BitVec.ofNat 32 (min acc.toNat x.toNat), 0⟩
  else if op = 4 then ⟨BitVec.ofNat 32 (max acc.toNat x.toNat), 0⟩
  else if op = 5 then ⟨acc &&& x, 0⟩
  else if op = 6 then ⟨acc ||| x, 0⟩
  else if op = 7 then ⟨acc ^^^ x, 0⟩
  else if op = 8 then
    lane (fout f32 (Rnd.of rnd) false (addNum (f32.read acc.toNat) (f32.read x.toNat) (Rnd.of rnd)))
  else if op = 9 then lane (fminmax f32 false acc.toNat x.toNat)
  else lane (fminmax f32 true acc.toNat x.toNat)
/-- The combination of a list of words in order (R186): a NaN that starts a float combination is made quiet. -/
def combined (op : Fin 11) (rnd : BitVec 2) : List Word → Res Word
  | [] => ⟨0, 0⟩
  | a :: l =>
    let x := f32.read a.toNat
    let start : Res Word :=
      if 8 ≤ op.val ∧ x.isNan = true then ⟨0x7FC00000, if x.isSig = true then flNV else 0⟩ else ⟨a, 0⟩
    l.foldl (fun acc x => let r := combine op rnd acc.val x; ⟨r.val, acc.fl ||| r.fl⟩) start

/-- A truth value as a U result. -/
def truth (b : Bool) : Res DWord := ⟨if b = true then 1 else 0, 0⟩
/-- The ten conditions of SCMP, by their code (R156). -/
def scalarCompared (cond : Fin 10) (a b : DWord) : Bool :=
  [decide (a = b), decide (a ≠ b), decide (a.toInt < b.toInt), decide (a.toInt ≤ b.toInt), decide (b.toInt < a.toInt),
    decide (b.toInt ≤ a.toInt), decide (a.toNat < b.toNat), decide (a.toNat ≤ b.toNat), decide (b.toNat < a.toNat),
    decide (b.toNat ≤ a.toNat)].getD cond false
/-- The width of the field an SBFE or SBFI operand gives (R157). -/
def scalarWidth (b : DWord) : Nat := min (b.toNat / 256 % 128) (64 - b.toNat % 64)
/-- The FP32 value in a U source (R158), and an FP32 result there. -/
def low (a : DWord) : Nat := (a.setWidth 32).toNat
def scalar (r : Res Nat) : Res DWord := ⟨BitVec.ofNat 64 r.val, r.fl⟩

/-! ### M instructions -/

/-- An M instruction may execute: its operands are registers the wave holds and codes allowed there, and, where a lane is
active, its mailbox registers are ready (R58, R73, R74, R110, R192): as its result lands later, its destination is LOCAL,
even where the instruction reads it. -/
structure MReady (v : Wave) (x : SlotId) (g operands : Bool) (reads writes : List Nat) : Prop where
  clear : Clear v x
  operands : operands = true
  mail : v.active x g ≠ 0 → MailFree v reads writes ∧ ∀ c ∈ writes, v.mbState c = .local_

/-- Mailbox values read by an executing instruction are gone (R73). -/
def consumed (v : Wave) (reads : List Nat) : Map Mailbox :=
  v.mb.filter fun e => !(reads.contains e.1 && decide (e.2.st = .full))
/-- The slot is past an instruction that set its region-pending bit in user mode where due says so (R101, R142). -/
def SteppedDue (p p' : PcSlot) (due : Bool) : Prop :=
  p' = { p with pos := p.pos + 1, wait := none, only := none, asked := none, due := false, mark := none, counted := false,
                stale := none, bar := none, pend := p.pend || ((p.due || due) && !p.sup) }
/-- What leaving an instruction changes in a wave's control state: the slot moves past it, the issue is counted. -/
structure Past (v v' : Wave) (x : SlotId) (due : Bool) : Prop where
  ctl : v'.ctl = { v.ctl with a := v'.ctl.a, b := v'.ctl.b, issued := v'.ctl.issued, last := x }
  other : v'.slot x.other = v.slot x.other
  slot : SteppedDue (v.slot x) (v'.slot x) due
/-- The instruction of a slot that had issued before is over, whoever's turn it is (R31). -/
structure Done (v v' : Wave) (x : SlotId) : Prop where
  ctl : v'.ctl = { v.ctl with a := v'.ctl.a, b := v'.ctl.b, issued := v'.ctl.issued, last := v'.ctl.last }
  other : v'.slot x.other = v.slot x.other
  slot : SteppedDue (v.slot x) (v'.slot x) false
/-- An instruction with no active lane only passes (R104). -/
structure Passed (v v' : Wave) (x : SlotId) : Prop where
  rest : v' = { v with ctl := v'.ctl }
  past : Past v v' x false

/-- What address checks touch: translations held, what the memory manager notes, a copied page, and nothing else. -/
def Aside (s t : State) : Prop :=
  t = { s with fresh := t.fresh, mem := t.mem, dies := t.dies, ctxs := t.ctxs, vm := t.vm }
/-- The checks on an instruction's lanes, in ascending order (R190, R193, R239 to R241). -/
def reached (s : State) (v : Wave) (x : SlotId) (how : Reach) (n : Nat) (addrs : List (Nat × DWord)) : Served × State :=
  s.chkLanes v (v.who x) how n addrs .none
/-- The accesses are those of the lanes, at their addresses, each of n bytes. -/
def AccessesAre (accs : List LaneAcc) (addrs : List (Nat × DWord)) (n : Nat) : Prop :=
  accs.map (fun a => (a.lane, a.va)) = addrs ∧ ∀ a ∈ accs, a.keys.length = n

/-- A load as its statement describes it. -/
structure LoadUse where
  operands : Bool
  reads : List Nat
  writes : List Nat
  room : Bool
  op : LoadOp
  how : Reach
  bytes : Nat
  addrs : List (Nat × DWord)
/-- What issuing a load leaves in its wave: the load in flight for the active lanes, one more outstanding load, the slot
past the instruction (R191, R196). -/
structure LoadIssued (v v' : Wave) (x : SlotId) (act : Mask) (u : LoadUse) (accs : List LaneAcc) : Prop where
  rest : v' = { v with ctl := v'.ctl, mem := v'.mem, mb := consumed v u.reads }
  past : Past v v' x false
  mem : v'.mem = { v.mem with
    nLd := v.mem.nLd + 1, nextId := v.mem.nextId + 1
    loads := v.mem.loads ++ [
      { id := v.mem.nextId, kind := u.op.kind, regs := u.op.regs, isO := u.op.isO, lanes := act,
        todo := maskOf fun t => decide (t ∈ u.addrs.map Prod.fst), accs := accs, la := u.op.la.toNat,
        at_ := v'.ctl.issued, acq := u.op.acq, pol := u.op.pol, args := u.op.args, got := [], desc := u.op.desc,
        index := u.op.index }] }
/-- A load issues wherever it may execute, there is room in its counter, and its lanes pass their checks: it changes no
memory, no register and no lane; it completes without an active lane as well. -/
def Loads (i : Instr) (g : Bool) (k : State → Wave → SlotId → LoadUse) : Prop :=
  ∀ s w x v, Issues s w x v → let u := k s v x
    MReady v x g u.operands u.reads u.writes →
    (v.active x g = 0 → ∃ t, exec i s = .next t ∧ OnlyWave s t w fun v' => Passed v v' x) ∧
    (v.active x g ≠ 0 → u.room = true → let r := reached s v x u.how u.bytes u.addrs
      r.1.whole = true → ∃ t, exec i s = .next t ∧ Aside s r.2 ∧ (∀ k, memByte t.mem k = memByte s.mem k) ∧
        AccessesAre r.1.ok u.addrs u.bytes ∧ OnlyWave r.2 t w fun v' => LoadIssued v v' x (v.active x g) u r.1.ok)

/-- No page of the context is a shared frame to be copied before a write (R322). -/
def Unshared (s : State) (ctx : Nat) : Prop := ∀ ia e lvl pa, s.s2leaf ctx ia = .leaf e lvl pa → eBit e 9 = false

/-- A store as its statement describes it. -/
structure StoreUse where
  operands : Bool
  reads : List Nat
  /-- The counters have room, and what the store waits for has come. -/
  room : Bool
  pad : Bool
  bytes : Nat
  /-- No later read of the pad passes it: an STP at block scope (R251). -/
  acq : Bool := false
  addrs : List (Nat × DWord)
  data : Nat → Bytes
/-- What issuing a store leaves in its wave: one entry behind the others in its queue, that holds each lane's bytes at
the keys of its access, in single accesses of at most 8 bytes, and the counters raised (R191, R194, R195, R197, R253). -/
structure StoreIssued (v v' : Wave) (w : Nat) (x : SlotId) (u : StoreUse) (accs : List LaneAcc) (due : Bool) : Prop where
  rest : v' = { v with ctl := v'.ctl, mem := v'.mem, mb := consumed v u.reads }
  past : Past v v' x due
  mem : v'.mem = { v.mem with
    nextId := v.mem.nextId + 1, nSt := v.mem.nSt + 1, nUa := v.mem.nUa + if u.pad = true then 0 else 1
    queue := v.mem.queue ++ [
      { wave := w, ctx := v.id.ctx, group := v.mem.nextId, pad := u.pad, silent := false, lines := accLines accs,
        kind := .write (accs.flatMap fun a => a.keys.zip (u.data a.lane)), unit := min 8 u.bytes, acq := u.acq }] }
/-- A store issues wherever it may execute, its counters have room and its lanes pass their checks: it joins the wave's
store queue, and no byte of memory changes but where a shared page is copied for it. -/
def Stores (i : Instr) (g : Bool) (k : State → Wave → SlotId → StoreUse) : Prop :=
  ∀ s w x v, Issues s w x v → let u := k s v x
    MReady v x g u.operands u.reads [] →
    (v.active x g = 0 → ∃ t, exec i s = .next t ∧ OnlyWave s t w fun v' => Passed v v' x) ∧
    (v.active x g ≠ 0 → u.room = true →
      let r := reached s v x (if u.pad = true then .pad true else .memory .wr true) u.bytes u.addrs
      r.1.whole = true → ∃ t, exec i s = .next t ∧ Aside s r.2 ∧
        (u.pad = true ∨ Unshared s v.id.ctx → ∀ k, memByte t.mem k = memByte s.mem k) ∧
        AccessesAre r.1.ok u.addrs u.bytes ∧
        OnlyWave r.2 t w fun v' => StoreIssued v v' w x u r.1.ok (!u.pad && r.2.anyWindow v.id.ctx r.1.ok))

/-- An atomic as its statement describes it: the load it is where it returns the old value, and each lane's operand. -/
structure AtomUse where
  operands : Bool
  reads : List Nat
  writes : List Nat
  room : Bool
  pad : Bool
  op : Nat
  vault : Bool
  addrs : List (Nat × DWord)
  operand : Nat → Nat
  ret : Option LoadOp
/-- What issuing an atomic leaves in its wave: one entry in its queue with each lane's operand, its counters raised, and
the load in flight where it returns a value; the instruction counts as done for its region (R142, R191, R199). -/
structure AtomIssued (v v' : Wave) (w : Nat) (x : SlotId) (u : AtomUse) (accs : List LaneAcc) : Prop where
  rest : v' = { v with ctl := v'.ctl, mem := v'.mem, mb := consumed v u.reads }
  past : Past v v' x true
  mem : v'.mem = { v.mem with
    nextId := v.mem.nextId + 1, nSt := v.mem.nSt + if u.ret.isSome = true then 0 else 1
    nLd := v.mem.nLd + if u.ret.isSome = true then 1 else 0, nUa := v.mem.nUa + if u.pad = true then 0 else 1
    loads := v.mem.loads ++ (u.ret.map fun o =>
      ({ id := v.mem.nextId, kind := o.kind, regs := o.regs, isO := o.isO,
         lanes := maskOf fun t => decide (t ∈ u.addrs.map Prod.fst),
         todo := maskOf fun t => decide (t ∈ u.addrs.map Prod.fst), accs := accs, la := o.la.toNat,
         at_ := v'.ctl.issued, acq := o.acq, pol := o.pol, args := o.args, got := [], desc := o.desc,
         index := o.index } : Load)).toList
    queue := v.mem.queue ++ [
      { wave := w, ctx := v.id.ctx, group := v.mem.nextId, pad := u.pad, silent := u.ret.isSome, lines := accLines accs,
        kind := .atomic u.op (accs.map fun a => (a, u.operand a.lane)) }] }
/-- An atomic issues wherever it may execute, its counters have room and its lanes pass their checks. -/
def Atoms (i : Instr) (g : Bool) (k : State → Wave → SlotId → AtomUse) : Prop :=
  ∀ s w x v, Issues s w x v → let u := k s v x
    MReady v x g u.operands u.reads u.writes →
    (v.active x g = 0 → ∃ t, exec i s = .next t ∧ OnlyWave s t w fun v' => Passed v v' x) ∧
    (v.active x g ≠ 0 → u.room = true →
      let r := reached s v x (if u.pad = true then .pad true else .atomic u.vault) (atomBytes u.op) u.addrs
      let ok := (r.1.atScope u.vault).ok
      r.1.whole = true → ∃ t, exec i s = .next t ∧ Aside s r.2 ∧
        (u.pad = true ∨ Unshared s v.id.ctx → ∀ k, memByte t.mem k = memByte s.mem k) ∧
        AccessesAre ok u.addrs (atomBytes u.op) ∧ OnlyWave r.2 t w fun v' => AtomIssued v v' w x u ok)

/-- What reads of memory on the way touch besides: lines an L1 holds. -/
def Reading (s t : State) : Prop :=
  t = { s with fresh := t.fresh, mem := t.mem, dies := t.dies, ctxs := t.ctxs, vm := t.vm, cores := t.cores }
/-- A texture instruction as its statement describes it. -/
structure TexUse where
  kind : LoadKind
  d : Nat
  base : BitVec 7
  ofs : BitVec 16
  la : BitVec 4
  pol : Nat
  /-- Names of the coordinate registers. -/
  xs : List Nat
  /-- The lanes the load keeps, from the descriptor and a free number. -/
  args : Tex → Nat → List Lanes
/-- A texture instruction issues wherever it may execute, its counter has room, no acquire of the wave is under way, its
descriptor is read (no older atomic is still to write it) and legal, and its texels pass their checks: it is in flight as
a load with the descriptor's bytes, and no byte of memory changes. -/
def Textures (i : Instr) (g : Bool) (k : Wave → SlotId → TexUse) : Prop :=
  ∀ s w x v, Issues s w x v → let u := k v x
    let reads := regS u.base.toNat :: u.xs.map fun n => regV (v.phys x n)
    let act := v.active x g
    MReady v x g (v.sHeld u.base.toNat && decide (u.d % 4 = 0) && v.groupOk x u.d 4 &&
      u.xs.all fun n => decide (n < 160) && v.vHeld (v.phys x n)) reads ((v.groupRegs x u.d 4).map regV) →
    (act = 0 → ∃ t, exec i s = .next t ∧ OnlyWave s t w fun v' => Passed v v' x) ∧
    (act ≠ 0 → v.mem.nLd < 63 → v.noAcquire = true →
      let c := s.access (v.who x) .rd false ((lowest act).getD 0) (v.sreg u.base.toNat + u.ofs.signExtend 64) 64
      ∀ a, c.1 = .ok a → c.2.atomicAhead v v.mem.nextId a.keys = false →
      let b := c.2.loadBytes v.core v.mem.queue a true true
      texLegal b.1 = true →
      let q := { b.2 with fresh := b.2.fresh + 1 }
      let args := u.args (Tex.ofBytes b.1) b.2.fresh
      let r := q.texLanes v (v.who x) u.kind b.1 args (lanesOf act) [] .none
      r.1.1.whole = true → ∃ t, exec i s = .next t ∧ Reading s r.2 ∧ (∀ k, memByte t.mem k = memByte s.mem k) ∧
        OnlyWave r.2 t w fun v' =>
          v' = { v with ctl := v'.ctl, mem := v'.mem, mb := consumed v reads } ∧ Past v v' x false ∧
          v'.mem = { v.mem with
            nLd := v.mem.nLd + 1, nextId := v.mem.nextId + 1
            loads := v.mem.loads ++ [
              { id := v.mem.nextId, kind := u.kind, regs := v.groupRegs x u.d 4, isO := false, lanes := act, todo := act,
                accs := r.1.1.ok, la := u.la.toNat, at_ := v'.ctl.issued, acq := 0, pol := u.pol, args := args, got := [],
                desc := b.1, index := r.1.2 }] })

/-! ### Waits, engines' queues and descriptors -/

/-- The instruction has begun, is counted, and waits at its place (R31, R116). -/
structure Waits (v v' : Wave) (x : SlotId) (r : Wait) : Prop where
  ctl : v'.ctl = { v.ctl with a := v'.ctl.a, b := v'.ctl.b, issued := v'.ctl.issued, last := v'.ctl.last }
  other : v'.slot x.other = v.slot x.other
  slot : v'.slot x = { v.slot x with wait := some r, counted := true }
/-- A v register written whole in the slot's lanes, the other v registers as they were. -/
def RegIs (v v' : Wave) (x : SlotId) (n : Nat) (r : Word) : Prop :=
  v'.regs = { v.regs with v := v'.regs.v } ∧ (∀ m, m ≠ v.phys x n → v'.vreg m = v.vreg m) ∧
  ∀ t, t < 96 → laneAt (v'.vreg (v.phys x n)) t =
    if mbit (v.active x false) t = true then r else laneAt (v.vreg (v.phys x n)) t

/-- A matrix command may issue (R118, R218): the kernel has the matrix flag, the id is 0 to 254 and no unretired command of
the wave has it, a slot taken from a predecessor has one named, and the sequencer has room. -/
structure CommandReady (s : State) (w : Nat) (v : Wave) (m : MMod) : Prop where
  matrix : v.id.kern.matrix = true
  id : m.id ≠ 255
  unused : ∀ c ∈ (s.core v.core).cmds, c.wave = w → c.id ≠ m.id
  named : m.am.val = 2 → m.p0 ≠ 255
  room : (s.core v.core).cmds.length < 64
/-- The core's sequencer has one more command of wave w, behind the others, not started: its predecessors are the wave's
unretired commands that P0 and P1 name, and the command P0 names is noted, as the slot it uses may be asked for (R218,
R223). The watchdog's time begins where the sequencer was empty (R225). The wave changes as P says, and nothing else
changes. -/
def Queued (s t : State) (w : Nat) (v : Wave) (m : MMod) (k : MatKind) (P : Wave → Prop) : Prop :=
  let c := s.core v.core
  ∃ (preds : List Nat) (p0uid : Option Nat),
    (∀ u, p0uid = some u → ∃ q ∈ c.cmds, q.wave = w ∧ q.uid = u ∧ q.id = m.p0) ∧
    (p0uid = none → ∀ q ∈ c.cmds, q.wave = w → q.id ≠ m.p0) ∧
    (∀ u, u ∈ preds ↔ ∃ q ∈ c.cmds, q.wave = w ∧ q.uid = u ∧ q.id ≠ 255 ∧ (q.id = m.p0 ∨ q.id = m.p1)) ∧
    OnlyWave (s.setCore v.core { c with
      nextUid := c.nextUid + 1
      cmds := c.cmds ++ [{ uid := c.nextUid, wave := w, id := m.id, preds := preds, kind := k, am := m.am.val,
                           slot := m.slot.toNat, p0 := m.p0, p0uid := p0uid, started := false, placed := false,
                           took := [], left := 11, fault := 0, missed := none }]
      matClk := if c.cmds = [] then (s.die (v.core / 40)).clk else c.matClk }) t w P

/-- The 64 bytes of a descriptor at an address, read for the whole instruction of slot x (R339), and the state after. -/
def ReadsDesc (s : State) (v : Wave) (x : SlotId) (va : DWord) (b : Bytes) (t : State) : Prop :=
  va.toNat % 64 = 0 ∧ ∃ a, (s.access (v.who x) .rd false 0 va 64).1 = .ok a ∧
    (s.access (v.who x) .rd false 0 va 64).2.loadBytes v.core v.mem.queue a true true = (b, t)
/-- The render target a descriptor at an address describes (R338). -/
def ReadsTarget (s : State) (v : Wave) (x : SlotId) (va : DWord) (g : Target) (t : State) : Prop :=
  ∃ b, ReadsDesc s v x va b t ∧ targetOf va b = some g
/-- The raster state that a SEQ register selects, with its target (R336, R337). -/
def ReadsRaster (s : State) (v : Wave) (x : SlotId) (sel : DWord) (r : Raster) (t : State) : Prop :=
  fieldOf sel.toNat 63 56 = 0 ∧ ∃ b u r0 va g,
    ReadsDesc s v x (BitVec.ofNat 64 (s.reg 0 (oCtx v.id.ctx 0x30) / 64 * 64 + 64 * fieldOf sel.toNat 55 48)) b u ∧
    rasterOf b = some (r0, va) ∧ ReadsTarget u v x va g t ∧ r = { r0 with tgt := g }
/-- Word i of the oldest n entries of a list, in lane t. -/
def gathered (q : List Lanes) (n t : Nat) : List Word := (q.take n).map fun e => laneAt e t
/-- The lanes of a mask, ascending. -/
def ascending (m : Mask) : List Nat := (List.range 96).filter fun t => mbit m t
/-- A sequence number: draw, group, local index (R230, R340). -/
def sequenced (draw group ix : Nat) : DWord := BitVec.ofNat 64 (draw * 2 ^ 32 + group * 2 ^ 16 + ix % 2 ^ 16)
/-- No number of a list is below the one before it, nor the first below lo (R340). -/
def NeverFalls (lo : DWord) (l : List DWord) : Prop := (lo :: l).Pairwise fun a b => a.toNat ≤ b.toNat

/-! ### Control -/

/-- A C instruction may execute: the s registers it names are held, and its mailbox registers are ready (R73, R74, R129). -/
structure CReady (v : Wave) (x : SlotId) (operands : Bool) (reads writes : List Nat) : Prop where
  clear : Clear v x
  operands : operands = true
  mail : MailFree v reads writes
/-- A transfer: the slot has completed its instruction and goes on at an address when its clause ends (R103, R136). -/
structure Goes (v v' : Wave) (x : SlotId) (pc : CAddr) : Prop where
  ctl : v'.ctl = { v.ctl with a := v'.ctl.a, b := v'.ctl.b, issued := v'.ctl.issued, last := x }
  other : v'.slot x.other = v.slot x.other
  slot : SteppedDue { v.slot x with cont := some pc } (v'.slot x) false
/-- The reconvergence list is on chip, with at most n entries, and no page of the spill area is missing where an operation
on it could need one (R38, R311). -/
structure ListHere (s : State) (v : Wave) (n : Nat) : Prop where
  chip : v.ctl.spilled = []
  few : v.ctl.recon.length ≤ n
  pages : s.listMiss v = none
/-- Wave w becomes u with the list l, settled (R35), and nothing else changes. -/
def Settled (s t : State) (w : Nat) (u : Wave) (l : List REntry) : Prop :=
  let r := settleWave u l
  t = s.setWave w { r.1 with ctl := { r.1.ctl with recon := r.2, spilled := [] } }
/-- The entry is one that lanes of a slot could arrive at (R34). -/
def Fits (p : PcSlot) (e : REntry) : Prop :=
  e.merge = true ∧ p.join = some e.pc ∧ ∀ t, t < 96 → mbit p.mask t = true → mbit e.mask t = true ∧ mbit e.arrived t = false
/-- The entry is a path that slot x may take up: while the slot runs a handler, one of the handler's own lanes (R31, R35,
R290). -/
def Takes (v : Wave) (x : SlotId) (e : REntry) : Prop :=
  e.merge = false ∧ ∀ r, v.trap.running = some r → r.req.slot = x → ∀ t, t < 96 → mbit e.mask t = true →
    mbit r.req.lanes t = true
/-- Slot x finds no path among a list: it holds lanes already, or none of the list is one it may take. -/
def Idle (v : Wave) (x : SlotId) (l : List REntry) : Prop := (v.slot x).phase ≠ .empty ∨ ∀ e ∈ l, ¬Takes v x e
/-- The list once the MERGE entries whose live lanes have all arrived have fired: each becomes, in its place, a PATH entry
of those lanes, or goes where there is none (R35). -/
def fires (live : Mask) (l : List REntry) : List REntry :=
  l.filterMap fun e =>
    let due := e.merge && (List.range 96).all fun t => !mbit (e.mask &&& live) t || mbit e.arrived t
    let path : REntry := { e with merge := false, mask := e.mask &&& live, arrived := 0 }
    if due = false then some e else if e.mask &&& live = 0 then none else some path
/-- A signed word offset from the next clause (R111). -/
def offset (next : CAddr) (n : Nat) (ofs : BitVec n) : CAddr := next + 4 * ofs.signExtend 48

/-! ### Events -/

/-- Slot x of the wave becomes p, and nothing else of the wave changes. -/
def SlotIs (v v' : Wave) (x : SlotId) (p : PcSlot) : Prop :=
  v' = { v with ctl := { v.ctl with a := v'.ctl.a, b := v'.ctl.b } } ∧ v'.slot x.other = v.slot x.other ∧ v'.slot x = p
/-- The words of a clause behind its header are these instructions, each with its extension words (R98, R106). -/
def Splits (cl : Cls) (items : List (Word × List Word)) (ws : List Word) : Prop :=
  (items.flatMap fun i => i.1 :: i.2) = ws ∧ ∀ i ∈ items, i.2.length = extCount cl i.1
/-- The clause a header and its words make is legal (R100). -/
def LegalClause (h : Header) (ws : List Word) (items : List (Word × List Word)) : Prop :=
  items.length = h.n.toNat ∧ Splits (Cls.ofCode h.cls) items ws ∧
  (Cls.ofCode h.cls = .u → 8 ≤ h.pg.toNat → ∀ i ∈ items, bit i.1 24 = false)
/-- Where the stage-2 entry of a level for an intermediate address stands, where every table above it is there (R305,
R307). -/
def leafPlace (s : State) (ia stop : Nat) : Nat → Nat → Option Nat
  | 0, t => some (t + 8 * walkIx ia 0)
  | lvl + 1, t =>
    let pa := t + 8 * walkIx ia (lvl + 1)
    let e : DWord := BitVec.ofNat 64 (s.peekN (devKey pa) 8)
    if lvl + 1 = stop then some pa
    else if eBit e 0 = true ∧ e.toNat = eOut e + 1 then leafPlace s ia stop lvl (eDev e) else none
/-- A context has been terminated (R301): the cause and the code are noted, its eyelet key is gone, no wave of it is left,
and its tasks end with status 4 and the cause. -/
structure Terminated (s t : State) (ctx cause : Nat) (code : Word) : Prop where
  noted : ∀ c, s.liveCtx ctx = some c →
    mget t.ctxs ctx = some { c with terminated := true, termCause := cause, termCode := code, ekey := none }
  gone : ∀ u v, t.wave? u = some v → v.id.ctx ≠ ctx
  tasks : ∀ n k, mget s.sched.tasks n = some k →
    mget t.sched.tasks n = some (if k.ctx = ctx then { k with status := some (4, cause) } else k)
  memory : t.mem = s.mem
/-- The register words the bytes of lane t of a load give (R110, R192, R199, R204). -/
def landed (l : Load) (t : Nat) : List Word :=
  match l.kind with
  | .ld sz => loadWords sz (l.laneBytes t)
  | .ldp sz => loadWords sz (l.laneBytes t)
  | .atom op => loadWords (if atomWide op = true then 3 else 2) (l.bytesAt t)
  | .atomp op => loadWords (if atomWide op = true then 3 else 2) (l.bytesAt t)
  | .tex _ => l.texWords t
  | .tld => l.texWords t
  | .tq => l.texWords t
  | .sld _ => []
/-- Memory after cells have been written: a later cell of one byte wins. -/
def Wrote (m m' : List Host.Cell) (cells : List Host.Cell) : Prop :=
  ∀ k, memByte m' k = (lastCell cells k).getD (memByte m k)
/-- Memory after the atomics of a list of lanes, one after the other: each replaces the old value by the operation's new
one (R199, R200). -/
def atomicRun (op : Nat) (m : List Host.Cell) (accs : List (LaneAcc × Nat)) : List Host.Cell :=
  accs.foldl (fun m a => pokeAll m (a.1.keys.zip
    (bytesOfNat a.1.keys.length (atomNew op (natOfBytes (a.1.keys.map (memByte m))) a.2)))) m
/-- The lane accesses of an atomic that a mask picks, in order, and those it leaves. -/
def picked (lanes : Mask) (accs : List (LaneAcc × Nat)) : List (LaneAcc × Nat) := accs.filter fun a => mbit lanes a.1.lane
def unpicked (lanes : Mask) (accs : List (LaneAcc × Nat)) : List (LaneAcc × Nat) := accs.filter fun a => !mbit lanes a.1.lane
/-- Lanes a mask leaves reach no byte that those it picks reach: the lanes of one location are one group (R200). -/
def Grouped (lanes : Mask) (accs : List (LaneAcc × Nat)) : Prop :=
  ∀ a ∈ picked lanes accs, ∀ b ∈ unpicked lanes accs, ∀ k ∈ a.1.keys, k ∉ b.1.keys
/-- A copy job of a core becomes f of itself, and the rest of the core stays. -/
def JobIs (s t : State) (core id : Nat) (f : CopyJob → CopyJob) : Prop :=
  t.core core = { s.core core with jobs := (s.core core).jobs.map fun j => if j.id = id then f j else j }
/-- A command leaves the sequencer, at the clock's count (R223, R225). -/
def Leaves (s : State) (core uid : Nat) (k : Core) : Core :=
  { k with cmds := k.cmds.filter fun q => q.uid ≠ uid, matClk := (s.die (core / 40)).clk }
/-- A wave's matrix account with a fault more: one of its 4 oldest records, or the overflow mark (R225). -/
def faulted (m : WMat) (code : Nat) (id : BitVec 8) : WMat :=
  if m.faults.length < 4 then { m with faults := m.faults ++ [(code, id)] } else { m with overflow := true }
/-- A command retires with a fault and does nothing else (R225). -/
def RetiresWith (s t : State) (core : Nat) (m : MatCmd) (code : Nat) : Prop :=
  t.core core = Leaves s core m.uid (s.core core) ∧ t.mem = s.mem ∧ (∀ u, u ≠ m.wave → t.wave? u = s.wave? u) ∧
  ∀ v, s.wave? m.wave = some v → t.wave? m.wave = some { v with mat := faulted v.mat code m.id }
/-- What a started command's result f leaves of a core k and of its wave's flags. A command with a slot puts it there and
retires. One that still allocates takes the lowest free slot, whose contents are open, as it writes, or takes it now and
writes later; while no slot is free it waits (R223). -/
def Results (s : State) (core : Nat) (m : MatCmd) (k k' : Core) (fl fl' : Flags) (f : List Word → Res (List Word)) : Prop :=
  (m.placed = true ∨ m.am ≠ 1 → ∀ a, mget k.acc m.slot = some a →
    k' = Leaves s core m.uid { k with acc := mput k.acc m.slot { a with data := (f a.data).val } } ∧
      fl' = fl ||| (f a.data).fl) ∧
  (m.placed = false → m.am = 1 →
    (∀ n, n < 64 → mget k.acc n = none → (∀ i, i < n → mget k.acc i ≠ none) →
      ∃ data, let cmds := k.cmds.map fun q => if q.uid = m.uid then { q with placed := true, slot := n } else q
        let holds := fun (d : List Word) => { k with cmds := cmds, acc := mput k.acc n ⟨m.wave, m.id, m.uid, d⟩ }
        (k' = holds data ∧ fl' = fl) ∨
          (k' = Leaves s core m.uid (holds (f data).val) ∧ fl' = fl ||| (f data).fl)) ∧
    ((∀ n, n < 64 → mget k.acc n ≠ none) → k' = k ∧ fl' = fl))

/-! ### Command rings -/

/-- The head of a function's ring holds a command with bytes b that the module may look at: the port is open, the ring is
there, runs, and waits for no rotation, and the host's tail lies beyond the head (R367, R380). -/
structure RingGives (s : State) (f : Nat) (b : Bytes) : Prop where
  function : f < 513
  port : s.portOpen = true
  ring : s.cmdLen f ≠ 0
  runs : (s.fn f).ringHalt = 0
  settled : (s.fn f).rotations = []
  tail : behind (s.reg f (oFn 0x4C)) (s.cmdHead f) = false
  bytes : b = s.headBytes f
/-- Its MAC is the ring key's over the bytes before it (R367). -/
def MacFits (s : State) (f : Nat) (b : Bytes) : Prop :=
  ∃ k, (s.fn f).key = some k ∧ bytesOfNat 16 (kmac128 k (b.take 0x30)).toNat = b.drop 0x30
/-- A command that has passed these checks once is taken: the next sequence number is expected. -/
def accepted (s : State) (f : Nat) : State :=
  if (s.fn f).taken.isSome = true then s
  else (s.setReg f (oFn 0x18) (s.reg f (oFn 0x18) + 1)).setFn f { s.fn f with taken := some s.time }
/-- A command of operation op stands at a ring's head that passes every check, and has its own effect (R367, R378). -/
structure Commands (s : State) (f op : Nat) (b : Bytes) : Prop where
  gives : RingGives s f b
  op : cmdOp b = op
  sequence : (s.fn f).taken = none → cmdSeq b = s.reg f (oFn 0x18) ∧ cmdSeq b < 2 ^ 48
  mac : (s.fn f).taken = none → MacFits s f b
  cpl : cmdCpl b % 16 = 0
  permitted : (accepted s f).refused f b = false
  formed : (accepted s f).malformed b = false
/-- The ring goes on to its next command, and nothing else changes. -/
def RingNext (s t : State) (f : Nat) : Prop :=
  t = { s with regs := t.regs, fns := t.fns } ∧ t.reg f (oFn 0x50) = (s.cmdHead f + 1) % 2 ^ 32 ∧
  (∀ n, n ≠ regKey f (oFn 0x50) → mget t.regs n = mget s.regs n) ∧
  t.fn f = { s.fn f with taken := none, asked := none } ∧ ∀ g, g ≠ f → t.fn g = s.fn g
/-- The command is answered: its status record is written where CPL asks for one (R376), and the ring goes on. -/
def Answers (s t : State) (f : Nat) (b : Bytes) (status detail res : Nat) : Prop :=
  Wrote s.mem t.mem (if cmdCpl b = 0 then [] else cellsAt (hostKey (cmdCpl b))
    (bytesOfNat 1 status ++ bytesOfNat 1 detail ++ bytesOfNat 2 res ++ bytesOfNat 4 (cmdSeq b % 2 ^ 32) ++
      bytesOfNat 8 s.time)) ∧
  RingNext { s with mem := t.mem } t f
/-- The instructions that take a command from a ring, with its operation code (R375). -/
def ringOps (f : Nat) : List (Instr × Nat) :=
  [(.hostLaunch f, 1), (.frame f, 2), (.seal f, 3), (.fork f, 4), (.migrate f, 5), (.snapshot f, 6), (.restore f, 7),
   (.s2inv f, 8), (.create f, 9), (.destroy f, 10), (.grant f, 11), (.pooladd f, 12)]

end Sys2Proof.Says
end

