-- ==== Sys2Proof/WellFormed.lean ====
section
/-! DEFINITION. WellFormed.lean: the terms of Instr that an encoding, or an agent of the machine, can supply. -/

namespace Sys2Proof

/-- The VX C field holds no immediate (R107). -/
def notImmV : VSrc → Bool
  | .imm _ => false
  | _ => true
def notImmU : USrc → Bool
  | .imm _ => false
  | _ => true

/-- Register groups of loads (R110, R192). -/
def okLdDst (d : MDst) (sz : Fin 7) : Bool :=
  match d with
  | .v n => (sz != 3 || aligned n 2) && (sz != 4 || aligned n 4)
  | .o _ => sz != 3 && sz != 4

/-- Store data (R110, R192). -/
def okStSrc (d : MOpd) (sz : Fin 5) : Bool :=
  match d with
  | .v n => (sz != 3 || aligned n 2) && (sz != 4 || aligned n 4)
  | _ => sz < 3

/-- The D operand of atomics (R199). -/
def okAtom (op : Nat) (d : AtomD) : Bool :=
  match d with
  | .ret (.v n) _ => !((op == 1 || op == 10 || op == 11) && !aligned n 2) && !(op == 12 && !aligned n 4)
  | .ret (.o _) _ => !(op == 1 || op == 10 || op == 11 || op == 12)
  | _ => !(op == 11 || op == 12)

/-- Matrix commands: the id 255 names none, SLOT is used under AM = 0 only (R218). -/
def okMat (m : MMod) : Bool := m.id != 255 && (m.am == 0 || m.slot == 0)

/-- Well-formed instructions; for an event, the indices name agents the module has (R13, R14, R330). -/
def Instr.wf (i : Instr) : Bool :=
  match i with
  | .mov _ => true
  | .sel _ _ _ => true
  | .sread _ _ _ => true
  | .plop _ _ _ _ _ => true
  | .pset _ _ _ => true
  | .pmov _ _ => true
  | .pmovPreds _ _ => true
  | .fadd _ _ => true
  | .fsub _ _ => true
  | .fmul _ _ => true
  | .ffma _ _ _ => true
  | .fma3 _ _ _ c => notImmV c
  | .fmin _ _ => true
  | .fmax _ _ => true
  | .fcmp _ _ _ => true
  | .frnd _ _ _ _ => true
  | .ffract _ _ _ => true
  | .fscale _ _ _ _ _ => true
  | .frcp _ _ _ => true
  | .frsq _ _ _ => true
  | .fsqrt _ _ _ => true
  | .fexp2 _ _ _ => true
  | .flog2 _ _ _ => true
  | .fsin _ _ _ => true
  | .fcos _ _ _ => true
  | .hadd2 _ _ => true
  | .hsub2 _ _ => true
  | .hmul2 _ _ => true
  | .hfma2 _ _ _ => true
  | .hmin2 _ _ => true
  | .hmax2 _ _ => true
  | .hcmp2 _ _ _ => true
  | .badd2 _ _ => true
  | .bmul2 _ _ => true
  | .bfma2 _ _ _ => true
  | .dot4i _ _ c => notImmV c
  | .dot4u _ _ c => notImmV c
  | .dot2h _ _ _ c => notImmV c
  | .dot2b _ _ _ c => notImmV c
  | .cvt _ _ _ fmt src => !(isSe fmt.code.toNat) && !(isSe src.code.toNat)
  | .qnt _ _ => true
  | .dqnt _ _ => true
  | .iadd _ => true
  | .isub _ => true
  | .iaddx _ _ => true
  | .imul _ => true
  | .imulh _ => true
  | .umulh _ => true
  | .imad _ _ _ => true
  | .imad3 _ _ _ c => notImmV c
  | .imin _ => true
  | .imax _ => true
  | .umin _ => true
  | .umax _ => true
  | .iabs _ => true
  | .iadds _ _ => true
  | .isubs _ _ => true
  | .icmp _ _ => true
  | .ucmp _ _ => true
  | .and _ => true
  | .or _ => true
  | .xor _ => true
  | .ltab _ _ c => notImmV c
  | .shl _ => true
  | .shr _ => true
  | .sar _ => true
  | .rot _ => true
  | .bfe _ _ => true
  | .bfi _ c => notImmV c
  | .popc _ => true
  | .clz _ => true
  | .brev _ => true
  | .shfl _ _ => true
  | .shflx _ _ => true
  | .shflup _ _ => true
  | .shfldn _ _ => true
  | .vote _ _ _ => true
  | .rdlane _ => true
  | .wrlane _ => true
  | .red _ _ op rnd => op == 8 || rnd == 0
  | .scan _ _ op rnd => op == 8 || rnd == 0
  | .smov _ => true
  | .ssel _ _ _ => true
  | .klop _ _ => true
  | .sadd _ => true
  | .ssub _ => true
  | .smul _ => true
  | .smulh _ _ => true
  | .smad _ c => notImmU c
  | .smin _ _ => true
  | .smax _ _ => true
  | .scmp _ _ => true
  | .slea _ _ => true
  | .sand _ => true
  | .sor _ => true
  | .sxor _ => true
  | .sshl _ => true
  | .sshr _ => true
  | .ssar _ => true
  | .srot _ => true
  | .sbfe _ _ => true
  | .sbfi _ c => notImmU c
  | .spopc _ => true
  | .sclz _ => true
  | .sfadd _ _ => true
  | .sfmul _ _ => true
  | .sffma _ _ _ c => notImmU c
  | .sfcmp _ _ _ => true
  | .scvt _ _ _ fmt src => isScalarFmt fmt.code.toNat && isScalarFmt src.code.toNat
  | .ld _ d _ _ sz _ _ => okLdDst d sz
  | .st _ d _ sz _ _ => okStSrc d sz
  | .sld _ d _ _ _ sz _ _ => sz != 4 || aligned d.toNat 2
  | .sst _ d _ _ sz _ _ => sz != 4 || aligned d.toNat 2
  | .ldp _ d _ _ sz _ => okLdDst d sz
  | .stp _ d _ sz _ => okStSrc d sz
  | .pref _ _ _ _ => true
  | .atom _ op d _ _ => okAtom op.toNat d
  | .atomp _ op d _ => okAtom op.toNat d
  | .fenceAcq _ => true
  | .fenceRel _ => true
  | .fenceAr _ => true
  | .tex _ _ d _ _ _ _ _ => aligned d 4
  | .tld _ d _ _ _ _ _ => aligned d 4
  | .tq _ d _ _ _ _ _ => aligned d 4
  | .cpy base _ => aligned base.toNat 4
  | .cpyb _ => true
  | .cpyw _ => true
  | .qstat _ _ => true
  | .bari _ _ _ => true
  | .bara _ _ _ _ => true
  | .barw _ _ _ => true
  | .bart _ _ _ _ => true
  | .mmaMac m _ => okMat m
  | .mmaZero m => okMat m
  | .mmaDrain m => okMat m && m.am != 1
  | .mldb m x => okMat m && m.am == 0 && m.slot == 0 && aligned x 2
  | .mrel m => okMat m && m.am != 1
  | .mwait _ => true
  | .mstat _ _ => true
  | .sendv _ _ _ _ => true
  | .mkcap _ _ => true
  | .dropcap _ => true
  | .arm _ => true
  | .pemit _ n _ _ => n != 0
  | .segl _ _ _ => true
  | .segq _ _ => true
  | .segc _ _ => true
  | .pathend _ _ _ => true
  | .splat _ n _ _ => n != 0
  | .ordb => true
  | .orde => true
  | .blnd _ _ d _ => aligned d 4
  | .nop => true
  | .bra _ _ _ => true
  | .brp _ _ _ _ => true
  | .join => true
  | .jmpi _ => true
  | .call _ => true
  | .calli _ => true
  | .ret => true
  | .exit => true
  | .yield => true
  | .sleep _ => true
  | .loop _ _ => true
  | .loopi _ _ => true
  | .lbrk _ _ => true
  | .regn _ => true
  | .claim _ => true
  | .release _ => true
  | .launch _ _ => true
  | .tbfull _ _ _ => true
  | .tbempty _ _ _ => true
  | .trap _ => true
  | .sret _ => true
  | .rdsr _ _ => true
  | .wrsr _ _ => true
  | .tlbi _ => true
  | .tlbiAll => true
  | .mapp _ _ _ => true
  | .cflush _ => true
  | .cflushL1 => true
  | .cflushMem _ => true
  | .clauseFetch w _ => w < 15360
  | .headerWaitEnd w _ => w < 15360
  | .backEdge w _ => w < 15360
  | .waveRetire w => w < 15360
  | .loadLanding w _ _ => w < 15360
  | .storeLeavesQueue w => w < 15360
  | .storeAck core _ => core < 160
  | .atomicPerform w _ _ => w < 15360 || 2 ^ 20 ≤ w
  | .sendArrival w => w < 15360
  | .sendOutcome w => w < 15360
  | .sleepTimeout w _ => w < 15360
  | .copyJobStart core _ => core < 160
  | .copyLanding core _ _ _ _ => core < 160
  | .copyJobComplete core _ => core < 160
  | .matrixCommandStart core _ => core < 160
  | .matrixCommandRetire core _ => core < 160
  | .matrixWatchdog core => core < 160
  | .sectionTimeout w => w < 15360
  | .preemptRequest _ => true
  | .switchOutCapture w => w < 15360
  | .clusterRestore _ => true
  | .pageReply fn => fn < 513
  | .pageMigration ctx _ => ctx < 1024
  | .pinExpiry ctx _ => ctx < 1024
  | .pagePromotion ctx _ => ctx < 1024
  | .pageHash ctx _ => ctx < 1024
  | .daymarkMerge ctx _ => ctx < 1024
  | .taskDispatch _ => true
  | .lightPeriod => true
  | .batchSend _ die => die < 4
  | .buoyReport die => die < 4
  | .blockPlacement die _ => die < 4
  | .carveChangeStart die => die < 4
  | .carveChange core => core < 160
  | .donationRequest die peer => die < 4 && peer < 4
  | .donationAnswer die peer => die < 4 && peer < 4
  | .gangReport _ _ => true
  | .gangStart _ => true
  | .l2Resend _ => true
  | .taskEnd _ => true
  | .pixelWaveLaunch _ die core => die < 4 && core < 40
  | .pathFill _ => true
  | .blendCommit _ => true
  | .lanternComposite _ _ _ => true
  | .clearJob _ _ => true
  | .splatJob _ _ => true
  | .copyClassJob _ _ => true
  | .encodeJob _ _ => true
  | .hostLaunch f => f < 513
  | .frame f => f < 513
  | .seal f => f < 513
  | .fork f => f < 513
  | .migrate f => f < 513
  | .snapshot f => f < 513
  | .snapshotHostCopy _ => true
  | .restore f => f < 513
  | .s2inv f => f < 513
  | .create f => f < 513
  | .destroy f => f < 513
  | .grant f => f < 513
  | .pooladd f => f < 513
  | .ringKeyRotation f _ _ => f < 513
  | .getMeasurements f _ => f < 513
  | .challenge _ => true
  | .lockInterfaceRequest f => f < 513
  | .tdispUnlock f => f < 513
  | .tdispError f => f < 513
  | .ideKm use _ => match use with
    | .selective f n => f < 513 && n < 64
    | _ => true
  | .logKeyRequest ctx => ctx < 1024
  | .lamplighterWalk f => f < 513
  | .tournSwitch => true
  | .thermalTrip die => die < 4
  | .tripClear die => die < 4
  | .monitorEvent die _ _ => die < 4
  | .pwrreq _ => true
  | .tourn _ => true
  | .ttrip _ => true
  | .cmdtail f _ => f < 513
  | .rpqtail f _ => f < 513
  | .prqhead f _ => f < 513
  | .registerWrite f _ width _ => f < 513 && (width == 4 || width == 8)
  | .hostAccess _ data len => data.length ≤ len
  | .flitSend link _ _ => link < 14
  | .flitReceive link _ => link < 14
  | .nak link _ => link < 14
  | .resendTimeout link => link < 14
  | .ptpMessage link _ => link < 14
  | .snapshotStep die => die < 4
  | .dieLost die => die < 4
  | .coldReset => true
  | .trep w _ => w < 15360
  | .startInterfaceRequest f => f < 513
  | .linkTraining link _ => link < 14
  | .boostThrottle die _ => die < 4
  | .snapshotStepComplete die => die < 4
  | .spdmSecuredSession _ => true

end Sys2Proof
end

