-- ==== Sys2Proof/Certificates/Slice0/Obligations.lean ====
section
/-! DEFINITION. Certificates/Slice0/Obligations.lean: the statements for the provers, in the terms of Safety/Effects. -/

open Sys2Proof Sys2Proof.Machine Sys2Proof.Says

/-! ### V instructions -/

/-- R165, R167: MOV copies 32 bits; SEL takes a where p[C] xor NC, else b; PLOP combines two predicates by the table
of R156; PSET sets its predicate where a is not 0; PMOV moves the 32 predicates of each lane to a word and back. R166,
R92: SREAD gives the value of its selector in every active lane; flagsc clears the wave's flags word in the same step,
where a lane is active, and raises none itself. In part it states the model's own choices: log 10, 19. -/
def Obligations.MovesAndSelectors : Prop :=
  (Lane1 .mov (fun a => ⟨a, 0⟩) ∧
  (∀ j nc p, VRunsW (.sel j nc p) (op2 j) fun _ v _ l t =>
    ⟨if (mbit (v.preg p.toNat) t ^^ nc) = true then srcAt l 0 t else srcAt l 1 t, 0⟩) ∧
  (∀ g pd pa pb op, VRunsW (.plop g pd pa pb op) { g := g, srcs := [], tgt := .pred pd } fun _ v _ _ t =>
    ⟨if booleanOp op (mbit (v.preg pa.toNat) t) (mbit (v.preg pb.toNat) t) = true then 1 else 0, 0⟩) ∧
  (∀ g pd a, VRuns (.pset g pd a) { g := g, srcs := [a], tgt := .pred pd } fun l t => ⟨srcAt l 0 t, 0⟩) ∧
  (∀ g d (f : Wave → Nat → Word), (∀ (v : Wave) t i, i < 32 → (f v t).getLsbD i = mbit (v.preg i) t) →
    VRunsW (.pmov g d) { g := g, srcs := [], tgt := .reg d } fun _ v _ _ t => ⟨f v t, 0⟩) ∧
  (∀ g a, VRuns (.pmovPreds g a) { g := g, srcs := [a], tgt := .preds } fun l t => ⟨srcAt l 0 t, 0⟩)) ∧
  (∀ g d k s w x v, Issues s w x v → VReady s v x { g := g, srcs := [], tgt := .reg d } →
    ∃ t, exec (.sread g d k) s = .next t ∧
      let u := if k = .flagsc ∧ v.active x g ≠ 0 then { v with regs := { v.regs with flags := 0 } } else v
      VStep (s.setWave w u) t w x u { g := g, srcs := [], tgt := .reg d } fun _ =>
        ⟨selected s v (v.active x g) k, 0⟩)

/-- R176, R178: the integer instructions wrap modulo 2^32; the saturating forms clamp to the range of their signedness
and raise SA when the clamp changes the exact result. R177: IADDX adds with the carry its form names, writes y modulo
2^32 in the lanes its guard picked at issue, and then sets p31 of each of them to whether y reaches 2^32. R179 to
R181: logic, shifts, rotation, field extraction and insertion, bit counts and reversal; none raises a flag. In part it
states the model's own choices: log 19. -/
def Obligations.IntegersAndLogic : Prop :=
  (Lane2 .iadd (fun a b => ⟨BitVec.ofNat 32 (a.toNat + b.toNat), 0⟩) ∧
  Lane2 .isub (fun a b => ⟨BitVec.ofInt 32 ((a.toNat : Int) - b.toNat), 0⟩) ∧
  Lane2 .imul (fun a b => ⟨BitVec.ofNat 32 (a.toNat * b.toNat), 0⟩) ∧
  Lane2 .imulh (fun a b => ⟨BitVec.ofInt 32 (a.toInt * b.toInt / 2 ^ 32), 0⟩) ∧
  Lane2 .umulh (fun a b => ⟨BitVec.ofNat 32 (a.toNat * b.toNat / 2 ^ 32), 0⟩) ∧
  (∀ sat, LaneD (fun j => .imad j sat false) fun a b d => ranged sat true (a.toInt * b.toInt + d.toInt)) ∧
  (∀ sat, LaneD (fun j => .imad j sat true) fun a b d => ranged sat false (a.toNat * b.toNat + d.toNat)) ∧
  (∀ sat, Lane3 (fun j => .imad3 j sat false) fun a b c => ranged sat true (a.toInt * b.toInt + c.toInt)) ∧
  (∀ sat, Lane3 (fun j => .imad3 j sat true) fun a b c => ranged sat false (a.toNat * b.toNat + c.toNat)) ∧
  Lane2 .imin (fun a b => ⟨BitVec.ofInt 32 (min a.toInt b.toInt), 0⟩) ∧
  Lane2 .imax (fun a b => ⟨BitVec.ofInt 32 (max a.toInt b.toInt), 0⟩) ∧
  Lane2 .umin (fun a b => ⟨BitVec.ofNat 32 (min a.toNat b.toNat), 0⟩) ∧
  Lane2 .umax (fun a b => ⟨BitVec.ofNat 32 (max a.toNat b.toNat), 0⟩) ∧
  Lane1 .iabs (fun a => ⟨BitVec.ofNat 32 a.toInt.natAbs, 0⟩) ∧
  Lane2 (.iadds · false) (fun a b => ranged true true (a.toInt + b.toInt)) ∧
  Lane2 (.iadds · true) (fun a b => ranged true false (a.toNat + b.toNat)) ∧
  Lane2 (.isubs · false) (fun a b => ranged true true (a.toInt - b.toInt)) ∧
  Lane2 (.isubs · true) (fun a b => ranged true false ((a.toNat : Int) - b.toNat)) ∧
  (∀ cond, LaneP (.icmp · cond) fun a b => ⟨compared cond a.toInt b.toInt, 0⟩) ∧
  (∀ cond, LaneP (.ucmp · cond) fun a b => ⟨compared cond a.toNat b.toNat, 0⟩)) ∧
  (∀ j op s w x v, Issues s w x v → VReady s v x (op2 j) →
    let y := fun t => carrySum op (laneAt (s.readV v x j.a) t) (laneAt (s.readV v x j.b) t) (mbit (v.preg 31) t)
    ∃ a u u' t, exec (.iaddx j op) s = .next t ∧ VStep s a w x v (op2 j) (fun l => ⟨BitVec.ofNat 32 (y l), 0⟩) ∧
      a.wave? w = some u ∧ t = a.setWave w u' ∧ u' = { u with regs := { u.regs with p := u'.regs.p } } ∧
      (∀ i l, l < 96 → mbit (u'.preg i) l =
        if i = 31 ∧ mbit (v.active x j.g) l = true then decide (2 ^ 32 ≤ y l) else mbit (u.preg i) l)) ∧
  (Lane2 .and (fun a b => ⟨a &&& b, 0⟩) ∧ Lane2 .or (fun a b => ⟨a ||| b, 0⟩) ∧ Lane2 .xor (fun a b => ⟨a ^^^ b, 0⟩) ∧
  (∀ (tab : BitVec 8) (f : Word → Word → Word → Word),
    (∀ a b c i, i < 32 → (f a b c).getLsbD i =
      tab.getLsbD ((a.getLsbD i).toNat + 2 * (b.getLsbD i).toNat + 4 * (c.getLsbD i).toNat)) →
    Lane3 (.ltab · tab) fun a b c => ⟨f a b c, 0⟩) ∧
  Lane2 .shl (fun a b => ⟨BitVec.ofNat 32 (a.toNat * 2 ^ (b.toNat % 32)), 0⟩) ∧
  Lane2 .shr (fun a b => ⟨BitVec.ofNat 32 (a.toNat / 2 ^ (b.toNat % 32)), 0⟩) ∧
  Lane2 .sar (fun a b => ⟨BitVec.ofInt 32 (a.toInt / 2 ^ (b.toNat % 32)), 0⟩) ∧
  Lane2 .rot (fun a b => ⟨a <<< (b.toNat % 32) ||| a >>> (32 - b.toNat % 32), 0⟩) ∧
  Lane2 (.bfe · false) (fun a b =>
    ⟨(a.extractLsb' (b.toNat % 32) (fieldWidth b)).setWidth 32, 0⟩) ∧
  Lane2 (.bfe · true) (fun a b =>
    ⟨(a.extractLsb' (b.toNat % 32) (fieldWidth b)).signExtend 32, 0⟩) ∧
  (∀ f : Word → Word → Word → Word,
    (∀ a b c i, i < 32 → (f a b c).getLsbD i =
      if c.toNat % 32 ≤ i ∧ i < c.toNat % 32 + fieldWidth c then b.getLsbD (i - c.toNat % 32) else a.getLsbD i) →
    Lane3 .bfi fun a b c => ⟨f a b c, 0⟩) ∧
  Lane1 .popc (fun a => ⟨a.cpop, 0⟩) ∧ Lane1 .clz (fun a => ⟨a.clz, 0⟩) ∧ Lane1 .brev (fun a => ⟨a.reverse, 0⟩))

/-- R164, R168, R169: the FP32 instructions compute on modified operands and round once under RND; SAT keeps them
finite. R170, R93: the special functions compute on the modified operand. R158, R159: the float instructions of the U
class work on the low 32 bits of their sources and write zero above an FP32 result; a conversion to INT32 is sign-
extended, every other is zero-extended. In part it states the model's own choices: log 19, 21, 22. -/
def Obligations.FloatArithmetic : Prop :=
  ((∀ m, Lane2 (.fadd · m) fun a b => lane (fout f32 (Rnd.of m.rnd) m.sat
    (addNum (aOf f32 m.n a.toNat) (bOf f32 m.n b.toNat) (Rnd.of m.rnd)))) ∧
  (∀ m, Lane2 (.fsub · m) fun a b => lane (fout f32 (Rnd.of m.rnd) m.sat
    (addNum (aOf f32 m.n a.toNat) (bOf f32 m.n b.toNat).flip (Rnd.of m.rnd)))) ∧
  (∀ m, Lane2 (.fmul · m) fun a b => lane (fout f32 (Rnd.of m.rnd) m.sat
    ((aOf f32 m.n a.toNat).mul (bOf f32 m.n b.toNat)))) ∧
  (∀ m nc, LaneD (.ffma · m nc) fun a b d => lane (fused f32 m nc a.toNat b.toNat d.toNat)) ∧
  (∀ m nc, Lane3 (.fma3 · m nc) fun a b c => lane (fused f32 m nc a.toNat b.toNat c.toNat)) ∧
  (∀ n, Lane2 (.fmin · n) fun a b =>
    lane (fminmax f32 false (fmodif f32 n.absa n.na a.toNat) (fmodif f32 n.absb n.nb b.toNat))) ∧
  (∀ n, Lane2 (.fmax · n) fun a b =>
    lane (fminmax f32 true (fmodif f32 n.absa n.na a.toNat) (fmodif f32 n.absb n.nb b.toNat))) ∧
  (∀ cond n, LaneP (.fcmp · cond n) fun a b =>
    fcond f32 cond (fmodif f32 n.absa n.na a.toNat) (fmodif f32 n.absb n.nb b.toNat)) ∧
  (∀ rnd na ab, Lane1 (.frnd · rnd na ab) fun a => lane (frndOp (Rnd.of rnd) (fmodif f32 ab na a.toNat))) ∧
  (∀ na ab, Lane1 (.ffract · na ab) fun a => lane (ffractOp (fmodif f32 ab na a.toNat))) ∧
  (∀ rnd sat na ab, Lane2 (.fscale · rnd sat na ab) fun a b =>
    lane (fscaleOp (Rnd.of rnd) sat (fmodif f32 ab na a.toNat) b.toInt))) ∧
  (∀ na ab,
    Lane1 (.frcp · na ab) (fun a => lane (frcpOp (fmodif f32 ab na a.toNat))) ∧
    Lane1 (.frsq · na ab) (fun a => lane (frsqOp (fmodif f32 ab na a.toNat))) ∧
    Lane1 (.fsqrt · na ab) (fun a => lane (fsqrtOp (fmodif f32 ab na a.toNat))) ∧
    Lane1 (.fexp2 · na ab) (fun a => lane (fexp2Op (fmodif f32 ab na a.toNat))) ∧
    Lane1 (.flog2 · na ab) (fun a => lane (flog2Op (fmodif f32 ab na a.toNat))) ∧
    Lane1 (.fsin · na ab) (fun a => lane (fsinOp (fmodif f32 ab na a.toNat))) ∧
    Lane1 (.fcos · na ab) (fun a => lane (fcosOp (fmodif f32 ab na a.toNat)))) ∧
  ((∀ m, Scal2 (.sfadd · m) fun a b => scalar (fout f32 (Rnd.of m.rnd) m.sat
    (addNum (aOf f32 m.n (low a)) (bOf f32 m.n (low b)) (Rnd.of m.rnd)))) ∧
  (∀ m, Scal2 (.sfmul · m) fun a b => scalar (fout f32 (Rnd.of m.rnd) m.sat
    ((aOf f32 m.n (low a)).mul (bOf f32 m.n (low b))))) ∧
  (∀ m nc, Scal3 (.sffma · m nc) fun a b c => scalar (fused f32 m nc (low a) (low b) (low c))) ∧
  (∀ cond n, Scal2 (.sfcmp · cond n) fun a b =>
    let r := fcond f32 cond (fmodif f32 n.absa n.na (low a)) (fmodif f32 n.absb n.nb (low b))
    ⟨if r.val = true then 1 else 0, r.fl⟩) ∧
  (∀ rnd sat fmt src, Scal1 (.scvt · rnd sat fmt src) fun a =>
    let r := cvtElem (elemOf src) (elemOf fmt) (Rnd.of rnd) sat a.toNat
    ⟨if fmt = .i32 then (BitVec.ofNat 32 r.val).signExtend 64 else BitVec.ofNat 64 r.val, r.fl⟩))

/-- R171, R172: packed instructions work on the two 16-bit elements of a lane apart and raise the flags of both; the
dot products sum exactly and round, wrap or clamp once. R91, R173 to R175: CVT converts one element; QNT makes one
block of each half-wave from its active lanes and +0 elsewhere, and a half without an active lane raises nothing; DQNT
reads each lane with its own fields and raises nothing. In part it states the model's own choices: log 19, 21. -/
def Obligations.PackedAndConversions : Prop :=
  ((∀ m, Lane2 (.hadd2 · m) (pairs fun a b => fAdd f16 m a b)) ∧
  (∀ m, Lane2 (.hsub2 · m) (pairs fun a b => fSub f16 m a b)) ∧
  (∀ m, Lane2 (.hmul2 · m) (pairs fun a b => fMul f16 m a b)) ∧
  (∀ m nc, LaneD (.hfma2 · m nc) fun a b d => both (fun i => fused f16 m nc (half a i) (half b i) (half d i))) ∧
  (∀ n, Lane2 (.hmin2 · n) (pairs fun a b => fminmax f16 false (fmodif f16 n.absa n.na a) (fmodif f16 n.absb n.nb b))) ∧
  (∀ n, Lane2 (.hmax2 · n) (pairs fun a b => fminmax f16 true (fmodif f16 n.absa n.na a) (fmodif f16 n.absb n.nb b))) ∧
  (∀ cond n, Lane2 (.hcmp2 · cond n) (pairs fun a b =>
    let r := fcond f16 cond (fmodif f16 n.absa n.na a) (fmodif f16 n.absb n.nb b)
    ⟨if r.val = true then 0xFFFF else 0, r.fl⟩)) ∧
  (∀ m, Lane2 (.badd2 · m) (pairs fun a b => fAdd fb16 m a b)) ∧
  (∀ m, Lane2 (.bmul2 · m) (pairs fun a b => fMul fb16 m a b)) ∧
  (∀ m nc, LaneD (.bfma2 · m nc) fun a b d => both (fun i => fused fb16 m nc (half a i) (half b i) (half d i))) ∧
  (∀ sat, Lane3 (fun j => .dot4i j sat) fun a b c => ranged sat true
    (c.toInt + (quarter a 0).toInt * (quarter b 0).toInt + (quarter a 1).toInt * (quarter b 1).toInt +
      (quarter a 2).toInt * (quarter b 2).toInt + (quarter a 3).toInt * (quarter b 3).toInt)) ∧
  (∀ sat, Lane3 (fun j => .dot4u j sat) fun a b c => ranged sat false
    (c.toNat + (quarter a 0).toNat * (quarter b 0).toNat + (quarter a 1).toNat * (quarter b 1).toNat +
      (quarter a 2).toNat * (quarter b 2).toNat + (quarter a 3).toNat * (quarter b 3).toNat)) ∧
  (∀ m nc, Lane3 (.dot2h · m nc) fun a b c => lane (twoProducts f16 m nc a b c)) ∧
  (∀ m nc, Lane3 (.dot2b · m nc) fun a b c => lane (twoProducts fb16 m nc a b c))) ∧
  ((∀ rnd sat fmt src, Lane1 (.cvt · rnd sat fmt src) fun a =>
    lane (cvtElem (elemOf src) (elemOf fmt) (Rnd.of rnd) sat a.toNat)) ∧
  (∀ fmt j, VRunsW (.qnt j fmt) (op1 j) fun _ v x l t =>
    let m := magnitudeBits fmt
    let q := blockOf m (v.active x j.g) (fun i => srcAt l 0 i) (48 * (t / 48))
    ⟨BitVec.ofNat 32 (seWord m q.e (q.mu.getD (t % 48 / 2) 0) (q.s.getD (t % 48) false) (q.mg.getD (t % 48) 0)), q.fl⟩) ∧
  (∀ fmt, Lane1 (.dqnt · fmt) fun a =>
    ⟨BitVec.ofNat 32 (roundNum f32 .rne (seLane (magnitudeBits fmt) a.toNat)).val, 0⟩))

/-- R182, R183: a shuffle gives each active lane the source of the lane R183 names, within its segment. R184: RDLANE
gives every active lane the source of the lane its b names in the lowest active lane; WRLANE writes that lane alone,
where it is active. R184: with an active lane and a lane number past 95, both trap with 0x03. R185: a vote reads its
predicate over the slot's active lanes alone and gives every active lane the same result. R186: SCAN gives each active
lane the combination of its segment's active lanes up to it, in ascending order, and RED the combination of all of
them, with the flags of the combinations it rests on. In part it states the model's own choices: log 19. -/
def Obligations.ShufflesVotesAndReductions : Prop :=
  (∀ j seg, let g := segmentOf seg
    VRuns (.shfl j seg) (collected (op2 j)) (fun l t =>
      ⟨srcAt l 0 (t - t % g + (srcAt l 1 t).toNat % g), 0⟩) ∧
    VRuns (.shflx j seg) (collected (op2 j)) (fun l t =>
      ⟨srcAt l 0 (if t % g ^^^ (srcAt l 1 t).toNat < g then t - t % g + (t % g ^^^ (srcAt l 1 t).toNat) else t), 0⟩) ∧
    VRuns (.shflup j seg) (collected (op2 j)) (fun l t =>
      ⟨srcAt l 0 (if (srcAt l 1 t).toNat ≤ t % g then t - (srcAt l 1 t).toNat else t), 0⟩) ∧
    VRuns (.shfldn j seg) (collected (op2 j)) (fun l t =>
      ⟨srcAt l 0 (if t % g + (srcAt l 1 t).toNat < g then t + (srcAt l 1 t).toNat else t), 0⟩)) ∧
  (∀ j s w x v, Issues s w x v → VReady s v x (collected (op2 j)) →
    (v.active x j.g ≠ 0 → (namedBy s v x j).toNat ≤ 95) →
    (∃ t, exec (.rdlane j) s = .next t ∧ VStep s t w x v (collected (op2 j)) fun _ =>
      ⟨laneAt (s.readV v x j.a) (namedBy s v x j).toNat, 0⟩) ∧
    (∃ t, exec (.wrlane j) s = .next t ∧ VStep s t w x v (collected (op2 j)) fun l =>
      ⟨if l = (namedBy s v x j).toNat then firstOf v x j.g (s.readV v x j.a) else v.dstLane x j.d l, 0⟩)) ∧
  (∀ j s w x v, Issues s w x v → VReady s v x (collected (op2 j)) → v.active x j.g ≠ 0 →
    95 < (namedBy s v x j).toNat →
    exec (.rdlane j) s = .next (s.trapC w x 0x03) ∧ exec (.wrlane j) s = .next (s.trapC w x 0x03)) ∧
  (∀ g pa,
    (∀ pd, VRunsW (.vote g (.any pd) pa) (collected { g := g, srcs := [], tgt := .pred pd }) fun _ v x _ _ =>
      ⟨if someLane (v.active x g) (fun t => mbit (v.preg pa.toNat) t) = true then 1 else 0, 0⟩) ∧
    (∀ pd, VRunsW (.vote g (.all pd) pa) (collected { g := g, srcs := [], tgt := .pred pd }) fun _ v x _ _ =>
      ⟨if someLane (v.active x g) (fun t => !mbit (v.preg pa.toNat) t) = true then 0 else 1, 0⟩) ∧
    (∀ pd, VRunsW (.vote g (.eq pd) pa) (collected { g := g, srcs := [], tgt := .pred pd }) fun _ v x _ _ =>
      ⟨if someLane (v.active x g) (fun t => mbit (v.preg pa.toNat) t) = true ∧
          someLane (v.active x g) (fun t => !mbit (v.preg pa.toNat) t) = true then 0 else 1, 0⟩) ∧
    (∀ (n : Fin 3) d (f : Mask → Word),
      (∀ m i, i < 32 → (f m).getLsbD i = mbit m (32 * n.val + i)) →
      VRunsW (.vote g (.ballot n d) pa) (collected { g := g, srcs := [], tgt := .reg d }) fun _ v x _ _ =>
        ⟨f (v.active x g &&& v.preg pa.toNat), 0⟩)) ∧
  (∀ j seg op rnd,
    VRunsW (.scan j seg op rnd) (collected (op1 j)) (fun _ v x l t =>
      combined op rnd (((lanesOf (v.active x j.g)).filter fun i =>
        i / segmentOf seg = t / segmentOf seg ∧ i ≤ t).map fun i => srcAt l 0 i)) ∧
    VRunsW (.red j seg op rnd) (collected (op1 j)) (fun _ v x l t =>
      combined op rnd (((lanesOf (v.active x j.g)).filter fun i =>
        i / segmentOf seg = t / segmentOf seg).map fun i => srcAt l 0 i)))

/-! ### U instructions -/

/-- R154 to R156: the integer instructions of the U class on 64-bit values, modulo 2^64, without flags; a k destination
takes whether the result is nonzero. The operation of KLOP and the condition of SCMP are the ones their SUB selects, and a
SUB that is not listed raises 0x01. -/
def Obligations.ScalarIntegers : Prop :=
  Scal1 .smov (fun a => ⟨a, 0⟩) ∧
  (∀ j nc k, URuns (.ssel j nc k) j.g j.d [j.a, j.b, .k k] fun l =>
    ⟨if (decide (uAt l 2 ≠ 0) ^^ nc) = true then uAt l 0 else uAt l 1, 0⟩) ∧
  (∀ op, Scal2 (.klop · op) fun a b => truth (booleanOp op (decide (a ≠ 0)) (decide (b ≠ 0)))) ∧
  Scal2 .sadd (fun a b => ⟨BitVec.ofNat 64 (a.toNat + b.toNat), 0⟩) ∧
  Scal2 .ssub (fun a b => ⟨BitVec.ofInt 64 ((a.toNat : Int) - b.toNat), 0⟩) ∧
  Scal2 .smul (fun a b => ⟨BitVec.ofNat 64 (a.toNat * b.toNat), 0⟩) ∧
  Scal2 (.smulh · false) (fun a b => ⟨BitVec.ofInt 64 (a.toInt * b.toInt / 2 ^ 64), 0⟩) ∧
  Scal2 (.smulh · true) (fun a b => ⟨BitVec.ofNat 64 (a.toNat * b.toNat / 2 ^ 64), 0⟩) ∧
  Scal3 .smad (fun a b c => ⟨BitVec.ofNat 64 (a.toNat * b.toNat + c.toNat), 0⟩) ∧
  Scal2 (.smin · false) (fun a b => ⟨BitVec.ofInt 64 (min a.toInt b.toInt), 0⟩) ∧
  Scal2 (.smin · true) (fun a b => ⟨BitVec.ofNat 64 (min a.toNat b.toNat), 0⟩) ∧
  Scal2 (.smax · false) (fun a b => ⟨BitVec.ofInt 64 (max a.toInt b.toInt), 0⟩) ∧
  Scal2 (.smax · true) (fun a b => ⟨BitVec.ofNat 64 (max a.toNat b.toNat), 0⟩) ∧
  (∀ cond, Scal2 (.scmp · cond) fun a b => truth (scalarCompared cond a b)) ∧
  (∀ sh, Scal2 (.slea · sh) fun a b => ⟨BitVec.ofNat 64 (a.toNat + b.toNat * 2 ^ sh.toNat), 0⟩) ∧
  ∀ word ia ib vx : Word, let sub := (field vx 16 4).toNat
    let ext := (if field word 8 8 = 0xBF then [ia] else []) ++ (if field word 0 8 = 0xBF then [ib] else []) ++ [vx]
    (∀ i, decode .u word ext = .ok i →
      (field word 25 7 = 0x02 → ∃ f op, i = .klop f op ∧ op.toNat = sub) ∧
      (field word 25 7 = 0x0F → ∃ f cond, i = .scmp f cond ∧ cond.val = sub)) ∧
    (field word 25 7 = 0x02 ∧ 8 ≤ sub ∨ field word 25 7 = 0x0F ∧ 10 ≤ sub →
      ∀ s w x s1, TurnAt s w x .u word ext s1 → step s = .next (s1.trapC w x 0x01))

/-- R155, R157: logic, shifts, fields and bit counts of the U class. SUB 1 makes SBFE signed, and SUB 2 to 15 raise 0x01
there. -/
def Obligations.ScalarBits : Prop :=
  Scal2 .sand (fun a b => ⟨a &&& b, 0⟩) ∧ Scal2 .sor (fun a b => ⟨a ||| b, 0⟩) ∧ Scal2 .sxor (fun a b => ⟨a ^^^ b, 0⟩) ∧
  Scal2 .sshl (fun a b => ⟨BitVec.ofNat 64 (a.toNat * 2 ^ (b.toNat % 64)), 0⟩) ∧
  Scal2 .sshr (fun a b => ⟨BitVec.ofNat 64 (a.toNat / 2 ^ (b.toNat % 64)), 0⟩) ∧
  Scal2 .ssar (fun a b => ⟨BitVec.ofInt 64 (a.toInt / 2 ^ (b.toNat % 64)), 0⟩) ∧
  Scal2 .srot (fun a b => ⟨a <<< (b.toNat % 64) ||| a >>> (64 - b.toNat % 64), 0⟩) ∧
  Scal2 (.sbfe · false) (fun a b => ⟨(a.extractLsb' (b.toNat % 64) (scalarWidth b)).setWidth 64, 0⟩) ∧
  Scal2 (.sbfe · true) (fun a b => ⟨(a.extractLsb' (b.toNat % 64) (scalarWidth b)).signExtend 64, 0⟩) ∧
  (∀ f : DWord → DWord → DWord → DWord,
    (∀ a b c i, i < 64 → (f a b c).getLsbD i =
      if c.toNat % 64 ≤ i ∧ i < c.toNat % 64 + scalarWidth c then b.getLsbD (i - c.toNat % 64) else a.getLsbD i) →
    Scal3 .sbfi fun a b c => ⟨f a b c, 0⟩) ∧
  Scal1 .spopc (fun a => ⟨a.cpop, 0⟩) ∧ Scal1 .sclz (fun a => ⟨a.clz, 0⟩) ∧
  ∀ word ia ib vx : Word, field word 25 7 = 0x1F → let sub := (field vx 16 4).toNat
    let ext := (if field word 8 8 = 0xBF then [ia] else []) ++ (if field word 0 8 = 0xBF then [ib] else []) ++ [vx]
    (∀ i, decode .u word ext = .ok i → ∃ f, i = .sbfe f (sub == 1)) ∧
    (2 ≤ sub → ∀ s w x s1, TurnAt s w x .u word ext s1 → step s = .next (s1.trapC w x 0x01))

/-! ### M instructions -/

/-- R109, R110, R191 to R193, R196: LD, SLD and LDP issue: the load is in flight for the active lanes, each at s[base]
+ (sext(x) << SH) + sext(OFS), or once at s[base] + sext(OFS) for SLD; nothing is written yet. R191 to R195, R197,
R251: ST, SST and STP issue: one entry joins the wave's store queue with each lane's bytes; a store with a scope waits
until its release may go on. R191, R199, R255: ATOM and ATOMP issue: one entry joins the wave's store queue with each
lane's operand; a returning form is a load as well. R202, R203, R205, R206, R355: TEX, TLD and TQ issue: TEX keeps its
coordinates and the level of each lane, TLD its texel coordinates and level, TQ its level. In part it states the
model's own choices: log 20, 24, 30. -/
def Obligations.AccessesIssue : Prop :=
  ((∀ g d m la sz scope pol, Loads (.ld g d m la sz scope pol) g fun _ v x =>
    { operands := v.addrOk x m && v.mDstOk x d (szRegs sz), reads := v.addrReads x m, writes := v.mWrites x d (szRegs sz)
      room := decide (v.mem.nLd < 63)
      op := { kind := .ld sz, regs := v.mDstRegs x d (szRegs sz), isO := mdstO d, la := la, acq := scope, pol := pol }
      how := .memory .rd true, bytes := szBytes sz, addrs := v.mAddrs x m (v.active x g) }) ∧
  (∀ g d base ofs la sz scope pol, Loads (.sld g d base ofs la sz scope pol) g fun _ v x =>
    { operands := v.sHeld base.toNat && v.sRegsOk d sz, reads := [regS base.toNat], writes := (sRegs d sz).map regS
      room := decide (v.mem.nLd < 63)
      op := { kind := .sld sz, regs := sRegs d sz, la := la, acq := scope, pol := pol, all := some (v.active x g) }
      how := .memory .rd true, bytes := szBytes sz
      addrs := [((lowest (v.active x g)).getD 0, v.sreg base.toNat + ofs.signExtend 64)] }) ∧
  (∀ g d m la sz acq, Loads (.ldp g d m la sz acq) g fun _ v x =>
    { operands := v.addrOk x m && v.mDstOk x d (szRegs sz), reads := v.addrReads x m, writes := v.mWrites x d (szRegs sz)
      room := decide (v.mem.nLd < 63) && (!acq || v.padDrained)
      op := { kind := .ldp sz, regs := v.mDstRegs x d (szRegs sz), isO := mdstO d, la := la, acq := bnat acq }
      how := .pad false, bytes := szBytes sz, addrs := v.mAddrs x m (v.active x g) }) ∧
  (∀ (v : Wave) x (m : MAddr) t, v.mAddr x m t = v.sreg m.base.toNat +
    ((laneAt (v.readM x m.x) t).signExtend 64 <<< m.sh.toNat) + m.ofs.signExtend 64)) ∧
  ((∀ g d m sz scope pol, Stores (.st g d m sz scope pol) g fun s v x =>
    { operands := v.addrOk x m && v.mSrcOk x d (szRegs sz), reads := v.addrReads x m ++ v.mSrcReads x d (szRegs sz)
      room := decide (v.mem.nSt < 63) && decide (v.mem.nUa < 63) && (decide (scope = 0) || s.released v x scope)
      pad := false, bytes := szBytes sz, addrs := v.mAddrs x m (v.active x g), data := v.mData x d sz }) ∧
  (∀ g d base ofs sz scope pol, Stores (.sst g d base ofs sz scope pol) g fun s v x =>
    { operands := v.sHeld base.toNat && v.sRegsOk d sz, reads := regS base.toNat :: (sRegs d sz).map regS
      room := decide (v.mem.nSt < 63) && decide (v.mem.nUa < 63) && (decide (scope = 0) || s.released v x scope)
      pad := false, bytes := szBytes sz
      addrs := [((lowest (v.active x g)).getD 0, v.sreg base.toNat + ofs.signExtend 64)], data := fun _ => v.sData d sz }) ∧
  (∀ g d m sz rel, Stores (.stp g d m sz rel) g fun _ v x =>
    { operands := v.addrOk x m && v.mSrcOk x d (szRegs sz), reads := v.addrReads x m ++ v.mSrcReads x d (szRegs sz)
      room := decide (v.mem.nSt < 63) && (!rel || v.padDrained)
      pad := true, bytes := szBytes sz, acq := rel, addrs := v.mAddrs x m (v.active x g), data := v.mData x d sz })) ∧
  ((∀ g op d m scope, Atoms (.atom g op d m scope) g fun _ v x =>
    { operands := v.addrOk x m && v.atomDOk x op.toNat d, reads := v.addrReads x m ++ v.atomReads x op.toNat d
      writes := v.atomWrites x op.toNat d
      room := decide ((match d with | .ret _ _ => v.mem.nLd | _ => v.mem.nSt) < 63) && decide (v.mem.nUa < 63)
      pad := false, op := op.toNat, vault := decide (scope.val ≠ 5), addrs := v.mAddrs x m (v.active x g)
      operand := v.atomOperand x op.toNat d, ret := v.atomRet x op.toNat false d }) ∧
  (∀ g op d m, Atoms (.atomp g op d m) g fun _ v x =>
    { operands := v.addrOk x m && v.atomDOk x op.toNat d, reads := v.addrReads x m ++ v.atomReads x op.toNat d
      writes := v.atomWrites x op.toNat d
      room := decide ((match d with | .ret _ _ => v.mem.nLd | _ => v.mem.nSt) < 63)
      pad := true, op := op.toNat, vault := true, addrs := v.mAddrs x m (v.active x g)
      operand := v.atomOperand x op.toNat d, ret := v.atomRet x op.toNat true d })) ∧
  ((∀ g mode d xr base ofs la pol, Textures (.tex g mode d xr base ofs la pol) g fun v x =>
    { kind := .tex mode, d := d, base := base, ofs := ofs, la := la, pol := pol
      xs := (List.range (if mode.val = 0 then 2 else 3)).map (xr.val + ·)
      args := fun t free =>
        let c := fun i => v.vreg (v.phys x (xr.val + i))
        [c 0, c 1, ofLanes fun i => BitVec.ofNat 32 (t.lod mode (c 0) (c 1) (c 2) free i)] }) ∧
  (∀ g d xr base ofs la pol, Textures (.tld g d xr base ofs la pol) g fun v x =>
    { kind := .tld, d := d, base := base, ofs := ofs, la := la, pol := pol, xs := (List.range 3).map (xr.val + ·)
      args := fun _ _ => [v.vreg (v.phys x xr.val), v.vreg (v.phys x (xr.val + 1)), v.vreg (v.phys x (xr.val + 2))] }) ∧
  (∀ g d xr base ofs la pol, Textures (.tq g d xr base ofs la pol) g fun v x =>
    { kind := .tq, d := d, base := base, ofs := ofs, la := la, pol := pol, xs := (xr.map fun n => n.val).toList
      args := fun _ _ => [(xr.map fun n => v.vreg (v.phys x n.val)).getD []] }))

/-- R198: PREF completes wherever it may execute, changes no register and no byte of memory, and raises nothing,
whatever its addresses translate to. R201: an acquire fence completes once the wave has no load outstanding, and drops
the core's L1 lines at cluster scope or wider; a release fence completes once what it waits for is done, and changes
nothing; FENCE.ar does both. R195, R201: while what a fence waits for is not done, its slot waits at the fence:
nothing but the reason of its wait, and the point in the write path it waits for, changes. -/
def Obligations.PrefetchAndFences : Prop :=
  (∀ g m lvl pol s w x v, Issues s w x v → MReady v x g (v.addrOk x m) (v.addrReads x m) [] →
    ∃ t, exec (.pref g m lvl pol) s = .next t ∧
      t = { s with waves := t.waves, cores := t.cores, dies := t.dies, fresh := t.fresh } ∧
      (∀ u, u ≠ w → t.wave? u = s.wave? u) ∧ (lvl.val ≠ 0 → t = { s with waves := t.waves }) ∧
      ∃ v', t.wave? w = some v' ∧ Past v v' x false ∧
        v' = { v with ctl := v'.ctl, mb := if v.active x g = 0 then v.mb else consumed v (v.addrReads x m) }) ∧
  (∀ (scope : Fin 6) s w x v, Issues s w x v → Clear v x →
    (v.mem.nLd = 0 → ∃ t, exec (.fenceAcq scope) s = .next t ∧
      OnlyWave (if 2 ≤ scope.val then s.dropL1 v.core else s) t w fun v' => Passed v v' x) ∧
    (s.released v x scope = true → ∃ t, exec (.fenceRel scope) s = .next t ∧ OnlyWave s t w fun v' => Passed v v' x) ∧
    (s.released v x scope = true → v.mem.nLd = 0 → ∃ t, exec (.fenceAr scope) s = .next t ∧
      OnlyWave (if 2 ≤ scope.val then s.dropL1 v.core else s) t w fun v' => Passed v v' x)) ∧
  (∀ (scope : Fin 6) s w x v, Issues s w x v → Clear v x →
    (v.mem.nLd ≠ 0 → exec (.fenceAcq scope) s = .next (s.hold w x .fence)) ∧
    (s.released v x scope = false → exec (.fenceRel scope) s = .next (s.awaitRelease w x .fence)) ∧
    (s.released v x scope = false → exec (.fenceAr scope) s = .next (s.awaitRelease w x .fence)) ∧
    (∀ r, OnlyWave s (s.hold w x r) w fun v' => v' = v.setSlot x { v.slot x with wait := some r }) ∧
    (∀ r, OnlyWave s (s.awaitRelease w x r) w fun v' =>
      v' = v.setSlot x { v.slot x with wait := some r, mark := some ((v.slot x).mark.getD (s.core v.core).pathSeq) }))

/-- R207, R212: a legal CPY whose ranges lie in what its block and context hold, with fewer than 64 jobs of the wave
under way, gives the core's copy engine one more job and the wave one more pending job; no byte of memory changes.
R213, R214: CPYB closes the pending jobs into the batch of the next number, which it writes; CPYW completes once every
batch up to its number has, and waits until then; a number past the counter traps with 0x03. R215, R216: QSTAT writes
its status words into its group in every lane of the slot, the next instruction sees them, and it changes nothing
else. In part it states the model's own choices: log 31. -/
def Obligations.CopyEngine : Prop :=
  (∀ (base : BitVec 7) (pol : Fin 5) s w x v k si di, let regs := (List.range 4).map fun i => regS (base.toNat + i)
    let a : CpyArgs := ⟨v.sreg base.toNat, v.sreg (base.toNat + 1), v.sreg (base.toNat + 2), v.sreg (base.toNat + 3)⟩
    Issues s w x v →
    MReady v x false (decide (base.toNat % 4 = 0) && (List.range 4).all fun i => v.sHeld (base.toNat + i)) regs [] →
    mget s.blocks v.id.block = some k → a.legal = true →
    s.spaceOf v.id.block k a.ssp (a.f 41 40) (a.f 49 44) = some si →
    s.spaceOf v.id.block k a.dsp (a.f 43 42) (a.f 55 50) = some di →
    s.rangeIn v.id.ctx a.ssp si a.src a.len = true → s.rangeIn v.id.ctx a.dsp di a.dst a.len = true →
    s.jobsOf w v < 64 →
    let id := (s.core v.core).nextJob
    let job : CopyJob :=
      { id := id, wave := w, ctx := v.id.ctx, task := v.id.task, block := v.id.block, src := a.src, dst := a.dst,
        ssp := a.ssp, dsp := a.dsp, scoreOrRank := si, dcoreOrRank := di, len := a.len, bv := a.bv,
        bar := fieldOf a.w3.toNat 19 0, pol := pol, running := none, left := [(0, a.len)], cause := 0, addr := 0,
        barLine := false, missed := none }
    ∃ t, exec (.cpy base pol) s = .next t ∧
      OnlyWave (s.setCore v.core { s.core v.core with jobs := (s.core v.core).jobs ++ [job], nextJob := id + 1 }) t w
        fun v' => v' = { v with ctl := v'.ctl, copy := v'.copy, mb := consumed v regs } ∧ Past v v' x true ∧
          v'.copy = { v.copy with
            pending := v.copy.pending ++ [id]
            ranges := if a.dsp = 0 then v.copy.ranges ++ [(id, a.dst, a.len)] else v.copy.ranges }) ∧
  (∀ base s w x v, Issues s w x v →
    (MReady v x false (v.sHeld base.toNat) [] [regS base.toNat] → v.copy.counter ≠ 0xFFFFFFFF →
      ∃ t, exec (.cpyb base) s = .next t ∧ OnlyWave s t w fun v' =>
        v' = { v with ctl := v'.ctl, copy := v'.copy, regs := v'.regs } ∧ Past v v' x false ∧
        v'.regs = { v.regs with s := v'.regs.s } ∧
        (∀ m, v'.sreg m = if m = base.toNat then v.copy.counter.setWidth 64 + 1 else v.sreg m) ∧
        v'.copy.counter = v.copy.counter + 1 ∧ v'.copy.pending = [] ∧ v'.copy.done = [] ∧
        ∃ b, v'.copy.batches = v.copy.batches ++ [b] ∧ b.n = v.copy.counter.toNat + 1 ∧ b.jobs = v.copy.pending ∧
          b.left = v.copy.pending.length - v.copy.done.length) ∧
    (MReady v x false (v.sHeld base.toNat) [regS base.toNat] [] →
      let n := (v.sreg base.toNat).toNat % 2 ^ 32
      (n ≤ v.copy.counter.toNat → (∀ b ∈ v.copy.batches, b.n ≤ n → b.left = 0) →
        ∃ t, exec (.cpyw base) s = .next t ∧ t = { s with waves := t.waves, cores := t.cores } ∧
          (∀ c, c ≠ v.core → t.core c = s.core c) ∧
          t.core v.core = { s.core v.core with l1 := (t.core v.core).l1 } ∧
          OnlyWave (s.setCore v.core (t.core v.core)) t w fun v' =>
            v' = { v with ctl := v'.ctl, mb := consumed v [regS base.toNat] } ∧ Past v v' x false) ∧
      (n ≤ v.copy.counter.toNat → (∃ b ∈ v.copy.batches, b.n ≤ n ∧ b.left ≠ 0) →
        exec (.cpyw base) s = .next (s.hold w x .cpyw)) ∧
      (v.copy.counter.toNat < n → exec (.cpyw base) s = .next (s.trapC w x 0x03)))) ∧
  (∀ k d s w x v ws, Issues s w x v →
    MReady v x false (v.qstatOk k && v.groupOk x d.val (qstatRegs k)) (qstatReads k)
      ((v.groupRegs x d.val (qstatRegs k)).map regV) →
    s.qstatWords v k = some ws →
    ∃ t, exec (.qstat k d) s = .next t ∧ OnlyWave s t w fun v' =>
      v' = { v with ctl := v'.ctl, regs := v'.regs, mb := consumed v (qstatReads k) } ∧ Past v v' x false ∧
      v'.regs = { v.regs with v := v'.regs.v } ∧
      (∀ i l, i < ws.length → l < 96 → laneAt (v'.vreg (v.phys x (d.val + i))) l =
        if mbit (v.active x false) l = true then BitVec.ofNat 32 (ws.getD i 0) else laneAt (v.vreg (v.phys x (d.val + i))) l) ∧
      ∀ m, (∀ i < ws.length, m ≠ v.phys x (d.val + i)) → v'.vreg m = v.vreg m)

/-- R46, R217: the barrier instructions within their block's pad. BARI sets the expected count of an object that is
not valid, or that is valid and idle; BARA adds its arrivals and bytes and applies the flip test; BARW completes when
the phase differs from v, and else waits at the object, whose next flip lets it go on; BART gives whether it differs
in the slot's lanes. R46, R217: every fault of a barrier instruction leaves the object as it is and traps: an
unaligned BARI with 0x04; an object outside the pad allocation with 0x07; a count out of range, an object that is busy
or not valid, or too many arrivals with 0x03. In part it states the model's own choices: log 32. -/
def Obligations.Barriers : Prop :=
  (∀ (base : BitVec 7) (ofs : BitVec 16) s w x v k, Issues s w x v → mget s.blocks v.id.block = some k →
    let o := (v.sreg base.toNat + ofs.signExtend 64).toNat
    let pad := padKey (k.die * 40 + k.core) (k.padOfs + o)
    let r := s.barAt k o
    o + 16 ≤ k.padLen →
    (∀ e, let n := v.elected x e
      let reads := regS base.toNat :: v.mReads x e
      MReady v x false (v.sHeld base.toNat && v.mOpdOk x e) reads [] → o % 16 = 0 → 1 ≤ n → n ≤ 65535 →
      (k.isValid o = true → r.arr = 0 ∧ r.xb = 0) →
      ∃ t, exec (.bari e base ofs) s = .next t ∧ t = { s with mem := t.mem, blocks := t.blocks, waves := t.waves } ∧
        t.barAt k o = (if k.isValid o = true then { r with exp := n } else ⟨0, n, 0, false⟩) ∧
        (∀ a, a < pad ∨ pad + 16 ≤ a → memByte t.mem a = memByte s.mem a) ∧
        (∀ b, mget t.blocks b = if b = v.id.block ∧ k.isValid o = false then some { k with valid := o :: k.valid }
          else mget s.blocks b) ∧
        OnlyWave { s with mem := t.mem, blocks := t.blocks } t w fun v' =>
          v' = { v with ctl := v'.ctl, mb := consumed v reads } ∧ Past v v' x false) ∧
    (∀ c b, let n := v.elected x c
      let reads := regS base.toNat :: (v.mReads x c ++ v.mReads x b)
      let sum : Bar := { r with arr := r.arr + n, xb := (r.xb + v.elected x b) % 2 ^ 32 }
      MReady v x false (v.sHeld base.toNat && v.mOpdOk x c && v.mOpdOk x b) reads [] → v.mem.nSt = 0 →
      n ≤ 65535 → k.isValid o = true → r.arr + n ≤ r.exp → (v.slot x).wait = none →
      ∃ t, exec (.bara c b base ofs) s = .next t ∧ t = { s with mem := t.mem, waves := t.waves } ∧
        t.barAt k o = (if sum.arr = sum.exp ∧ sum.xb = 0 then { sum with arr := 0, xb := 0, ph := !sum.ph } else sum) ∧
        (∀ a, a < pad ∨ pad + 16 ≤ a → memByte t.mem a = memByte s.mem a) ∧
        (∀ u, u ≠ w → u ∉ k.waves → t.wave? u = s.wave? u) ∧
        (¬(sum.arr = sum.exp ∧ sum.xb = 0) → OnlyWave { s with mem := t.mem } t w fun v' =>
          v' = { v with ctl := v'.ctl, mb := consumed v reads } ∧ Past v v' x true) ∧
        ∃ v', t.wave? w = some v' ∧ v' = { v with ctl := v'.ctl, mb := consumed v reads } ∧
          SteppedDue (v.slot x) (v'.slot x) true) ∧
    (∀ e, let reads := regS base.toNat :: v.mReads x e
      let bit := v.elected x e % 2 == 1
      MReady v x false (v.sHeld base.toNat && v.mOpdOk x e) reads [] → k.isValid o = true →
      (r.ph ≠ bit → ∃ t, exec (.barw e base ofs) s = .next t ∧ OnlyWave s t w fun v' =>
        v' = { v with ctl := v'.ctl, mb := consumed v reads } ∧ Past v v' x false) ∧
      (r.ph = bit → ∃ t, exec (.barw e base ofs) s = .next t ∧ OnlyWave s t w fun v' =>
        v' = { v with ctl := v'.ctl, mb := consumed v reads } ∧ v'.slot x.other = v.slot x.other ∧
        v'.slot x = { v.slot x with wait := some .barw, bar := some o, counted := true }) ∧
      ∀ pd, ∃ t, exec (.bart pd e base ofs) s = .next t ∧ OnlyWave s t w fun v' =>
        v' = { v with ctl := v'.ctl, mb := consumed v reads, regs := v'.regs } ∧ Past v v' x false ∧
        v'.regs = { v.regs with p := v'.regs.p } ∧
        ∀ i l, l < 96 → mbit (v'.preg i) l =
          if i = pd.toNat ∧ mbit (v.active x false) l = true then r.ph ^^ bit else mbit (v.preg i) l)) ∧
  (∀ (base : BitVec 7) (ofs : BitVec 16) s w x v k, Issues s w x v → mget s.blocks v.id.block = some k →
    let a := v.sreg base.toNat + ofs.signExtend 64
    let o := a.toNat
    let r := s.barAt k o
    (∀ e, MReady v x false (v.sHeld base.toNat && v.mOpdOk x e) (regS base.toNat :: v.mReads x e) [] →
      (o % 16 ≠ 0 → exec (.bari e base ofs) s = .next (s.trapAt w x 0x04 0 a 0)) ∧
      (o % 16 = 0 → k.padLen < o + 16 → exec (.bari e base ofs) s = .next (s.trapAt w x 0x07 1 a 0)) ∧
      (o % 16 = 0 → o + 16 ≤ k.padLen → (v.elected x e = 0 ∨ 65535 < v.elected x e ∨
        k.isValid o = true ∧ (r.arr ≠ 0 ∨ r.xb ≠ 0)) → exec (.bari e base ofs) s = .next (s.trapC w x 0x03)) ∧
      (k.padLen < o + 16 → exec (.barw e base ofs) s = .next (s.trapAt w x 0x07 1 a 0) ∧
        ∀ pd, exec (.bart pd e base ofs) s = .next (s.trapAt w x 0x07 1 a 0)) ∧
      (o + 16 ≤ k.padLen → k.isValid o = false → exec (.barw e base ofs) s = .next (s.trapC w x 0x03) ∧
        ∀ pd, exec (.bart pd e base ofs) s = .next (s.trapC w x 0x03))) ∧
    ∀ c b, MReady v x false (v.sHeld base.toNat && v.mOpdOk x c && v.mOpdOk x b)
        (regS base.toNat :: (v.mReads x c ++ v.mReads x b)) [] → v.mem.nSt = 0 →
      (k.padLen < o + 16 → exec (.bara c b base ofs) s = .next (s.trapAt w x 0x07 1 a 0)) ∧
      (o + 16 ≤ k.padLen → (65535 < v.elected x c ∨ k.isValid o = false ∨ r.exp < r.arr + v.elected x c) →
        exec (.bara c b base ofs) s = .next (s.trapC w x 0x03)))

/-! ### Matrix commands, eyelets, the rendering feed -/

/-- R218 to R222: MMA, MLDB and MREL put one command into their core's sequencer, behind the others, and change no
accumulator, no memory and no register. MMA.mac takes its operands from the word in its s register and the descriptor
in the pad; MLDB from its pair of s registers. R218: an MMA.zero, MMA.drain or MREL with id 255, with the id of an
unretired command of its wave, or with AM = 2 and P0 = 255, traps with 0x03; one that finds 64 commands in the
sequencer waits. R226: MWAIT completes once its wave has no unretired command of the id, and waits until then. MSTAT
writes the status word in the slot's lanes and takes the oldest fault record and the overflow mark; MSTAT.slot writes
the slot, with bit 7, where exactly one slot that the wave owns has the id last, and 0 where none has. In part it
states the model's own choices: log 20, 33. -/
def Obligations.MatrixInstructions : Prop :=
  (∀ m s w x v, Issues s w x v → CommandReady s w v m →
    (MReady v x false true [] [] →
      (∃ t, exec (.mmaZero m) s = .next t ∧ Queued s t w v m .zero fun v' =>
        v' = { v with ctl := v'.ctl } ∧ Past v v' x true) ∧
      (∃ t, exec (.mmaDrain m) s = .next t ∧ Queued s t w v m .drain fun v' =>
        v' = { v with ctl := v'.ctl } ∧ Past v v' x true) ∧
      (∃ t, exec (.mrel m) s = .next t ∧ Queued s t w v m .rel fun v' =>
        v' = { v with ctl := v'.ctl } ∧ Past v v' x false)) ∧
    (∀ n : Fin 64, let q := (v.sreg n.val).toNat
      MReady v x false (v.sHeld n.val) [regS n.val] [] → v.mem.nSt = 0 →
      fieldOf q 23 22 = 0 → fieldOf q 3 1 = 0 → fieldOf q 43 24 % 32 = 0 → fieldOf q 63 44 % 64 = 0 →
      (q.testBit 0 = false → fieldOf q 63 44 = 0) →
      ∀ b ha hb, mget s.blocks v.id.block = some b → fieldOf q 43 24 + 32 ≤ b.padLen →
      descOf (s.peekN (padKey v.core (b.padOfs + fieldOf q 43 24)) 32) = some (ha, hb) →
      ∃ t, exec (.mmaMac m n) s = .next t ∧
        Queued s t w v m (.mac (fieldOf q 63 44) (fieldOf q 21 8) (fieldOf q 7 4 + 1) (q.testBit 0) ha.fmt hb.fmt
            ha.len hb.len ha.scale hb.scale) fun v' =>
          v' = { v with ctl := v'.ctl, mb := consumed v [regS n.val] } ∧ Past v v' x true) ∧
    (∀ n : Fin 64, let q := (v.sreg (n.val + 1)).toNat
      let reads := [regS n.val, regS (n.val + 1)]
      MReady v x false (decide (n.val % 2 = 0) && v.sHeld n.val && v.sHeld (n.val + 1)) reads [] →
      fieldOf q 63 32 = 0 → fieldOf q 15 14 = 0 →
      ∃ t, exec (.mldb m n) s = .next t ∧
        Queued s t w v m (.ldb (v.sreg n.val) (64 * fieldOf q 13 0) (64 * fieldOf q 31 16)) fun v' =>
          v' = { v with ctl := v'.ctl, mb := consumed v reads } ∧ Past v v' x false)) ∧
  (∀ (m : MMod) s w x v, Issues s w x v → MReady v x false true [] [] → v.id.kern.matrix = true →
    ∀ i ∈ [Instr.mmaZero m, .mmaDrain m, .mrel m],
      (m.id = 255 ∨ (∃ c ∈ (s.core v.core).cmds, c.wave = w ∧ c.id = m.id) ∨ (m.am.val = 2 ∧ m.p0 = 255) →
        exec i s = .next (s.trapC w x 0x03)) ∧
      (m.id ≠ 255 → (∀ c ∈ (s.core v.core).cmds, c.wave = w → c.id ≠ m.id) → (m.am.val = 2 → m.p0 ≠ 255) →
        64 ≤ (s.core v.core).cmds.length → exec i s = .next (s.hold w x .matrixFull))) ∧
  (∀ s w x v, Issues s w x v → v.id.kern.matrix = true →
    (MReady v x false true [] [] → ∀ id,
      ((∀ c ∈ (s.core v.core).cmds, c.wave = w → c.id ≠ id) → ∃ t, exec (.mwait id) s = .next t ∧
        OnlyWave s t w fun v' => v' = { v with ctl := v'.ctl } ∧ Past v v' x false) ∧
      ((∃ c ∈ (s.core v.core).cmds, c.wave = w ∧ c.id = id) →
        exec (.mwait id) s = .next (s.hold w x .mwait))) ∧
    ∀ d, MReady v x false (v.groupOk x d.val 1) [] ((v.groupRegs x d.val 1).map regV) →
      (∃ t, exec (.mstat none d) s = .next t ∧ OnlyWave s t w fun v' =>
        v' = { v with ctl := v'.ctl, regs := v'.regs, mat := v'.mat } ∧ Past v v' x false ∧
        v'.mat = { v.mat with faults := v.mat.faults.tail, overflow := false } ∧
        RegIs v v' x d.val (let f := v.mat.faults.headD (0, 0)
          BitVec.ofNat 32 (64 - (s.core v.core).acc.length + (if v.mat.overflow = true then 128 else 0) + f.1 * 256
            + f.2.toNat * 65536))) ∧
      ∀ id, let own := (s.core v.core).acc.filter fun e => decide (e.2.owner = w ∧ e.2.lastId = id)
        (own = [] → ∃ t, exec (.mstat (some id) d) s = .next t ∧ OnlyWave s t w fun v' =>
          v' = { v with ctl := v'.ctl, regs := v'.regs } ∧ Past v v' x false ∧ RegIs v v' x d.val 0) ∧
        (∀ n a, own = [(n, a)] → ∃ t, exec (.mstat (some id) d) s = .next t ∧ OnlyWave s t w fun v' =>
          v' = { v with ctl := v'.ctl, regs := v'.regs } ∧ Past v v' x false ∧
          RegIs v v' x d.val (BitVec.ofNat 32 (n + 128))))

/-- R75, R76, R229: MKCAP writes the eyelet of a register of the wave's mailbox range; DROPCAP advances the slot's
generation of its kind; ARM arms a LOCAL register and leaves any other as it is. R77, R228: a SENDV whose eyelet's MAC
fits sends the lanes of D, or the s register D names, and waits; SEND_OUTCOME gives the outcome to the predicate of
the lanes and to the send status, and the SENDV completes. One whose MAC fails counts as forged and traps with 0x14,
the 16th ends the context; one without an active lane completes at once. R73, R77: SEND_ARRIVAL applies a send whose
eyelet names a wave of the sender's context, with the slot's generation, and a register of its mailbox range and kind:
an ARMED register takes the value in the sender's lanes (an s register whole) and becomes FULL, Delivered; a FULL one
refuses it, Busy; a LOCAL one discards it, Target not armed, and the receiver's overwrite is pending with the first
such register: a user-mode slot that sleeps or waits for a mailbox register takes 0x0A with it at once. -/
def Obligations.EyeletsAndSends : Prop :=
  (∀ s w x v, Issues s w x v → v.id.kern.mailboxes = true →
    (∀ (d : BitVec 7) reg, MReady v x false (v.sHeld d.toNat) [] [regS d.toNat] → v.mailReg reg.toNat = true →
      ∃ t, exec (.mkcap d reg) s = .next t ∧ OnlyWave s t w fun v' =>
        v' = { v with ctl := v'.ctl, regs := v'.regs } ∧ Past v v' x false ∧ v'.regs = { v.regs with s := v'.regs.s } ∧
        let kind := if 256 ≤ reg.toNat then 1 else 0
        let gen := mgetD (if 256 ≤ reg.toNat then (s.core v.core).genS else (s.core v.core).genV) v.id.slot 0
        let low := kind * 2 ^ 30 + gen.toNat * 2 ^ 24 + v.id.die * 2 ^ 22 + v.id.core * 2 ^ 16 + v.id.slot * 2 ^ 9
          + reg.toNat
        ∀ m, v'.sreg m = if m = d.toNat then BitVec.ofNat 64 (s.eyeletMac v.id.ctx low * 2 ^ 32 + low) else v.sreg m) ∧
    (MReady v x false true [] [] → ∀ sc, ∃ t, exec (.dropcap sc) s = .next t ∧ ∃ c, OnlyWave (s.setCore v.core c) t w
        (fun v' => v' = { v with ctl := v'.ctl } ∧ Past v v' x false) ∧
      c = { s.core v.core with genV := c.genV, genS := c.genS } ∧
      (∀ n, mgetD c.genV n 0 = mgetD (s.core v.core).genV n 0 + if sc = false ∧ n = v.id.slot then 1 else 0) ∧
      ∀ n, mgetD c.genS n 0 = mgetD (s.core v.core).genS n 0 + if sc = true ∧ n = v.id.slot then 1 else 0) ∧
    (MReady v x false true [] [] → ∀ reg, v.mailReg reg.toNat = true → v.stillWrites reg.toNat = false →
      ∃ t, exec (.arm reg) s = .next t ∧ OnlyWave s t w fun v' =>
        v' = { v with ctl := v'.ctl, mb := v'.mb } ∧ Past v v' x false ∧
        ∀ n, v'.mbState n = if n = reg.toNat ∧ v.mbState n = .local_ then .armed else v.mbState n)) ∧
  (∀ s w x v, Issues s w x v → v.id.kern.mailboxes = true →
    (∀ g pd (cap : BitVec 7) d, let reads := regS cap.toNat :: v.mReads x d
      MReady v x g (v.sHeld cap.toNat && v.mOpdOk x d) reads [] →
      let c := (v.sreg cap.toNat).toNat
      let fits := c / 2 ^ 32 = s.eyeletMac v.id.ctx (c % 2 ^ 32)
      (v.active x g = 0 → ∃ t, exec (.sendv g pd cap d) s = .next t ∧ OnlyWave s t w fun v' => Passed v v' x) ∧
      (v.active x g ≠ 0 → v.send = none →
        (fits → (c / 2 ^ 30 % 4 = 1 → ∃ n, d = .s n) → ∃ t, exec (.sendv g pd cap d) s = .next t ∧
          OnlyWave s t w fun v' => v' = { v with ctl := v'.ctl, mb := consumed v reads, send := v'.send } ∧
            Waits v v' x .send ∧ ∃ q : Send, v'.send = some q ∧ q.slot = x ∧ q.lanes = v.active x g ∧ q.pd = pd ∧
              q.cap = v.sreg cap.toNat ∧ q.outcome = none ∧ (∀ t, laneAt q.vec t = laneAt (v.readM x d) t) ∧
              ∀ n, d = .s n → q.scal = v.sreg n.val) ∧
        (fits → c / 2 ^ 30 % 4 = 1 → (∀ n, d ≠ .s n) → exec (.sendv g pd cap d) s = .next (s.trapC w x 0x03)) ∧
        (¬fits → ∀ k, mget s.ctxs v.id.ctx = some k →
          let s1 := s.setCtx v.id.ctx { k with forged := k.forged + 1 }
          exec (.sendv g pd cap d) s =
            .next (if 16 ≤ k.forged + 1 then s1.terminate v.id.ctx 0x14 0 else s1.trapC w x 0x14)))) ∧
    ∀ q o, v.send = some q → q.outcome = some o → ∃ t, exec (.sendOutcome w) s = .next t ∧ OnlyWave s t w fun v' =>
      v' = { v with ctl := v'.ctl, send := none, regs := v'.regs } ∧ Past v v' q.slot true ∧
      v'.regs = { v.regs with p := v'.regs.p, sendst := o } ∧
      ∀ i t, t < 96 → mbit (v'.preg i) t =
        if i = q.pd.toNat ∧ mbit q.lanes t = true then decide (o = 0) else mbit (v.preg i) t) ∧
  (∀ s w v q u (kind gen die core slot reg : Nat), s.wave? w = some v → v.send = some q → q.outcome = none →
    kind < 2 → gen < 64 → die < 4 → core < 40 → slot < 96 → reg < 512 →
    q.cap.toNat % 2 ^ 32 = kind * 2 ^ 30 + gen * 2 ^ 24 + die * 2 ^ 22 + core * 2 ^ 16 + slot * 2 ^ 9 + reg →
    let place := (die * 40 + core) * 96 + slot
    let c := s.core (die * 40 + core)
    place ≠ w → s.wave? place = some u → u.id.ctx = v.id.ctx →
    (mgetD (if kind = 1 then c.genS else c.genV) slot 0).toNat = gen →
    u.mailReg reg = true → (kind = 1 ↔ 256 ≤ reg) →
    let o : BitVec 2 := match u.mbState reg with | .armed => 0 | .full => 1 | .local_ => 3
    let first := u.trap.overwrite.getD (BitVec.ofNat 9 reg)
    let takes := fun y => (u.slot y).sup = false ∧ ((u.slot y).wait = some .sleep ∨ (u.slot y).wait = some .scoreboard)
    ∃ a, exec (.sendArrival w) s = .next (a.modWave w fun v => { v with send := some { q with outcome := some o } }) ∧
      match u.mbState reg with
      | .armed => ∃ u', a = s.setWave place u' ∧ u'.mbState reg = .full ∧ u'.mbRegn reg = u.mbRegn reg ∧
        (∀ n, n ≠ reg → u'.mbState n = u.mbState n) ∧ u'.mem = u.mem ∧ u'.trap = u.trap ∧
        (∀ n, u'.sreg n = if kind = 1 ∧ n + 256 = reg then q.scal else u.sreg n) ∧
        ∀ n l, l < 96 → laneAt (u'.vreg n) l =
          if kind = 0 ∧ n = reg ∧ mbit q.lanes l = true then laneAt q.vec l else laneAt (u.vreg n) l
      | .full => a = s.setWave place u
      | .local_ => ((∀ y, (u.slot y).wait ≠ some .sleep ∧ (u.slot y).wait ≠ some .scoreboard) →
          a = s.setWave place { u with trap := { u.trap with overwrite := some first } }) ∧
        ∀ y, takes y → (y = .B → ¬takes .A) →
          a = (s.setWave place { u.wake with trap := { u.trap with overwrite := none } }).trapAt place y 0x0A 0 0
            (first.setWidth 32))

/-- R231, R340, R342, R351: PEMIT takes the oldest n entries of qg, SPLAT of ql, and each active lane's words become
one item the feed holds, with its sequence number; the highest number is remembered, and nothing is released yet
(R233). R232: SEGL, SEGQ and SEGC append one item per active lane, in ascending lane order, to the open path, and
count the segments; PATHEND hands the path to the feed with its number, or discards one without a segment, and leaves
none open. In part it states the model's own choices: log 40, 41. -/
def Obligations.FeedAndPaths : Prop :=
  (∀ g (n : BitVec 4) d (seq : BitVec 7) s w x v, Issues s w x v →
    let reads := regS seq.toNat :: v.mReads x d
    let sel := (v.sreg seq.toNat).toNat
    let act := v.active x g
    let k := n.toNat
    MReady v x g (v.sHeld seq.toNat && v.mOpdOk x d) reads [] →
    (act = 0 → ∀ i ∈ [Instr.pemit g n d seq, .splat g n d seq], ∃ t, exec i s = .next t ∧
      OnlyWave s t w fun v' => Passed v v' x) ∧
    (act ≠ 0 → ∀ rs u, ReadsRaster s v x (v.sreg seq.toNat) rs u →
      (∀ a, memByte u.mem a = memByte s.mem a) ∧
      (let number := fun t => sequenced (sel % 2 ^ 32) (sel / 2 ^ 32 % 2 ^ 16) (laneAt (v.readM x d) t).toNat
        let seqs := (ascending act).map number
        let items := (ascending act).map fun t => FeedItem.prim rs (gathered v.feed.qg k t) (number t)
        7 ≤ k → k ≤ v.feed.qg.length → rs.pkern ≠ 0 → NeverFalls v.feed.highest seqs →
        (∀ t ∈ ascending act, ((gathered v.feed.qg k t).getD 0 0).toNat ∈ [0, 4, 8]) →
        ∃ t, exec (.pemit g n d seq) s = .next t ∧ OnlyWave u t w fun v' =>
          v' = { v with ctl := v'.ctl, mb := consumed v reads, feed := v'.feed } ∧ Past v v' x false ∧
          v'.feed = { v.feed with
            qg := v.feed.qg.drop k, highest := seqs.getLastD v.feed.highest, held := v.feed.held ++ items }) ∧
      (let q := sequenced (sel % 2 ^ 32) (sel / 2 ^ 32 % 2 ^ 16) 0
        let items := (ascending act).map fun t => FeedItem.splat rs (gathered v.feed.ql k t) (laneAt (v.readM x d) t) q
        k = 9 → k ≤ v.feed.ql.length → v.feed.highest.toNat ≤ q.toNat →
        ∃ t, exec (.splat g n d seq) s = .next t ∧ OnlyWave u t w fun v' =>
          v' = { v with ctl := v'.ctl, mb := consumed v reads, feed := v'.feed } ∧ Past v v' x false ∧
          v'.feed = { v.feed with
            ql := v.feed.ql.drop k, highest := q, held := v.feed.held ++ items }))) ∧
  (∀ s w x v, Issues s w x v →
    (∀ (g : Bool) (d : Fin 160), let at_ := fun i t => (laneAt (v.vreg (v.phys x (d.val + i))) t).toInt
      let adds := fun (i : Instr) (n segs : Nat) (item : Nat → Seg) =>
        let reads := (v.groupRegs x d.val n).map regV
        MReady v x g (v.groupOk x d.val n) reads [] →
        (v.active x g = 0 → ∃ t, exec i s = .next t ∧ OnlyWave s t w fun v' => Passed v v' x) ∧
        (v.active x g ≠ 0 → (segs = 1 → v.feed.path ≠ [] ∧ v.feed.segs + (ascending (v.active x g)).length ≤ 65536) →
          ∃ t, exec i s = .next t ∧ OnlyWave s t w fun v' =>
            v' = { v with ctl := v'.ctl, mb := consumed v reads, feed := v'.feed } ∧ Past v v' x false ∧
            v'.feed = { v.feed with
              path := v.feed.path ++ (ascending (v.active x g)).map item
              segs := v.feed.segs + segs * (ascending (v.active x g)).length }) ∧
        (v.active x g ≠ 0 → segs = 1 → v.feed.path = [] ∨ 65536 < v.feed.segs + (ascending (v.active x g)).length →
          exec i s = .next (s.trapC w x 0x03))
      adds (.segl g true d) 2 0 (fun t => .move (at_ 0 t) (at_ 1 t)) ∧
      adds (.segl g false d) 2 1 (fun t => .line (at_ 0 t) (at_ 1 t)) ∧
      adds (.segq g d) 4 1 (fun t => .quad (at_ 0 t) (at_ 1 t) (at_ 2 t) (at_ 3 t)) ∧
      adds (.segc g d) 6 1 (fun t => .cubic (at_ 0 t) (at_ 1 t) (at_ 2 t) (at_ 3 t) (at_ 4 t) (at_ 5 t))) ∧
    ∀ eo (seq tgt : BitVec 7) g u, let reads := [regS seq.toNat, regS tgt.toNat]
      let sel := (v.sreg seq.toNat).toNat
      let q := sequenced (sel % 2 ^ 32) (sel / 2 ^ 32 % 2 ^ 16) (sel / 2 ^ 48)
      MReady v x false (v.sHeld seq.toNat && v.sHeld tgt.toNat) reads [] →
      ReadsTarget s v x (v.sreg tgt.toNat) g u → v.feed.highest.toNat ≤ q.toNat →
      (∀ a, memByte u.mem a = memByte s.mem a) ∧
      ∃ t, exec (.pathend eo seq tgt) s = .next t ∧ OnlyWave u t w fun v' =>
        v' = { v with ctl := v'.ctl, mb := consumed v reads, feed := v'.feed } ∧ Past v v' x false ∧
        v'.feed = { v.feed with
          path := [], segs := 0, highest := q
          held := v.feed.held ++ [if v.feed.segs = 0 then .skip q else .path g v.feed.path eo q] })

/-- R234, R349: ORDB lets each lane with a ticket enter its section once no earlier ticket of its pixel stands before it,
and completes once none waits; ORDE releases the tickets of the slot's lanes in a section; BLND makes one request per lane
whose pixel lies in the target, and traps with 0x03 where an active lane has no ticket. -/
def Obligations.OrderedSections : Prop :=
  ∀ s w x v, Issues s w x v →
    (MReady v x false true [] [] → v.id.kern.ordered = true →
      let need := (ascending (v.active x false)).filter fun t =>
        !mbit v.feed.section_ t && (mget v.feed.tickets t).isSome
      ((∀ t ∈ need, s.mayEnter v t = true) → ∃ t, exec .ordb s = .next t ∧ OnlyWave s t w fun v' =>
        v' = { v with ctl := v'.ctl, feed := v'.feed } ∧ Past v v' x false ∧
        v'.feed = { v.feed with section_ := v'.feed.section_ } ∧
        ∀ l, l < 96 → mbit v'.feed.section_ l = (mbit v.feed.section_ l || decide (l ∈ need))) ∧
      ((∃ t ∈ need, s.mayEnter v t = false) → ∃ t, exec .ordb s = .next t ∧ OnlyWave s t w fun v' =>
        v' = { v with ctl := v'.ctl, feed := v'.feed } ∧ v'.slot x = (v.slot x).held .ordb ∧
        ∀ l, l < 96 → mbit v'.feed.section_ l =
          (mbit v.feed.section_ l || (decide (l ∈ need) && s.mayEnter v l))) ∧
      (v.mem.nSt = 0 → v.mem.nUa = 0 → ∃ t, exec .orde s = .next t ∧
        (let out := fun l => decide (l < 96) && mbit (v.active x false) l && mbit v.feed.section_ l
        t.gfx = { s.gfx with tickets := s.gfx.tickets.filter fun e =>
          !(decide (e.1 = v.id.task) && decide (e.2.2.2.2.1 = w) && out e.2.2.2.2.2) } ∧
        OnlyWave { s with gfx := t.gfx } t w fun v' =>
          v' = { v with ctl := v'.ctl, feed := v'.feed } ∧ Past v v' x false ∧
          v'.feed = { v.feed with
            section_ := v'.feed.section_, tickets := v.feed.tickets.filter (fun e => !out e.1)
            deferred := if v'.feed.section_ = 0 then none else v.feed.deferred } ∧
          ∀ l, l < 96 → mbit v'.feed.section_ l = (mbit v.feed.section_ l && !mbit (v.active x false) l)))) ∧
    ∀ g mode (d : Fin 160) (tgt : BitVec 7), let reads := regS tgt.toNat :: (v.groupRegs x d.val 4).map regV
      let act := v.active x g
      MReady v x g (v.sHeld tgt.toNat && decide (d.val % 4 = 0) && v.groupOk x d.val 4) reads [] →
      (act = 0 → ∃ t, exec (.blnd g mode d tgt) s = .next t ∧ OnlyWave s t w fun v' => Passed v v' x) ∧
      ((∃ t ∈ ascending act, mget v.feed.tickets t = none) →
        exec (.blnd g mode d tgt) s = .next (s.trapC w x 0x03)) ∧
      (act ≠ 0 → (∀ t ∈ ascending act, (mget v.feed.tickets t).isSome = true) → ∀ k u,
        ReadsTarget s v x (v.sreg tgt.toNat) k u → k.format ≠ 3 →
        let rgba := fun l => (List.range 4).map fun i => laneAt (v.vreg (v.phys x (d.val + i))) l
        let item := fun l => (mget v.feed.tickets l).bind fun e =>
          if e.px < k.width ∧ e.py < k.height then some (FeedItem.blend k mode e.px e.py e.seq (rgba l)) else none
        (∀ a, memByte u.mem a = memByte s.mem a) ∧
        ∃ t, exec (.blnd g mode d tgt) s = .next t ∧ OnlyWave u t w fun v' =>
          v' = { v with ctl := v'.ctl, mb := consumed v reads, feed := v'.feed } ∧ Past v v' x false ∧
          v'.feed = { v.feed with held := v.feed.held ++ (ascending act).filterMap item })

/-! ### Branches, calls, loops, the pool and system instructions -/

/-- R117, R130, R133: NOP changes nothing. BRA goes to its target where its condition holds, and to the next
instruction where not; JMPI goes to the address in its register, after its checks; a target outside the innermost loop
traps with 0x09. R33, R131: BRP with t the lanes of the slot that take it and n those that do not: with none it goes
on, with all it transfers, and otherwise it splits the slot under a MERGE entry at J, the taken lanes in the other
slot where that is empty, else in a PATH entry. R34, R132: JOIN parks the slot's lanes in the youngest entry they fit,
and the settle step follows; where none fits, the slot goes on at its join address. A JOIN without a join address
traps with 0x03. In part it states the model's own choices: log 13. -/
def Obligations.BranchesAndArrivals : Prop :=
  (∀ s w x v, Issues s w x v →
    (CReady v x true [] [] → ∃ t, exec .nop s = .next t ∧ OnlyWave s t w fun v' =>
      v' = { v with ctl := v'.ctl } ∧ Past v v' x false) ∧
    (CReady v x true [] [] → ∀ cond sense (ofs : BitVec 19),
      let c := (match cond with | .always => true | .k n => v.regs.k.toNat.testBit n.toNat) != sense
      let tgt := offset (v.slot x).nextPc 19 ofs
      (c = false → ∃ t, exec (.bra cond sense ofs) s = .next t ∧ OnlyWave s t w fun v' =>
        v' = { v with ctl := v'.ctl } ∧ Past v v' x false) ∧
      (c = true → v.targetOk tgt = true → (v.slot x).isLast = true → ∃ t, exec (.bra cond sense ofs) s = .next t ∧
        OnlyWave s t w fun v' => v' = { v with ctl := v'.ctl } ∧ Goes v v' x tgt) ∧
      (c = true → v.targetOk tgt = false → exec (.bra cond sense ofs) s = .next (s.trapC w x 0x09)) ∧
      (c = true → v.targetOk tgt = true → (v.slot x).isLast = false →
        exec (.bra cond sense ofs) s = .next (s.trapC w x 0x02))) ∧
    ∀ r : BitVec 7, let a := v.sreg r.toNat
      CReady v x (v.sHeld r.toNat) [regS r.toNat] [] →
      (a.toNat % 4 ≠ 0 → exec (.jmpi r) s = .next (s.trapAt w x 0x04 0 a 0)) ∧
      (a.toNat % 4 = 0 → 2 ^ 48 ≤ a.toNat → exec (.jmpi r) s = .next (s.trapAt w x 0x05 3 a 0)) ∧
      (a.toNat % 4 = 0 → a.toNat < 2 ^ 48 → v.targetOk (a.setWidth 48) = false →
        exec (.jmpi r) s = .next (s.trapC w x 0x09)) ∧
      (a.toNat % 4 = 0 → a.toNat < 2 ^ 48 → v.targetOk (a.setWidth 48) = true → (v.slot x).isLast = true →
        ∃ t, exec (.jmpi r) s = .next t ∧ OnlyWave s t w fun v' =>
          v' = { v with ctl := v'.ctl, mb := consumed v [regS r.toNat] } ∧ Goes v v' x (a.setWidth 48))) ∧
  (∀ (p : BitVec 5) sense (ofs : BitVec 19) (join : BitVec 24) s w x v (t n : Mask), Issues s w x v →
    CReady v x true [] [] → ListHere s v 4 →
    let q := v.slot x
    let tgt := offset q.nextPc 19 ofs
    let j := offset q.nextPc 24 join
    (∀ l, l < 96 → mbit t l = (mbit q.mask l && (mbit (v.preg p.toNat) l ^^ sense))) →
    (∀ l, l < 96 → mbit n l = (mbit q.mask l && !mbit t l)) →
    let i := Instr.brp p sense ofs join
    (t = 0 → ∃ s', exec i s = .next s' ∧ OnlyWave s s' w fun v' => v' = { v with ctl := v'.ctl } ∧ Past v v' x false) ∧
    (t ≠ 0 → v.targetOk tgt = false → exec i s = .next (s.trapC w x 0x09)) ∧
    (t ≠ 0 → n = 0 → v.targetOk tgt = true → q.isLast = true → ∃ s', exec i s = .next s' ∧
      OnlyWave s s' w fun v' => v' = { v with ctl := v'.ctl } ∧ Goes v v' x tgt) ∧
    (t ≠ 0 → n ≠ 0 → v.targetOk tgt = true → q.isLast = true → ∃ s' u, exec i s = .next s' ∧
      u = { v with ctl := u.ctl } ∧
      u.ctl = { v.ctl with a := u.ctl.a, b := u.ctl.b, issued := u.ctl.issued, last := x } ∧
      SteppedDue { q with mask := n, join := some j, cont := some q.nextPc } (u.slot x) false ∧
      let merge : REntry := ⟨true, j, q.mask, 0, q.join, 0⟩
      let path : REntry := ⟨false, tgt, t, 0, some j, 0⟩
      if (v.slot x.other).phase = .empty then
        u.slot x.other = (v.slot x.other).take v.id.march path ∧ Settled s s' w u (v.ctl.recon ++ [merge])
      else u.slot x.other = v.slot x.other ∧ Settled s s' w u (v.ctl.recon ++ [merge, path]))) ∧
  (∀ s w x v, Issues s w x v → CReady v x true [] [] → ListHere s v 6 →
    ((v.slot x).join = none → exec .join s = .next (s.trapC w x 0x03)) ∧
    ∀ j, (v.slot x).join = some j → (v.slot x).isLast = true →
      ((∀ e ∈ v.ctl.recon, ¬Fits (v.slot x) e) → ∃ t, exec .join s = .next t ∧ OnlyWave s t w fun v' =>
        v' = { v with ctl := v'.ctl } ∧ Goes v v' x j) ∧
      ∀ old e young, v.ctl.recon = old ++ e :: young → Fits (v.slot x) e → (∀ y ∈ young, ¬Fits (v.slot x) y) →
        ∃ t u, exec .join s = .next t ∧ u = { v with ctl := u.ctl } ∧
          u.ctl = { v.ctl with a := u.ctl.a, b := u.ctl.b, issued := u.ctl.issued, last := x } ∧
          u.slot x.other = v.slot x.other ∧ u.slot x = (v.slot x).emptied ∧
          Settled s t w u (old ++ { e with arrived := e.arrived ||| (v.slot x).mask } :: young))

/-- R69, R134: CALL and CALLI push a call frame with the return address, rb, the slot's mask and the loop depth, set
rb to 0, and go to their target; the 33rd frame traps with 0x03. RET pops the frame, restores rb and goes back; an
open loop or a different mask traps with 0x09. R64, R138: LOOP and LOOPI with a count above 0 append the exit MERGE,
open a loop frame, set the loop registers of the depth and, for a pipelined loop, rb and the stage predicates, and go
on with the next instruction; with a count of 0 they transfer to the exit, which is the clause behind the one at le.
R66, R140: LBRK marks its lanes as arrived from the loop's exit MERGE on, takes them out of the loop frame, which goes
where none is left, and out of the slot, which becomes empty where none is left; with no lane it only goes on. In part
it states the model's own choices: log 14. -/
def Obligations.CallsAndLoops : Prop :=
  (∀ s w x v, Issues s w x v → v.frameWait x = false →
    let next := (v.slot x).nextPc
    let called := { v with ctl := { v.ctl with
      frames := .call next v.ctl.rb (v.slot x).mask v.depth :: v.ctl.frames, rb := 0 } }
    (CReady v x true [] [] → ∀ ofs : BitVec 19,
      (v.calls < 32 → (v.slot x).isLast = true → ∃ t, exec (.call ofs) s = .next t ∧ OnlyWave s t w fun v' =>
        v' = { v with ctl := v'.ctl } ∧ Goes called v' x (offset next 19 ofs)) ∧
      (32 ≤ v.calls → exec (.call ofs) s = .next (s.trapC w x 0x03))) ∧
    (∀ r : BitVec 7, let a := v.sreg r.toNat
      CReady v x (v.sHeld r.toNat) [regS r.toNat] [] →
      (a.toNat % 4 ≠ 0 → exec (.calli r) s = .next (s.trapAt w x 0x04 0 a 0)) ∧
      (a.toNat % 4 = 0 → 2 ^ 48 ≤ a.toNat → exec (.calli r) s = .next (s.trapAt w x 0x05 3 a 0)) ∧
      (a.toNat % 4 = 0 → a.toNat < 2 ^ 48 → v.calls < 32 → (v.slot x).isLast = true →
        ∃ t, exec (.calli r) s = .next t ∧ OnlyWave s t w fun v' =>
          v' = { v with ctl := v'.ctl, mb := consumed v [regS r.toNat] } ∧ Goes called v' x (a.setWidth 48))) ∧
    (CReady v x true [] [] →
      (∀ ret rb m d below, v.ctl.frames = .call ret rb m d :: below →
        ((v.slot x).mask = m → (v.slot x).isLast = true → ∃ t, exec .ret s = .next t ∧ OnlyWave s t w fun v' =>
          v' = { v with ctl := v'.ctl } ∧
          Goes { v with ctl := { v.ctl with frames := below, rb := rb } } v' x ret) ∧
        ((v.slot x).mask ≠ m → exec .ret s = .next (s.trapC w x 0x09))) ∧
      (callOpen v.ctl.frames = false → exec .ret s = .next (s.trapC w x 0x03)) ∧
      ∀ m st z e tag below, v.ctl.frames = .loop m st z e tag :: below → callOpen below = true →
        exec .ret s = .next (s.trapC w x 0x09))) ∧
  (∀ (r : BitVec 7) (imm : BitVec 25) (cx : LoopCx) s w x v, Issues s w x v → ListHere s v 5 →
    let q := v.slot x
    let st := cx.sm1.toNat + 1
    let z := 8 * cx.nb.val
    let piped := 0 < z ∨ 1 < st
    let le := q.nextPc + 4 * cx.fin.setWidth 48
    let d := v.depth
    v.frameWait x = false → d < 4 → d < v.id.kern.loopDepth → q.nextPc.toNat ≤ le.toNat → v.pastOuter le = false →
    (0 < z → (openLoops v.ctl.frames).any Frame.pipelined = false ∧ 32 + z ≤ 8 * v.regs.g ∧
      v.rotMeetsMailbox z = false) →
    ∀ b s1, s.codeBytes v x le 4 = (.ok b, s1) →
    let exit := le + BitVec.ofNat 48 (hdrSize (unpackHeader (bytesWord b)))
    let tag := v.ctl.nextTag + 1
    let runs := fun (i : Instr) (c : Nat) (reads : List Nat) =>
      (piped → c + st - 1 < 2 ^ 32) →
      (c = 0 → q.isLast = true → ∃ t, exec i s = .next t ∧ OnlyWave s1 t w fun v' =>
        v' = { v with ctl := v'.ctl, mb := consumed v reads } ∧ Goes v v' x exit) ∧
      (c = 0 → q.isLast = false → exec i s = .next (s1.trapC w x 0x02)) ∧
      (c ≠ 0 → ∃ t u, exec i s = .next t ∧
        Settled s1 t w u (v.ctl.recon ++ [⟨true, exit, q.mask, 0, q.join, tag⟩]) ∧
        u.slot x.other = v.slot x.other ∧ SteppedDue { q with join := some exit } (u.slot x) false ∧
        u.ctl = { v.ctl with
          a := u.ctl.a, b := u.ctl.b, issued := u.ctl.issued, last := x
          frames := .loop q.mask st z exit tag :: v.ctl.frames, nextTag := tag, ls := mput v.ctl.ls d q.nextPc
          le := mput v.ctl.le d le, lc := mput v.ctl.lc d (BitVec.ofNat 32 (if piped then c + st - 1 else c))
          rb := if piped then 0 else v.ctl.rb } ∧
        u.regs = { v.regs with p := u.regs.p } ∧
        (∀ k l, l < 96 → mbit (u.preg k) l =
          if piped ∧ mbit q.mask l = true ∧ 24 ≤ k ∧ k < 24 + st then decide (k = 24) else mbit (v.preg k) l) ∧
        u = { v with ctl := u.ctl, regs := u.regs, mb := consumed v reads })
    (CReady v x (v.sHeld r.toNat) [regS r.toNat] [] →
      runs (.loop r cx) ((v.sreg r.toNat).toNat % 2 ^ 32) [regS r.toNat]) ∧
    (CReady v x true [] [] → runs (.loopi imm cx) imm.toNat [])) ∧
  (∀ (p : BitVec 5) sense s w x v (m : Mask), Issues s w x v → CReady v x true [] [] → ListHere s v 6 →
    v.frameWait x = false → (∀ l, l < 96 → mbit m l = (mbit (v.slot x).mask l && (mbit (v.preg p.toNat) l ^^ sense))) →
    ((∀ fm st z e tag below, v.ctl.frames ≠ .loop fm st z e tag :: below) →
      exec (.lbrk p sense) s = .next (s.trapC w x 0x09)) ∧
    ∀ fm st z e tag below, v.ctl.frames = .loop fm st z e tag :: below →
      (m = 0 → ∃ t, exec (.lbrk p sense) s = .next t ∧ OnlyWave s t w fun v' =>
        v' = { v with ctl := v'.ctl } ∧ Past v v' x false) ∧
      (m ≠ 0 → ∀ old ex young, v.ctl.recon = old ++ ex :: young → (∀ o ∈ old, o.tag ≠ tag) → ex.tag = tag →
        ∃ t u, exec (.lbrk p sense) s = .next t ∧ u = { v with ctl := u.ctl } ∧ u.slot x.other = v.slot x.other ∧
          Settled s t w u (old ++ (ex :: young).map fun e =>
            if e.merge = true then { e with arrived := e.arrived ||| (m &&& e.mask) } else e) ∧
          (if (v.slot x).mask &&& ~~~m = 0 then (u.slot x).phase = .empty ∧ (u.slot x).mask = 0
            else SteppedDue { v.slot x with mask := (v.slot x).mask &&& ~~~m } (u.slot x) false) ∧
          u.ctl = { v.ctl with
            a := u.ctl.a, b := u.ctl.b, issued := u.ctl.issued, last := x, frames := u.ctl.frames, lc := u.ctl.lc
            ls := u.ctl.ls, le := u.ctl.le, rb := u.ctl.rb } ∧
          if fm &&& ~~~m = 0 then u.ctl.frames = below ∧ u.ctl.rb = (if 0 < z ∨ 1 < st then 0 else v.ctl.rb) ∧
            (∀ d, mget u.ctl.lc d = if d = v.depth - 1 then none else mget v.ctl.lc d) ∧
            (∀ d, mget u.ctl.ls d = if d = v.depth - 1 then none else mget v.ctl.ls d) ∧
            ∀ d, mget u.ctl.le d = if d = v.depth - 1 then none else mget v.ctl.le d
          else u.ctl.frames = .loop (fm &&& ~~~m) st z e tag :: below ∧ u.ctl.rb = v.ctl.rb ∧ u.ctl.lc = v.ctl.lc ∧
            u.ctl.ls = v.ctl.ls ∧ u.ctl.le = v.ctl.le))

/-- R36, R63, R135: EXIT, unless it removes the last lanes of a handler, takes the slot's lanes out of the live mask,
every frame mask and every MERGE mask, empties the slot, pops the frames that are left without a lane from the
innermost outward, and settles. R31, R35: the settle step. The MERGE entries that are due fire; then slot A, then slot
B, takes the youngest path it may take, where it is empty; a slot that runs a handler takes only paths of the
handler's own lanes. In part it states the model's own choices: log 16. -/
def Obligations.ExitsAndSettling : Prop :=
  (∀ s w x v, Issues s w x v → CReady v x true [] [] → ListHere s v 6 → (v.slot x).isLast = true →
    v.ctl.frames.length ≤ 36 →
    let m := (v.slot x).mask
    (∀ r, v.trap.running = some r →
      ∃ t, t < 96 ∧ mbit v.ctl.live t = true ∧ mbit r.req.lanes t = true ∧ mbit m t = false) →
    ∃ t u, exec .exit s = .next t ∧ u = { v with ctl := u.ctl } ∧ u.slot x.other = v.slot x.other ∧
      u.slot x = (v.slot x).emptied ∧ u.ctl.live = v.ctl.live &&& ~~~m ∧
      u.ctl.frames = (v.ctl.frames.map fun f => f.setMask (f.mask &&& ~~~m)).dropWhile (fun f =>
        decide (f.mask = 0) && (f.isLoop || f.isCall)) ∧
      Settled s t w u (v.ctl.recon.map fun e =>
        if e.merge = true then { e with mask := e.mask &&& ~~~m, arrived := e.arrived &&& ~~~m } else e)) ∧
  (∀ (v : Wave) l, let takes := fun (v : Wave) (x : SlotId) e => v.setSlot x ((v.slot x).take v.id.march e)
    (Idle v .A (fires v.ctl.live l) → Idle v .B (fires v.ctl.live l) → settleWave v l = (v, fires v.ctl.live l)) ∧
    ∀ old e young, fires v.ctl.live l = old ++ e :: young →
      (Idle v .A (fires v.ctl.live l) → (v.slot .B).phase = .empty → Takes v .B e → (∀ y ∈ young, ¬Takes v .B y) →
        settleWave v l = (takes v .B e, old ++ young)) ∧
      ((v.slot .A).phase = .empty → Takes v .A e → (∀ y ∈ young, ¬Takes v .A y) →
        (Idle v .B (old ++ young) → settleWave v l = (takes v .A e, old ++ young)) ∧
        ∀ old' e' young', old ++ young = old' ++ e' :: young' → (v.slot .B).phase = .empty → Takes v .B e' →
          (∀ y ∈ young', ¬Takes v .B y) → settleWave v l = (takes (takes v .A e) .B e', old' ++ young')))

/-- R136, R137: YIELD makes the exchange due at the end of its clause; SLEEP n waits until the time is n ticks on, and
SLEEP 0 does not; SLEEP_TIMEOUT ends it no sooner. R141, R142, R233: REGN, once the wave's loads are in, its windows
closed and the blend units have room, makes o0 to o7 read 0, clears the slot's region-pending bit, lets the feed
release what it holds, and latches the region entry, in either mode, with the register blocks LIVE names. -/
def Obligations.YieldSleepAndRegions : Prop :=
  (∀ s w x v, Issues s w x v → CReady v x true [] [] →
    (∃ t, exec .yield s = .next t ∧ OnlyWave s t w fun v' => v' = { v with ctl := v'.ctl } ∧
      v'.slot x.other = v.slot x.other ∧ SteppedDue { v.slot x with yieldDue := true } (v'.slot x) false) ∧
    (∃ t, exec (.sleep 0) s = .next t ∧ OnlyWave s t w fun v' => v' = { v with ctl := v'.ctl } ∧ Past v v' x false) ∧
    ∀ n : BitVec 20, n ≠ 0 → ∃ t, exec (.sleep n) s = .next t ∧ OnlyWave s t w fun v' =>
      v' = { v with ctl := v'.ctl } ∧ v'.slot x.other = v.slot x.other ∧
      v'.slot x = { v.slot x with wait := some .sleep, deadline := s.time + n.toNat, counted := true } ∧
      ∀ y, (y.time < s.time + n.toNat → y.wave? w = some v' → exec (.sleepTimeout w x) y = .next y) ∧
        (s.time + n.toNat ≤ y.time → y.wave? w = some v' → ∃ z, exec (.sleepTimeout w x) y = .next z ∧
          OnlyWave y z w fun u => u = { v' with ctl := u.ctl } ∧ Done v' u x)) ∧
  (∀ (live : BitVec 20) s w x v, Issues s w x v → v.windowShut x = false → ListHere s v 6 →
    (∀ i, i < 20 → live.toNat.testBit i = true → i < v.regs.g) → v.mem.nLd = 0 → v.windowsClosed = true →
    s.blendRoom v = true →
    ∃ t v', exec (.regn live) s = .next t ∧ t = { s with waves := t.waves, gfx := t.gfx, regs := t.regs } ∧
      (∀ u, u ≠ w → t.wave? u = s.wave? u) ∧ t.wave? w = some v' ∧
      (v.feed.held = [] → t.gfx = s.gfx ∧ t.regs = s.regs) ∧
      (let u := v.feed.held.foldl (fun s i => s.releaseItem w v i) s; t.gfx = u.gfx ∧ t.regs = u.regs) ∧
      v' = { v with ctl := v'.ctl, regs := { v.regs with o := [] }, mb := v'.mb, feed := v'.feed, latch := v'.latch,
                    regnClk := (s.die v.id.die).clk } ∧
      v'.slot x.other = v.slot x.other ∧ (∃ p, SteppedDue (v.slot x) p false ∧ v'.slot x = { p with pend := false }) ∧
      (∀ n, v'.mbState n = v.mbState n ∧ v'.mbRegn n = true) ∧
      v'.feed = { v.feed with held := [], horizon := v'.feed.horizon } ∧
      (v.feed.held = [] → v'.feed.horizon = v.feed.horizon) ∧
      ∃ k, v'.latch = some k ∧ k.slot = x ∧ k.ctl = v'.ctl ∧ k.feed = v'.feed ∧ k.trap = v.trap ∧
        k.regs = { v'.regs with v := k.regs.v } ∧
        ∀ n, mget k.regs.v n = if live.toNat.testBit (n / 8) = true then mget v.regs.v n else none)

/-- R50, R144: CLAIM takes its registers from the core's pool where no request waits and enough are free, and they
read 0; it joins the queue and waits where the head of the queue cannot be granted; RELEASE gives registers back. A
count that is no multiple of 8, or out of range, traps with 0x03. R118, R147 to R152: in user mode RDSR, WRSR, TLBI,
MAPP and SRET trap with 0x12. R149 to R151: in supervisor mode RDSR reads the system register of its index, 0 where
none is there; WRSR writes the two scratch registers and leaves the read-only ones; TLBI removes the entries of its
context that translate the byte of its address, TLBI.all all of them, once the accesses that used one have completed.
-/
def Obligations.PoolAndSystem : Prop :=
  (∀ (n : BitVec 8) s w x v, Issues s w x v → CReady v x true [] [] →
    let k := n.toNat / 8
    let c := s.core v.core
    (n.toNat % 8 ≠ 0 ∨ 160 < 8 * v.regs.g + n.toNat → exec (.claim n) s = .next (s.trapC w x 0x03)) ∧
    (n.toNat % 8 ≠ 0 ∨ 8 * v.regs.g < n.toNat → exec (.release n) s = .next (s.trapC w x 0x03)) ∧
    (n = 0 → 8 * v.regs.g ≤ 160 → ∃ t, exec (.claim n) s = .next t ∧ OnlyWave s t w fun v' =>
      v' = { v with ctl := v'.ctl } ∧ Past v v' x false) ∧
    (n ≠ 0 → n.toNat % 8 = 0 → 8 * v.regs.g + n.toNat ≤ 160 → c.claims = [] → k ≤ c.free →
      ∃ t, exec (.claim n) s = .next t ∧ OnlyWave (s.setCore v.core { c with free := c.free - k }) t w fun v' =>
        v' = { v with ctl := v'.ctl, regs := v'.regs } ∧ Done v v' x ∧
        v'.regs = { v.regs with g := v.regs.g + k, v := v'.regs.v } ∧
        ∀ i, v'.vreg i = if i < 8 * v.regs.g then v.vreg i else []) ∧
    (n ≠ 0 → n.toNat % 8 = 0 → 8 * v.regs.g + n.toNat ≤ 160 → ∀ q rest, c.claims ++ [⟨w, x, k⟩] = q :: rest →
      c.free < q.granules → ∃ v', Waits v v' x .claim ∧ v' = { v with ctl := v'.ctl } ∧
      let t := (s.setWave w v').setCore v.core { c with claims := c.claims ++ [⟨w, x, k⟩] }
      ((∀ b, t.blockStuck b = false) → exec (.claim n) s = .next t)) ∧
    (n.toNat % 8 = 0 → n.toNat ≤ 8 * v.regs.g → (n ≠ 0 → v.pinned (8 * v.regs.g - n.toNat) = false) → c.claims = [] →
      ∃ t, exec (.release n) s = .next t ∧ OnlyWave (s.setCore v.core { c with free := c.free + k }) t w fun v' =>
        v' = { v with ctl := v'.ctl, regs := v'.regs } ∧ Past v v' x false ∧
        v'.regs = { v.regs with g := v.regs.g - k, v := v'.regs.v } ∧
        ∀ i, v'.vreg i = if i < 8 * v.regs.g - n.toNat then v.vreg i else [])) ∧
  (∀ s w x v, Issues s w x v → v.windowShut x = false → (v.slot x).sup = false →
    ∀ d a t idx skip, ∀ i ∈ [Instr.rdsr d idx, .wrsr d idx, .tlbi d, .tlbiAll, .mapp d a t, .sret skip],
      exec i s = .next (s.trapC w x 0x12)) ∧
  (∀ s w x v, Issues s w x v → (v.slot x).sup = true → v.id.march = false →
    (∀ (d : BitVec 7) (idx : BitVec 12), CReady v x (v.sHeld d.toNat) [] [regS d.toNat] →
      let ctx := mget s.ctxs v.id.ctx
      let file := [v.trap.xcause, v.trap.xpc, v.trap.xaddr, v.trap.xmasklo, v.trap.xmaskhi, v.trap.xframe, v.trap.xcode,
        BitVec.ofNat 64 ((ctx.map fun c => c.pool.length).getD 0), BitVec.ofNat 64 ((ctx.map fun c => c.forged).getD 0),
        v.trap.xscratch0, v.trap.xscratch1]
      ∃ t, exec (.rdsr d idx) s = .next t ∧ OnlyWave s t w fun v' =>
        v' = { v with ctl := v'.ctl, regs := v'.regs } ∧ Past v v' x false ∧ v'.regs = { v.regs with s := v'.regs.s } ∧
        ∀ m, v'.sreg m = if m = d.toNat then file.getD idx.toNat 0 else v.sreg m) ∧
    (∀ (r : BitVec 7) (idx : BitVec 12), CReady v x (v.sHeld r.toNat) [regS r.toNat] [] →
      ∃ t, exec (.wrsr r idx) s = .next t ∧ OnlyWave s t w fun v' =>
        v' = { v with ctl := v'.ctl, trap := v'.trap, mb := consumed v [regS r.toNat] } ∧ Past v v' x false ∧
        v'.trap = if idx = 9 then { v.trap with xscratch0 := v.sreg r.toNat }
          else if idx = 10 then { v.trap with xscratch1 := v.sreg r.toNat } else v.trap) ∧
    (s.accessing v.id.ctx = false →
      (∀ r : BitVec 7, CReady v x (v.sHeld r.toNat) [regS r.toNat] [] →
        ∃ t, exec (.tlbi r) s = .next t ∧ OnlyWave { s with dies := t.dies } t w (fun v' =>
            v' = { v with ctl := v'.ctl, mb := consumed v [regS r.toNat] } ∧ Past v v' x false) ∧
          ∀ d k, mget s.dies d = some k → ∃ k', mget t.dies d = some k' ∧ k' = { k with tlb := k'.tlb } ∧
            ∀ e, e ∈ k'.tlb ↔ e ∈ k.tlb ∧ e.hits v.id.ctx e.gen (v.sreg r.toNat).toNat = false) ∧
      (CReady v x true [] [] →
        ∃ t, exec .tlbiAll s = .next t ∧ OnlyWave { s with dies := t.dies } t w (fun v' =>
            v' = { v with ctl := v'.ctl } ∧ Past v v' x false) ∧
          ∀ d k, mget s.dies d = some k → ∃ k', mget t.dies d = some k' ∧ k' = { k with tlb := k'.tlb } ∧
            ∀ e, e ∈ k'.tlb ↔ e ∈ k.tlb ∧ e.ctx ≠ v.id.ctx)))

/-- R400 to R402: a march wave's WRSR sets TSEL and TROW, in the bits they have, and reports a failing row through
TREP. TREP of another wave does nothing. A report without V changes no entry; a row that is listed has its BIT
lowered, where the reported one is lower, and nothing else; a new row is appended as its physical row (R398) with V,
its core, kind, bank and BIT, and with the bank's next unused spare or, once 4 are used, UNREP; with all 64 entries in
use nothing is appended and the bank counts as unrepairable. The status word follows, its verdict still 0 (R395,
R399). In part it states the model's own choices: log 5. -/
def Obligations.RepairReports : Prop :=
  (∀ s w (v : DWord) q, s.wave? w = some q →
    (q.id.march = false → exec (.trep w v) s = .next s) ∧
    (q.id.march = true →
      let p := s.pair q.id.pairIx
      let n := v.toNat
      let row := if fieldOf n 29 28 = 0 then (fieldOf n 21 8 + 256 * fieldOf n 27 22) % 12288 else fieldOf n 21 8
      let bank (m : Nat) := fieldOf m 30 22
      let same (e : Word) := bank e.toNat = bank n ∧ fieldOf e.toNat 21 8 = row
      let spares := (p.repair.filter fun e => bank e.toNat = bank n ∧ e.toNat.testBit 2 = false).length
      ∃ p', exec (.trep w v) s = .next (s.setPair q.id.pairIx p') ∧
        p' = { p with repair := p'.repair, status := p'.status, lostBanks := p'.lostBanks } ∧
        p'.status = BitVec.ofNat 32 p'.counts ∧
        (n.testBit 31 = false → p'.repair = p.repair ∧ p'.lostBanks = p.lostBanks) ∧
        (n.testBit 31 = true → (∃ e ∈ p.repair, same e) → p'.lostBanks = p.lostBanks ∧
          p'.repair = p.repair.map fun e => if same e ∧ fieldOf n 7 3 < fieldOf e.toNat 7 3
            then BitVec.ofNat 32 (e.toNat - 8 * fieldOf e.toNat 7 3 + 8 * fieldOf n 7 3) else e) ∧
        (n.testBit 31 = true → (¬∃ e ∈ p.repair, same e) → p.repair.length < 64 → p'.lostBanks = p.lostBanks ∧
          p'.repair = p.repair ++ [BitVec.ofNat 32 (2 ^ 31 + bank n * 2 ^ 22 + row * 256 + 8 * fieldOf n 7 3 +
            if spares < 4 then spares else 4)]) ∧
        (n.testBit 31 = true → (¬∃ e ∈ p.repair, same e) → 64 ≤ p.repair.length → p'.repair = p.repair ∧
          ∀ b, b ∈ p'.lostBanks ↔ b = bank n ∨ b ∈ p.lostBanks))) ∧
  (∀ s w x v, Issues s w x v → (v.slot x).sup = true → v.id.march = true →
    ∀ r : BitVec 7, CReady v x (v.sHeld r.toNat) [regS r.toNat] [] →
      (∀ idx ∈ [(0x80 : BitVec 12), 0x81], ∃ t, exec (.wrsr r idx) s = .next t ∧ OnlyWave s t w fun v' =>
        v' = { v with ctl := v'.ctl, trap := v'.trap, mb := consumed v [regS r.toNat] } ∧ Past v v' x false ∧
        v'.trap = if idx = 0x80 then { v.trap with tsel := v.sreg r.toNat &&& 0x7FC00000 }
          else { v.trap with trow := v.sreg r.toNat &&& 0x3FFF }) ∧
      ∃ u t, exec (.trep w (v.sreg r.toNat)) s = .next u ∧ exec (.wrsr r 0x83) s = .next t ∧ OnlyWave u t w fun v' =>
        v' = { v with ctl := v'.ctl, mb := consumed v [regS r.toNat] } ∧ Past v v' x false)

/-- R152, R310: MAPP of a range that is mapped already gives 1 and changes no table. One whose pool and window have
what it needs gives 0: it takes the frames the pool gives it out of the pool, fills them with zero, gives them an
intermediate address of the pool window with a stage-2 leaf of RD, W, X and the session key, and writes the stage-1
entry of each page, user-readable, with the W and X of ATTR. One that lacks a frame or room in the window traps with
0x13, a reserved ATTR with 0x03, an unaligned address with 0x04, and one past 2^48 with 0x05. R153: once the wave's
loads are in, and for CFLUSH.mem its stores acknowledged, CFLUSH.l1 completes and drops every line of the core's L1;
CFLUSH and CFLUSH.mem of an address that passes its checks complete, CFLUSH having dropped its line from the core's
L1, and CFLUSH.mem with memory holding the line; an address that fails them traps with its cause. No byte of memory
changes. In part it states the model's own choices: log 34, 35. -/
def Obligations.MappingAndFlushes : Prop :=
  (∀ (d a t : BitVec 7) s w x v, Issues s w x v → (v.slot x).sup = true →
    let reads := [regS a.toNat, regS t.toNat]
    let va := (v.sreg a.toNat).toNat
    let attr := (v.sreg t.toNat).toNat
    let ctx := v.id.ctx
    let n := if attr % 4 = 0 then 1 else if attr % 4 = 1 then 16 else 512
    let stop := if n = 512 then 1 else 0
    CReady v x (v.sHeld d.toNat && v.sHeld a.toNat && v.sHeld t.toNat) reads [regS d.toNat] →
    (16 ≤ attr ∨ attr % 4 = 3 → exec (.mapp d a t) s = .next (s.trapC w x 0x03)) ∧
    (attr < 16 → attr % 4 ≠ 3 → va % (4096 * n) ≠ 0 →
      exec (.mapp d a t) s = .next (s.trapAt w x 0x04 0 (v.sreg a.toNat) 0)) ∧
    (attr < 16 → attr % 4 ≠ 3 → va % (4096 * n) = 0 → 2 ^ 48 ≤ va →
      exec (.mapp d a t) s = .next (s.trapAt w x 0x05 3 (v.sreg a.toNat) 0)) ∧
    (attr < 16 → attr % 4 ≠ 3 → va % (4096 * n) = 0 → va < 2 ^ 48 →
      let held := s.mapped ctx va n 3 (s.s1root ctx)
      (held = .yes → ∃ t', exec (.mapp d a t) s = .next t' ∧ OnlyWave s t' w fun v' =>
        v' = { v with ctl := v'.ctl, regs := v'.regs, mb := consumed v reads } ∧ Past v v' x false ∧
        v'.regs = { v.regs with s := v'.regs.s } ∧ ∀ m, v'.sreg m = if m = d.toNat then 1 else v.sreg m) ∧
      (held = .no → ∀ cause sub, s.mappLacks ctx va n stop = some (cause, sub) →
        exec (.mapp d a t) s = .next (s.trapAt w x cause sub (v.sreg a.toNat) 0)) ∧
      (held = .no → s.mappLacks ctx va n stop = none → ∀ c p ia m at_ l lvl pa,
        mget s.ctxs ctx = some c → c.anyRun n = some p → s.windowFree ctx n = some ia →
        let z := s.takeRun ctx p n (some ia)
        z.s2frames ctx p ia n = some m → m.s1lacks ctx va stop 3 (m.s1root ctx) = (0, at_) →
        let key := fun i => m.s2key ctx l (lvlShift lvl) (at_ + 8 * i)
        let cells := fun i => cellsAt (key i) (bytesOfNat 8 (ia + 4096 * i + (if attr.testBit 2 = true then 16 else 0)
          + (if attr.testBit 3 = true then 8 else 0) + (if n = 16 then 32 else 0) + 5))
        let pages := if n = 512 then 1 else n
        (∀ i, i < pages → ({ m with mem := pokeAll m.mem ((List.range i).flatMap cells) }).s2leaf ctx (at_ + 8 * i)
          = .leaf l lvl pa) → eBit l 9 = false →
        -- the frames have left the pool, and hold zeros
        (∀ f, f ∉ (List.range n).map (p + 4096 * ·) → ∀ z', mget z.ctxs ctx = some z' → z'.pool.count f = c.pool.count f) ∧
        (∀ z', mget z.ctxs ctx = some z' → z'.pool.length = c.pool.length - n) ∧
        Wrote s.mem z.mem ((List.range (4096 * n)).map fun i => (devKey (p + i), 0)) ∧
        -- their leaf in the pool window, where the tables of stage 2 stand
        (n ≠ 16 → ∀ q, leafPlace z ia stop 3 (z.s2root ctx) = some q → m.ctxs = z.ctxs ∧
          Wrote z.mem m.mem (cellsAt (devKey q) (bytesOfNat 8 (c.skey * 2 ^ 48 + p +
            (if (s.reg 0 (oCtx ctx 0x10)).testBit 0 = true then 256 else 0) + 29 + (if n = 512 then 128 else 0))))) ∧
        ∃ t', exec (.mapp d a t) s = .next t' ∧ Wrote m.mem t'.mem ((List.range pages).flatMap cells) ∧ t'.ctxs = m.ctxs ∧
          OnlyWave { s with mem := t'.mem, vm := t'.vm, ctxs := t'.ctxs } t' w fun v' =>
            v' = { v with ctl := v'.ctl, regs := v'.regs, mb := consumed v reads } ∧ Past v v' x false ∧
            v'.regs = { v.regs with s := v'.regs.s } ∧ ∀ m, v'.sreg m = if m = d.toNat then 0 else v.sreg m))) ∧
  ((∀ s w x v, Issues s w x v → CReady v x true [] [] → v.mem.nLd = 0 →
    ∃ t, exec .cflushL1 s = .next t ∧ t.mem = s.mem ∧ (t.core v.core).l1 = [] ∧
      OnlyWave (s.setCore v.core (t.core v.core)) t w fun v' => v' = { v with ctl := v'.ctl } ∧ Past v v' x false) ∧
  (∀ (r : BitVec 7) s w x v a u, Issues s w x v → CReady v x (v.sHeld r.toNat) [regS r.toNat] [] → v.mem.nLd = 0 →
    s.access (v.who x) .rd true 0 (v.sreg r.toNat) 1 = (.ok a, u) →
    ∃ t, exec (.cflush r) s = .next t ∧ (∀ k, memByte t.mem k = memByte s.mem k) ∧
      (t.core v.core).l1 = dropLines (u.core v.core).l1 (fun q => q.line = lineOf (a.keys.headD 0)) ∧
      OnlyWave (u.setCore v.core (t.core v.core)) t w fun v' =>
        v' = { v with ctl := v'.ctl, mb := consumed v [regS r.toNat] } ∧ Past v v' x false) ∧
  (∀ (r : BitVec 7) s w x v a u, Issues s w x v → CReady v x (v.sHeld r.toNat) [regS r.toNat] [] → v.mem.nLd = 0 →
    v.mem.nUa = 0 → s.access (v.who x) .rd true 0 (v.sreg r.toNat) 1 = (.ok a, u) →
    ∃ t, exec (.cflushMem r) s = .next t ∧ (∀ k, memByte t.mem k = memByte s.mem k) ∧
      t.vm = { u.vm with dirty := t.vm.dirty } ∧ mget t.vm.dirty (lineOf (a.keys.headD 0)) = none ∧
      OnlyWave { u with vm := t.vm } t w fun v' =>
        v' = { v with ctl := v'.ctl, mb := consumed v [regS r.toNat] } ∧ Past v v' x false) ∧
  ∀ (r : BitVec 7) s w x v cause sub u, Issues s w x v → CReady v x (v.sHeld r.toNat) [regS r.toNat] [] → v.mem.nLd = 0 →
    v.mem.nUa = 0 → s.access (v.who x) .rd true 0 (v.sreg r.toNat) 1 = (.fault cause sub, u) →
    exec (.cflush r) s = .next (u.trapAt w x cause sub (v.sreg r.toNat) 0) ∧
    exec (.cflushMem r) s = .next (u.trapAt w x cause sub (v.sreg r.toNat) 0))

/-- R145: LAUNCH of a legal card enters one task with the context's next launch number, which its result holds above
status 0; any other card's status is its result, and nothing is enqueued. R146, R270: TBFULL and TBEMPTY, once the
wave's accesses have completed, set or clear the full bit of the record they name and count the change, and leave a
record that has the bit so already as it is. The tile form traps with 0x03 where the running task has no such operand;
a record that is not aligned to 64 bytes traps with 0x04. In part it states the model's own choices: log 37, 44. -/
def Obligations.LaunchAndTiles : Prop :=
  (∀ (r d : BitVec 7) s w x v, Issues s w x v → CReady v x (v.sHeld r.toNat && v.sHeld d.toNat) [regS r.toNat] [regS d.toNat] →
    (v.sreg r.toNat).toNat % 128 = 0 → s.released v x 3 = true →
    let c := s.access (v.who x) .rd false 0 (v.sreg r.toNat) 128
    ∀ a, c.1 = .ok a → let b := a.keys.map (memByte c.2.mem)
    let st := c.2.cardStatus v.id.ctx b
    let after := fun (res : Nat) (v' : Wave) => v' = { v with ctl := v'.ctl, regs := v'.regs, mb := consumed v [regS r.toNat] } ∧
      Past v v' x true ∧ v'.regs = { v.regs with s := v'.regs.s } ∧
      ∀ m, v'.sreg m = if m = d.toNat then BitVec.ofNat 64 res else v.sreg m
    (st ≠ 0 → ∃ t, exec (.launch r d) s = .next t ∧ OnlyWave c.2 t w (after st)) ∧
    (st = 0 → ∀ k, mget c.2.ctxs v.id.ctx = some k → ∃ t task, exec (.launch r d) s = .next t ∧
      mget t.sched.tasks c.2.sched.nextTask = some task ∧ task.ctx = v.id.ctx ∧ task.launch = k.nextLaunch ∧
      task.card = cardOf b ∧ task.status = none ∧ t.sched.nextTask = c.2.sched.nextTask + 1 ∧
      mget t.ctxs v.id.ctx = some { k with nextLaunch := k.nextLaunch + 1 } ∧
      (∀ n, n ≠ c.2.sched.nextTask → mget t.sched.tasks n = mget c.2.sched.tasks n) ∧ t.mem = c.2.mem ∧
      OnlyWave { c.2 with ctxs := t.ctxs, sched := t.sched } t w (after (k.nextLaunch % 2 ^ 32 * 2 ^ 32)))) ∧
  (∀ (full form : Bool) (r : BitVec 7) (idx : BitVec 3) s w x v, Issues s w x v →
    let reads := if form = true then [regS r.toNat] else []
    CReady v x (!form || v.sHeld r.toNat) reads [] →
    let i := if full = true then Instr.tbfull form r idx else .tbempty form r idx
    let named := if form = true then some (v.sreg r.toNat)
      else (mget s.sched.tasks v.id.task).bind fun t => (t.card.tiles[idx.toNat]?).map fun e => e.1
    (named = none → exec i s = .next (s.trapC w x 0x03)) ∧
    ∀ va, named = some va →
      (va.toNat % 64 ≠ 0 → exec i s = .next (s.trapAt w x 0x04 0 va 0)) ∧
      (va.toNat % 64 = 0 → v.mem.nLd = 0 → v.mem.nSt = 0 → v.mem.nUa = 0 →
        let c := s.access (v.who x) .rd false 0 va 64
        let e := c.2.access (v.who x) .wr false 0 va 64
        ∀ a b k ks, c.1 = .ok a → e.1 = .ok b → b.keys = k :: ks → e.2.wave? w = some v →
        let n := e.2.peekN k 64
        let after := fun (v' : Wave) => v' = { v with ctl := v'.ctl, mb := consumed v reads } ∧ Past v v' x true
        (n.testBit 0 = full → ∃ t, exec i s = .next t ∧ OnlyWave e.2 t w after) ∧
        (n.testBit 0 ≠ full → ∃ t, exec i s = .next t ∧
          (t.peekN k 64).testBit 0 = full ∧ fieldOf (t.peekN k 64) 63 1 = fieldOf n 63 1 ∧
          fieldOf (t.peekN k 64) 127 64 = (fieldOf n 127 64 + 1) % 2 ^ 64 ∧ t.peekN k 64 / 2 ^ 128 = n / 2 ^ 128 ∧
          (∀ z, z < k ∨ k + 64 ≤ z → memByte t.mem z = memByte e.2.mem z) ∧
          (∀ u, u ≠ w → t.wave? u = e.2.wave? u) ∧ ∃ v', t.wave? w = some v' ∧ after v')))

/-! ### What happens to a wave between its instructions -/

/-- R98 to R102: CLAUSE_FETCH reads the header at the PC and the 1 + N + XW words of its clause; a legal clause is decoded
whole and starts, or waits at its header while a counter test fails. A PC that is not a multiple of 4, N = 0, a set bit in
[8:0], extension words that do not come out as XW, and a guarded U instruction under PG > 7 trap with 0x02 at the header.
HEADER_WAIT_END starts the clause once both tests hold, and does nothing before. -/
def Obligations.ClauseFetches : Prop :=
  ∀ (w : Nat) (x : SlotId) s v, s.wave? w = some v →
    let p := v.slot x
    let opens := fun (h : Header) => (h.lw = 7 || decide (v.mem.nLd ≤ h.lw.toNat)) &&
      (h.sw = 7 || decide (v.mem.nSt ≤ h.sw.toNat))
    (p.phase = .run → v.mem.miss = [] → p.clause = none → p.firmware = false → v.id.held = false → v.id.march = false →
      p.join ≠ some p.pc → let a := p.pc
      (a.toNat % 4 ≠ 0 → exec (.clauseFetch w x) s = .next (s.trapHead w x 0x02 0 a 0)) ∧
      (a.toNat % 4 = 0 → ∀ b s1, s.codeBytes v x a 4 = (.ok b, s1) →
        let h := unpackHeader (bytesWord b)
        (h.n = 0 ∨ h.low ≠ 0 → exec (.clauseFetch w x) s = .next (s1.trapHead w x 0x02 0 a 0)) ∧
        (h.n ≠ 0 → h.low = 0 → ∀ all s2, s1.codeBytes v x a (4 * (1 + h.n.toNat + h.xw.toNat)) = (.ok all, s2) →
          all.take 4 = b →
          let ws := wordsOfBytes (h.n.toNat + h.xw.toNat) (all.drop 4)
          (∀ items, LegalClause h ws items → ∃ t, exec (.clauseFetch w x) s = .next t ∧
            (∀ k, memByte t.mem k = memByte s.mem k) ∧ OnlyWave s2 t w fun v' => SlotIs v v' x
              { p with
                pos := 0, stale := none, wait := if opens h = true then none else some .header
                clause := some ⟨a, h, items, a + BitVec.ofNat 48 (4 * (1 + h.n.toNat + h.xw.toNat)), !opens h⟩ }) ∧
          ((∀ items, ¬ LegalClause h ws items) → exec (.clauseFetch w x) s = .next (s2.trapHead w x 0x02 0 a 0))))) ∧
    ∀ c, p.clause = some c → c.waiting = true →
      (opens c.hdr = true → ∃ t, exec (.headerWaitEnd w x) s = .next t ∧ OnlyWave s t w fun v' =>
        SlotIs v v' x { p with wait := none, clause := some { c with waiting := false } }) ∧
      (opens c.hdr = false → exec (.headerWaitEnd w x) s = .next s)

/-- R63, R65: at the end of the clause at le, a back edge takes one from lc. Above 0 the slot goes to ls, and a
pipelined loop turns its rotation base and shifts its stage predicates; at 0 the frame goes, lc, ls and le of its
depth read 0, and the slot goes to the exit address. A slot that has not all lanes of the frame traps with 0x09,
subcause 1, at the header; one that has none of them waits. In part it states the model's own choices: log 15. -/
def Obligations.BackEdges : Prop :=
  ∀ (w : Nat) (x : SlotId) s v c m st z exit tag rest, s.wave? w = some v →
    let p := v.slot x
    let d := v.depth - 1
    p.phase = .run → v.mem.miss = [] → p.clause = some c → c.items.length ≤ p.pos → p.cont = none → p.yieldDue = false →
    v.ctl.frames = .loop m st z exit tag :: rest → mgetD v.ctl.le d 0 = c.hpc →
    (p.mask &&& m = 0 → ∃ t, exec (.backEdge w x) s = .next t ∧
      OnlyWave s t w fun v' => SlotIs v v' x { p with wait := some .frame }) ∧
    (p.mask &&& m ≠ 0 → p.mask ≠ m → exec (.backEdge w x) s = .next (s.trapHead w x 0x09 1 c.hpc 0)) ∧
    (p.mask = m → m ≠ 0 → s.listMiss v = none →
      let n := mgetD v.ctl.lc d 0 - 1
      let piped := decide (0 < z ∨ 1 < st)
      (n ≠ 0 → ∃ t, exec (.backEdge w x) s = .next t ∧ OnlyWave s t w fun v' =>
        v' = { v with ctl := v'.ctl, regs := { v.regs with p := v'.regs.p } } ∧
        v'.ctl = { v.ctl with a := v'.ctl.a, b := v'.ctl.b, lc := v'.ctl.lc, rb := v'.ctl.rb } ∧
        v'.slot x.other = v.slot x.other ∧ v'.slot x = p.goto (mgetD v.ctl.ls d 0) ∧
        (∀ k, mgetD v'.ctl.lc k 0 = if k = d then n else mgetD v.ctl.lc k 0) ∧
        v'.ctl.rb = (if 0 < z then (v.ctl.rb + z - 1) % z else v.ctl.rb) ∧
        ∀ i t', t' < 96 → mbit (v'.preg i) t' =
          if piped = true ∧ mbit m t' = true ∧ 24 ≤ i ∧ i < 24 + max 1 st then
            if i = 24 then decide (st - 1 < n.toNat) else mbit (v.preg (i - 1)) t'
          else mbit (v.preg i) t') ∧
      (n = 0 → ∃ t, exec (.backEdge w x) s = .next t ∧ OnlyWave s t w fun v' =>
        v' = { v with ctl := v'.ctl } ∧
        v'.ctl = { v.ctl with a := v'.ctl.a, b := v'.ctl.b, frames := rest, lc := v'.ctl.lc, ls := v'.ctl.ls,
                              le := v'.ctl.le, rb := if piped = true then 0 else v.ctl.rb } ∧
        v'.slot x.other = v.slot x.other ∧ v'.slot x = p.goto exit ∧
        ∀ k, mgetD v'.ctl.lc k 0 = (if k = d then 0 else mgetD v.ctl.lc k 0) ∧
          mgetD v'.ctl.ls k 0 = (if k = d then 0 else mgetD v.ctl.ls k 0) ∧
          mgetD v'.ctl.le k 0 = (if k = d then 0 else mgetD v.ctl.le k 0)))

/-- R50, R135, R234, R235: a wave with no lane left, whose accesses, copies and commands are done, retires: its registers
return to the pool, its accumulator slots and its tickets are free, and no byte of memory changes. A section still open
2^20 clk after a deferred pre-emption request terminates the context with 0x0C. -/
def Obligations.WavesEnd : Prop :=
  ∀ (w : Nat) s v, s.wave? w = some v →
    (v.exited = true → v.quiet = true → v.id.march = false → v.copy.pending = [] → (∀ b ∈ v.copy.batches, b.left = 0) →
      (∀ q ∈ (s.core v.core).cmds, q.wave ≠ w) → v.feed.held = [] → (s.core v.core).claims = [] →
      ∃ t, exec (.waveRetire w) s = .next t ∧ t.wave? w = none ∧ (∀ u, u ≠ w → t.wave? u = s.wave? u) ∧
        t.mem = s.mem ∧ (t.core v.core).free = (s.core v.core).free + s.granulesOf w v ∧
        (∀ n a, mget (t.core v.core).acc n = some a → a.owner ≠ w) ∧
        (∀ n a, mget (s.core v.core).acc n = some a → a.owner ≠ w → mget (t.core v.core).acc n = some a) ∧
        ∀ e, e ∈ t.gfx.tickets ↔ e ∈ s.gfx.tickets ∧ ¬ (e.1 = v.id.task ∧ e.2.2.2.2.1 = w ∧ e.2.2.2.2.2 < 96)) ∧
    ∀ c k, s.liveCtx v.id.ctx = some c → v.feed.deferred = some k → v.feed.section_ ≠ 0 →
      k + 2 ^ 20 ≤ (s.die v.id.die).clk →
      ∃ t, exec (.sectionTimeout w) s = .next t ∧ Terminated s t v.id.ctx 0x0C 0

/-! ### Accesses are carried out -/

/-- R191, R194 to R196, R245, R248: LOAD_LANDING does nothing while an older access stands in the way; otherwise each
due lane whose bytes have been read writes its whole group of registers, and with its last lane the load leaves and
the outstanding-load counter falls. A lane's read takes, byte by byte, the wave's youngest older store, then the
core's write path, then the point of coherence, and the two halves of 16 bytes may be read apart (R253); an acquire at
cluster scope or wider drops the L1 as it ends. In part it states the model's own choices: log 23, 24. -/
def Obligations.LoadsLand : Prop :=
  ∀ w id lanes s v l, s.wave? w = some v → v.mem.loads.find? (fun l => l.id = id) = some l →
    (s.performUpTo w v l lanes = none → exec (.loadLanding w id lanes) s = .next s) ∧
    (∀ s1 v1 l1, s.performUpTo w v l lanes = some s1 → s1.wave? w = some v1 →
      v1.mem.loads.find? (fun l => l.id = id) = some l1 → l1.isO = false → (∀ sz, l1.kind ≠ .sld sz) → l1.regs.Nodup →
      let due := fun (u : Nat) => mbit lanes u && mbit l1.todo u && l1.laneDone u
      ∃ t v', exec (.loadLanding w id lanes) s = .next t ∧ t.mem = s1.mem ∧ t.wave? w = some v' ∧
        (∀ u, u ≠ w → t.wave? u = s1.wave? u) ∧
        (∀ (i r u : Nat) (word : Word), u < 96 → due u = true → l1.regs[i]? = some r → (landed l1 u)[i]? = some word →
          laneAt (v'.vreg r) u = word) ∧
        (∀ r u, u < 96 → r ∉ l1.regs ∨ due u = false → laneAt (v'.vreg r) u = laneAt (v1.vreg r) u) ∧
        ((∀ u, u < 96 → mbit l1.todo u = true → due u = true) →
          v'.mem.loads.find? (fun l => l.id = id) = none ∧ v'.mem.nLd = v1.mem.nLd - 1) ∧
        ((∃ u, u < 96 ∧ mbit l1.todo u = true ∧ due u = false) → v'.mem.nLd = v1.mem.nLd ∧
          ∃ l', v'.mem.loads.find? (fun l => l.id = id) = some l' ∧
            ∀ u, u < 96 → mbit l'.todo u = (mbit l1.todo u && !due u))) ∧
    ∀ a sz, v.mem.loads = [l] → l.kind = .ld sz → l.isO = false → l.regs.Nodup → l.accs = [a] → l.got = [] → a.lane < 96 →
      l.todo = oneLane a.lane → mbit lanes a.lane = true → s.atomicAhead v id a.keys = false →
      l.pol ≠ 2 → a.cached = false ∨ 2 ≤ l.acq →
      let older := v.mem.queue.filter fun e => e.group < id
      let ws := loadWords sz (a.keys.map fun k =>
        (youngest older k).getD ((youngest (s.core v.core).path k).getD (memByte s.mem k)))
      let half := fun (n : Nat) => (a.keys.drop (8 * n)).take 8 |>.map fun k =>
        (youngest older k).getD ((youngest (s.core v.core).path k).getD (memByte s.mem k))
      (sz = 4 → a.keys.length = 16 ∧ a.va.toNat % 16 = 0) →
      ∃ t v', exec (.loadLanding w id lanes) s = .next t ∧ t.mem = s.mem ∧ t.wave? w = some v' ∧
        (∀ c, c ≠ v.core → t.core c = s.core c) ∧
        (v' = { v with regs := { v.regs with v := v'.regs.v }, mem := { v.mem with loads := [], nLd := v.mem.nLd - 1 } } ∧
            (∀ (i r : Nat) (word : Word), l.regs[i]? = some r → ws[i]? = some word → laneAt (v'.vreg r) a.lane = word) ∧
            (∀ r u, u < 96 → r ∉ l.regs ∨ u ≠ a.lane → laneAt (v'.vreg r) u = laneAt (v.vreg r) u) ∧
            (2 ≤ l.acq → (t.core v.core).l1 = []) ∨
          -- of 16 bytes, one half has been read so far
          sz = 4 ∧ ∃ n < 2, v' = { v with mem := { v.mem with
            loads := [{ l with got := [(a.lane + 96 * n, half n)] }] } })

/-- R191, R194, R243, R245, R253, R284, R285: the oldest entry of a store queue leaves it once the loads before it
have been performed. A pad write is performed, whole or one of its single accesses; another, where the core has quota
left for its packet, enters the core's write path behind the others, each access for itself, stamped with the period,
updates the core's L1, and may be refused by a slice that has its share queued. The outstanding-store counter falls
with the last of its instruction. STORE_ACK performs a write of the path that no older entry there meets and no slice
refuses, and the unacknowledged-store counter falls with the last. R199, R200, R245, R255: lanes of an atomic are
performed, in ascending order, once no older write of the core's path meets their bytes and no slice refuses it: each
replaces the old value by the operation's new one in one step, and the core's L1 copies of the lines are dropped. The
old values reach a returning instruction. An entry none of whose lanes is left goes, from the write path or from the
queue of a pad atomic, with its counters. In part it states the model's own choices: log 11, 24, 29. -/
def Obligations.StoresAndAtomicsPerform : Prop :=
  ((∀ w s v e rest, s.wave? w = some v → v.mem.queue = e :: rest →
    (∀ l ∈ v.mem.loads, l.id < e.group → l.open_ = []) → (e.pad = true → e.isAtomic = false) →
    let u : Wave := { v with mem := { v.mem with queue := rest } }
    let n := if e.silent = false ∧ u.leftQueue e.group = true then v.mem.nSt - 1 else v.mem.nSt
    let gone : Wave := { v with mem := { v.mem with queue := rest, nSt := n } }
    (e.pad = true → ∃ t, exec (.storeLeavesQueue w) s = .next t ∧ (∀ k, k ≠ w → t.wave? k = s.wave? k) ∧
      (∀ c, t.core c = s.core c) ∧
      (Wrote s.mem t.mem e.cells ∧ t.wave? w = some gone ∨
        1 < e.parts.length ∧ ∃ i q, q.cells = e.cells.take (i * e.unit) ++ e.cells.drop ((i + 1) * e.unit) ∧
          Wrote s.mem t.mem ((e.cells.drop (i * e.unit)).take e.unit) ∧
          t.wave? w = some { v with mem := { v.mem with queue := q :: rest } })) ∧
    (e.pad = false → s.stampFor v.id.die v.id.core v.id.ctx = none → exec (.storeLeavesQueue w) s = .next s) ∧
    ∀ p, e.pad = false → s.stampFor v.id.die v.id.core v.id.ctx = some p →
      let k := s.core v.core
      let late := { e with stamp := p }.parts.zipIdx.map fun (q : StoreE × Nat) => { q.1 with pseq := k.pathSeq + q.2 }
      ∃ t new, exec (.storeLeavesQueue w) s = .next t ∧ t.mem = s.mem ∧ t.wave? w = some gone ∧
        (∀ k, k ≠ w → t.wave? k = s.wave? k) ∧ (∀ c, c ≠ v.core → t.core c = s.core c) ∧
        t.core v.core = { k with
          path := k.path ++ new, pathSeq := k.pathSeq + late.length, l1 := updateLines e.lines e.cells k.l1 } ∧
        new.map (fun q => { q with hint := none }) = late.map (fun q => { q with hint := none }) ∧
        -- a slice refuses only what is beyond the context's share of it
        (let share := s.reg 0 (oSched e.ctx 0x0C)
          let cap := if 1 ≤ share ∧ share ≤ 64 then share else 64
          e.hint = none → ∀ q ∈ new, q.hint ≠ none → ∃ y ∈ e.slices,
            cap < (s.setCore v.core { k with path := k.path ++ late }).queuedAt e.ctx y)) ∧
  ∀ core ix s e, (s.core core).path[ix]? = some e → e.isAtomic = false →
    (∀ o ∈ (s.core core).path.take ix, meets o.keys e.keys = false) →
    (∀ o ∈ (s.core core).path.take (ix + 1), o.hint ≠ none → ∀ q ∈ o.slices, q ∉ e.slices) →
    let k := s.core core
    ∃ t, exec (.storeAck core ix) s = .next t ∧ Wrote s.mem t.mem e.cells ∧
      t.core core = { k with path := k.path.eraseIdx ix } ∧ (∀ c, c ≠ core → t.core c = s.core c) ∧
      (∀ u, u ≠ e.wave → t.wave? u = s.wave? u) ∧
      ∀ v, s.wave? e.wave = some v → v.core = core →
        let more := decide (v.leftQueue e.group = false) ||
          (k.path.eraseIdx ix).any fun o => decide (o.wave = e.wave ∧ o.group = e.group) && !o.silent
        t.wave? e.wave = some { v with mem := { v.mem with
          nUa := if e.silent = true ∨ more = true then v.mem.nUa else v.mem.nUa - 1 } }) ∧
  (∀ w id lanes s v op accs, s.wave? w = some v →
    let mine := picked lanes accs
    let left := unpicked lanes accs
    mine ≠ [] → Grouped lanes accs →
    (∀ e ix, (∀ q r, v.mem.queue = q :: r → ¬ (q.pad = true ∧ q.isAtomic = true ∧ q.group = id)) →
      let k := s.core v.core
      k.path[ix]? = some e → (∀ o ∈ k.path.take ix, ¬ (o.wave = w ∧ o.group = id ∧ o.isAtomic = true)) →
      e.wave = w → e.group = id → e.kind = .atomic op accs →
      (∀ o ∈ k.path.take ix, meets o.keys (mine.flatMap fun a => a.1.keys) = false) →
      (∀ o ∈ k.path.take (ix + 1), o.hint ≠ none → ∀ q ∈ o.slices, q ∉ e.slices) →
      ∃ t, exec (.atomicPerform w id lanes) s = .next t ∧ t.mem = atomicRun op s.mem mine ∧
        t.core v.core = { k with
          path := if left = [] then k.path.eraseIdx ix else k.path.set ix { e with kind := .atomic op left }
          l1 := dropLines k.l1 fun q => (mine.flatMap fun a => linesOf a.1.keys).contains q.line } ∧
        (∀ c, c ≠ v.core → t.core c = s.core c) ∧ (∀ u, u ≠ w → t.wave? u = s.wave? u) ∧
        ∃ v', t.wave? w = some v' ∧ v' = { v with mem := { v.mem with loads := v'.mem.loads, nUa := v'.mem.nUa } } ∧
          (e.silent = true → v'.mem.nUa = v.mem.nUa ∧ ∃ old : List (Nat × Bytes),
            old.map Prod.fst = mine.map (fun a => a.1.lane) ∧
            (∀ a, mine = [a] → old = [(a.1.lane, a.1.keys.map (memByte s.mem))]) ∧
            v'.mem.loads = v.mem.loads.map fun l => if l.id = id then { l with got := l.got ++ old } else l) ∧
          (e.silent = false → v'.mem.loads = v.mem.loads ∧ (left ≠ [] → v'.mem.nUa = v.mem.nUa) ∧
            (left = [] → v.leftQueue id = true → (∀ o ∈ k.path.eraseIdx ix, ¬ (o.wave = w ∧ o.group = id)) →
              v'.mem.nUa = v.mem.nUa - 1))) ∧
    ∀ e rest, v.mem.queue = e :: rest → e.pad = true → e.group = id → e.kind = .atomic op accs →
      (∀ l ∈ v.mem.loads, l.id < id → l.open_ = []) →
      ∃ t, exec (.atomicPerform w id lanes) s = .next t ∧ t.mem = atomicRun op s.mem mine ∧
        (∀ u, u ≠ w → t.wave? u = s.wave? u) ∧ ∃ v', t.wave? w = some v' ∧
          v'.mem.queue = if left = [] then rest else { e with kind := .atomic op left } :: rest)

/-! ### The core's engines -/

/-- R209 to R212: a copy job starts once no earlier job of its context on the engine meets it, its wave has no acquire
under way and its pad stores are made; it reads its source, and where a page of virtual memory or a byte of another
space fails it will write only what lies before. A landing writes its bytes, of whole 4-byte units not yet landed, to
the destination space, once no page of virtual memory fails up to the end of its last page, and with BV set then
counts on the barrier object. A job with nothing left to land leaves the engine, and its outcome reaches the pending
jobs or the batch. In part it states the model's own choices: log 31. -/
def Obligations.CopyJobs : Prop :=
  ∀ (core id : Nat) s j, (s.core core).jobs.find? (fun j => j.id = id) = some j →
    (j.running = none → (∀ e ∈ (s.core core).jobs, e.id < id → e.ctx = j.ctx → e.overlaps j = false) →
      s.jobReady j = true → let r := s.spaceRead j core 0 j.len
      (r.1.2 = none → ∃ t, exec (.copyJobStart core id) s = .next t ∧ t.mem = r.2.mem ∧ t.waves = s.waves ∧
        JobIs r.2 t core id fun j => { j with running := some r.1.1 }) ∧
      ∀ cause sub f, r.1.2 = some (.fault cause sub, f) →
        ∃ t, exec (.copyJobStart core id) s = .next t ∧ t.mem = r.2.mem ∧ t.waves = s.waves ∧
          JobIs r.2 t core id fun q => { q with
            running := some r.1.1, missed := none, cause := if q.cause = 0 ∨ f.toNat < q.addr.toNat then cause else q.cause
            addr := if q.cause = 0 ∨ f.toNat < q.addr.toNat then f else q.addr
            left := cutRanges q.left ((f - j.src).toNat - if j.ssp = 0 then f.toNat % 4096 else 0) }) ∧
    (∀ src ofs len, j.running = some src → unitsOk j ofs len = true → ofs + len ≤ src.length →
      let bs := (src.drop ofs).take len
      let a := j.dst + BitVec.ofNat 64 ofs
      let took := fun (line : Bool) (q : CopyJob) =>
        { q with left := takeRange q.left ofs bs.length, barLine := q.barLine || line }
      (j.dsp = 0 → let page := s.runsChk ⟨j.ctx, core, false, 2⟩ .wr j.dst (j.upTo j.dst (ofs + len))
        page.1 = none → let r := page.2.rangeCopy ⟨j.ctx, core, false, 2⟩ .wr a len
        r.1.2 = none → ∃ t, exec (.copyLanding core id ofs len false) s = .next t ∧
          Wrote r.2.mem t.mem ((pieceKeys r.1.1).zip bs) ∧ t.waves = s.waves ∧ JobIs r.2 t core id (took false)) ∧
      (j.dsp = 3 → ∃ t, exec (.copyLanding core id ofs len false) s = .next t ∧
        Wrote s.mem t.mem (cellsAt (vaultKey j.dcoreOrRank a.toNat) bs) ∧ t.waves = s.waves ∧
        JobIs s t core id (took false)) ∧
      (j.dsp ≠ 0 → j.dsp ≠ 3 → ∀ k, mget s.blocks j.dcoreOrRank = some k →
        let here := padKey (k.die * 40 + k.core) k.padOfs
        let cells := (cellsAt (here + a.toNat) bs).filter fun c => !k.tagged (c.1 - here)
        let line := decide (cells.length ≠ bs.length)
        (j.bv = false → ∃ t, exec (.copyLanding core id ofs len false) s = .next t ∧ Wrote s.mem t.mem cells ∧
          t.waves = s.waves ∧ JobIs s t core id (took line)) ∧
        (j.bv = true → k.isValid j.bar = false → ∃ t, exec (.copyLanding core id ofs len false) s = .next t ∧
          Wrote s.mem t.mem cells ∧ t.waves = s.waves ∧ JobIs s t core id (took true)) ∧
        (j.bv = true → k.isValid j.bar = true → ∀ s1, s1 = s.perform cells [] →
          let r := s1.barAt k j.bar
          let d : Bar := { r with xb := (r.xb + 2 ^ 32 - bs.length % 2 ^ 32) % 2 ^ 32 }
          ∃ t, exec (.copyLanding core id ofs len false) s = .next t ∧ JobIs s t core id (took line) ∧
            t.barAt k j.bar = (if d.arr = d.exp ∧ d.xb = 0 then { d with arr := 0, ph := !d.ph } else d) ∧
            ∀ q, q < here + j.bar ∨ here + j.bar + 16 ≤ q → memByte t.mem q = (lastCell cells q).getD (memByte s.mem q)))) ∧
    (∀ src v, j.running = some src → j.left = [] → s.wave? j.wave = some v → v.id.block = j.block →
      ∃ t, exec (.copyJobComplete core id) s = .next t ∧ t.mem = s.mem ∧
        t.core core = { s.core core with jobs := (s.core core).jobs.filter fun e => e.id ≠ id } ∧
        (∀ u, u ≠ j.wave → t.wave? u = s.wave? u) ∧
        t.wave? j.wave = some { v with copy := if id ∈ v.copy.pending then
            { v.copy with done := v.copy.done ++ [(id, j.cause, j.addr, j.barLine)] }
          else { v.copy with batches := v.copy.batches.map fun b => if id ∈ b.jobs then
            { b with
              left := b.left - 1, cause := if b.cause = 0 then j.cause else b.cause
              addr := if b.cause = 0 then j.addr else b.addr, barLine := b.barLine || j.barLine } else b } })

/-- R223, R225: a command starts once its predecessors have retired and, fed by qa, it is its wave's oldest such; a
range that is out of bounds, a slot the wave does not own and a name no slot carries retire it with their fault. Under
AM 1 it starts while a slot is free, to take one later; under AM 0 it works on the slot it names, and under AM 2 on
the slot that P0's command used and that carries P0 last, once no other command works there: the slot's last id is
then its own. R96, R223 to R225: a started .zero leaves 0 in its slot, MREL frees it, a .drain queues its entries
while qz has room, MLDB copies memory to the B-store, each unit of 4 bytes by itself, and a .mac whose 16k entries are
there, taken in the order of its wave's commands, accumulates them: each retires then, with its flags. The oldest
command of a core where none has started or retired for 2^20 clk since it was empty retires with fault 6, and its wave
is due a trap. In part it states the model's own choices: log 8, 33. -/
def Obligations.MatrixCommandsRun : Prop :=
  (∀ (core uid : Nat) s m, let c := s.core core
    c.cmds.find? (fun m => m.uid = uid) = some m → m.started = false → (∀ q ∈ c.cmds, q.uid ∉ m.preds) →
    (m.kind.fromQa = true → ∀ q ∈ c.cmds, q.wave = m.wave → q.uid < uid → q.kind.fromQa = true → q.started = true) →
    let starts := { c with
      cmds := c.cmds.map fun q => if q.uid = uid then { q with started := true } else q, matClk := (s.die (core / 40)).clk }
    let worksOn := fun (n : Nat) (a : AccSlot) => { c with
      cmds := c.cmds.map fun q => if q.uid = uid then { q with started := true, placed := true, slot := n } else q
      acc := mput c.acc n { a with owner := m.wave, lastId := m.id, lastUid := uid }, matClk := starts.matClk }
    let becomes := fun (k : Core) => ∃ t, exec (.matrixCommandStart core uid) s = .next t ∧ t.waves = s.waves ∧
      t.mem = s.mem ∧ t.core core = k
    let retires := fun (code : Nat) =>
      ∃ t, exec (.matrixCommandStart core uid) s = .next t ∧ RetiresWith s t core m code
    (s.rangeFault m ≠ 0 → retires (s.rangeFault m)) ∧
    (s.rangeFault m = 0 →
      (m.kind.isLdb = true → becomes starts) ∧
      (m.kind.isLdb = false →
        (m.am = 1 → (∃ n, n < 64 ∧ mget c.acc n = none) → becomes starts) ∧
        (m.am = 1 → (∀ n, n < 64 → mget c.acc n ≠ none) → becomes c) ∧
        (m.am = 0 → ∀ a, mget c.acc m.slot = some a → a.owner = m.wave →
          becomes (if c.slotBusy m.slot = true then c else worksOn m.slot a)) ∧
        (m.am = 0 → (∀ a, mget c.acc m.slot = some a → a.owner ≠ m.wave) → retires 3) ∧
        (m.am = 2 → ∀ n a, mget c.acc n = some a → a.owner = m.wave → a.lastId = m.p0 → m.p0uid = some a.lastUid →
          (∀ e ∈ c.acc, e.2.lastUid = a.lastUid → e.1 = n) →
          becomes (if c.slotBusy n = true then c else worksOn n a)) ∧
        (m.am = 2 → (∀ e ∈ c.acc, e.2.owner = m.wave → e.2.lastId ≠ m.p0) → retires 4)))) ∧
  ((∀ (core uid : Nat) s m v, let c := s.core core
    c.cmds.find? (fun m => m.uid = uid) = some m → m.started = true → s.wave? m.wave = some v →
    let data := s.accData core m.slot
    let gone := fun (k : Core) => Leaves s core uid k
    (m.kind = .zero →
      ∃ t, exec (.matrixCommandRetire core uid) s = .next t ∧ t.mem = s.mem ∧ (∀ u, t.wave? u = s.wave? u) ∧
        Results s core m c (t.core core) 0 0 fun _ => ⟨List.replicate 1024 0, 0⟩) ∧
    (m.kind = .rel → ∃ t, exec (.matrixCommandRetire core uid) s = .next t ∧ t.mem = s.mem ∧ (∀ u, t.wave? u = s.wave? u) ∧
      t.core core = gone { c with acc := mdel c.acc m.slot }) ∧
    (m.kind = .drain → let n := min m.left (12 - v.mat.qz.length)
      let new := (List.range n).map fun i => ofLanes fun l =>
        let e := 3 * (11 - m.left + i) + l / 32
        if e < 32 then data.getD (e * 32 + l % 32) 0 else 0
      ∃ t, exec (.matrixCommandRetire core uid) s = .next t ∧ t.mem = s.mem ∧
        t.wave? m.wave = some { v with mat := { v.mat with qz := v.mat.qz ++ new } } ∧
        (∀ u, u ≠ m.wave → t.wave? u = s.wave? u) ∧ t.core core = if n = m.left then gone c else
          { c with cmds := c.cmds.map fun q => if q.uid = uid then { q with left := m.left - n } else q }) ∧
    (∀ src bofs len, m.kind = .ldb src bofs len → let r := s.rangeOf ⟨v.id.ctx, core, false, 2⟩ .rd src len
      r.1.2 = none → r.2.wave? m.wave = some v →
      ∃ (t : State) (units : Nat → Bool), exec (.matrixCommandRetire core uid) s = .next t ∧
        Wrote r.2.mem t.mem ((cellsAt (bstoreKey core bofs) ((pieceKeys r.1.1).map (memByte s.mem))).filter fun b =>
          units ((b.1 - bstoreKey core bofs) / 4)) ∧
        (∀ u, t.wave? u = r.2.wave? u) ∧ ((∀ n, units n = true) ∧ t.core core = Leaves r.2 core uid (r.2.core core) ∨
          t.core core = r.2.core core)) ∧
    ∀ apad bofs k fromPad fa fb la lb sa sb, m.kind = .mac apad bofs k fromPad fa fb la lb sa sb →
      (∀ q ∈ c.cmds, q.wave = m.wave → q.uid < m.uid → q.kind.fromQa = false) →
      ∀ b, mget s.blocks v.id.block = some b →
      let n := if fromPad = true then 0 else min v.mat.qa.length (16 * k - m.took.length)
      let took := m.took ++ v.mat.qa.take n
      let c1 := { c with cmds := c.cmds.map fun q => if q.uid = uid then { q with took := took } else q }
      (fromPad = false → took.length < 16 * k → m.placed = true → ∃ t, exec (.matrixCommandRetire core uid) s = .next t ∧
        t.mem = s.mem ∧ t.wave? m.wave = some { v with mat := { v.mat with qa := v.mat.qa.drop n } } ∧ t.core core = c1) ∧
      (fromPad = true ∨ 16 * k ≤ took.length →
        let ents := if fromPad = true then s.padEntries core (b.padOfs + apad) k else took
        ∃ t fl, exec (.matrixCommandRetire core uid) s = .next t ∧ t.mem = s.mem ∧
          t.wave? m.wave = some { v with mat := { v.mat with qa := v.mat.qa.drop n }, regs := { v.regs with flags := fl } } ∧
          Results s core m c1 (t.core core) v.regs.flags fl
            (macAll (s.matIn core b.padOfs ents bofs k fa fb la lb sa sb) k))) ∧
  ∀ (core : Nat) s m rest v, let c := s.core core
    c.cmds = m :: rest → c.matClk + 2 ^ 20 ≤ (s.die (core / 40)).clk → s.wave? m.wave = some v →
    v.ctl.a.wait ≠ some .sleep → v.ctl.b.wait ≠ some .sleep → v.ctl.a.takesNow = false → v.ctl.b.takesNow = false →
    ∃ t, exec (.matrixWatchdog core) s = .next t ∧ t.mem = s.mem ∧ t.core core = Leaves s core m.uid c ∧
      t.wave? m.wave = some { v with mat := faulted v.mat 6 m.id, trap := { v.trap with watchdog := true } })

/-! ### Pre-emption -/

/-- R234, R297 to R299: PREEMPT_REQUEST marks a cluster as leaving, and its waves, one with an open section noting the
time. A wave of a frozen cluster with no access under way is captured: as its region latch holds it where a region
began less than 2^16 clk ago and no trap is about, whole otherwise. Once its waves are captured and its engine work is
done the cluster leaves: its image is kept, and each slot keeps a record of it with its generations while its
registers return. In part it states the model's own choices: log 56. -/
def Obligations.PreemptionAndCapture : Prop :=
  (∀ (cl : Nat) s, (∀ l ∈ s.sched.leaving, l.cluster ≠ cl) → ∀ k b rest, s.clusterBlocks cl = (k, b) :: rest →
    ∃ t, exec (.preemptRequest cl) s = .next t ∧ t.mem = s.mem ∧ t.cores = s.cores ∧ t.blocks = s.blocks ∧
      t.sched = { s.sched with leaving := s.sched.leaving ++ [⟨b.ctx, cl, [], [], 0⟩] } ∧
      (∀ w v, s.wave? w = some v → s.clusterOf v = some cl →
        let since := if v.feed.section_ ≠ 0 ∧ v.feed.deferred = none then some (s.die v.id.die).clk else v.feed.deferred
        t.wave? w = some { v with leaving := true, feed := { v.feed with deferred := since } }) ∧
      ∀ w, (∀ e ∈ s.waves, e.1 = w → s.clusterOf e.2 ≠ some cl) → t.wave? w = s.wave? w) ∧
  ∀ (w : Nat) s v cl, s.wave? w = some v → s.clusterOf v = some cl → (s.core v.core).claims = [] →
    (s.frozen v = false → exec (.switchOutCapture w) s = .next s) ∧
    (s.frozen v = true → (∀ l ∈ s.sched.leaving, l.cluster = cl → w ∉ l.captured) → v.drained = false →
      exec (.switchOutCapture w) s = .next s) ∧
    (s.frozen v = true → (∀ l ∈ s.sched.leaving, l.cluster = cl → w ∉ l.captured) → v.drained = true →
      (∃ e ∈ s.clusterWaves cl, e.1 ≠ w ∧ ∀ l ∈ s.sched.leaving, l.cluster = cl → e.1 ∉ l.captured) →
      ∃ t v', exec (.switchOutCapture w) s = .next t ∧ t.mem = s.mem ∧ t.wave? w = some v' ∧
        (∀ u, u ≠ w → t.wave? u = s.wave? u) ∧
        t.sched = { s.sched with leaving := s.sched.leaving.map fun l =>
          if l.cluster = cl then { l with captured := l.captured ++ [w], held := l.held ++ [(w, v.regs.g)] } else l } ∧
        (v'.mem.loads = [] ∧ v'.mem.queue = [] ∧ v'.mem.nLd = 0 ∧ v'.mem.nSt = 0 ∧ v'.mem.nUa = 0) ∧
        (∀ l, v.latch = some l → (s.die v.id.die).clk < v.regnClk + 2 ^ 16 → v.ctl.a.sup = false → v.ctl.b.sup = false →
          v.trap.queue = [] → v.trap.running = none → v.id.kern.mailboxes = false →
          v'.regs = { l.regs with sendst := v.regs.sendst, eos := v.regs.eos } ∧ v'.ctl.live = l.ctl.live ∧
          v'.ctl.recon = l.ctl.recon ∧ v'.ctl.frames = l.ctl.frames ∧ v'.feed.held = l.feed.held) ∧
        (v.regnClk + 2 ^ 16 ≤ (s.die v.id.die).clk →
          v'.regs = v.regs ∧ v'.ctl.live = v.ctl.live ∧ v'.ctl.recon = v.ctl.recon ∧ v'.ctl.frames = v.ctl.frames ∧
          v'.feed.held = v.feed.held)) ∧
    (∀ l, s.frozen v = true → s.sched.leaving.find? (fun l => l.cluster = cl) = some l → w ∈ l.captured →
      s.clusterWaves cl = [(w, v)] → s.enginesDone cl = true →
      ∃ t im, exec (.switchOutCapture w) s = .next t ∧ t.mem = s.mem ∧ t.wave? w = none ∧
        (∀ u, u ≠ w → t.wave? u = s.wave? u) ∧ mget t.sched.images s.sched.nextImage = some im ∧
        im.ctx = l.ctx ∧ im.cluster = cl ∧ im.waves = [(w, v)] ∧ im.blocks = s.clusterBlocks cl ∧ im.moved = false ∧
        im.pads = im.blocks.map (fun e => (e.1, s.peek (padKey (e.2.die * 40 + e.2.core) e.2.padOfs) e.2.padAll)) ∧
        (∀ q ∈ t.sched.leaving, q.cluster ≠ cl) ∧
        (t.core v.core).free = (s.core v.core).free + s.granulesOf w v ∧
        (t.core v.core).records = (s.core v.core).records ++
          [⟨v.id.slot, v.id.ctx, mgetD (s.core v.core).genV v.id.slot 0, mgetD (s.core v.core).genS v.id.slot 0,
            s.sched.nextImage, w⟩])

/-- R299, R300, R329: CLUSTER_RESTORE puts a switched-out cluster back in one step, each wave in its own slot with the
generations of its record, its registers and its block's pad as they were; where a block has no seat, or its context
may not run, it does nothing. In part it states the model's own choices: log 49, 56. -/
def Obligations.ClustersReturn : Prop :=
  ∀ (cl ix : Nat) s im, s.sched.images.find? (fun e => e.2.cluster = cl) = some (ix, im) →
    (s.liveCtx im.ctx = none → exec (.clusterRestore cl) s = .next s) ∧
    (s.seats im = none → exec (.clusterRestore cl) s = .next s) ∧
    ∀ c b n w v ofs pad, s.liveCtx im.ctx = some c → c.sealed = false → c.migrating = false → c.snapping = false →
      im.moved = false → im.blocks = [(n, b)] → im.waves = [(w, v)] → v.id.block = n → im.pads = [(n, pad)] →
      b.vlen = 0 → im.cmds = [] → im.accs = [] → v.ctl.recon = [] → v.ctl.spilled = [] → v.trap.queue = [] →
      (v.slot .A).only ≠ some 0 → (v.slot .B).only ≠ some 0 →
      s.wave? w = none → (∀ e ∈ s.waves, e.1 / 12 = w / 12 → e.2.id.ctx = im.ctx) → w / 96 = b.die * 40 + b.core →
      s.takesBack im n (w / 96) b = some ofs → pad.length = b.padAll → ofs + b.padAll ≤ 2 ^ 20 →
      ∃ t, exec (.clusterRestore cl) s = .next t ∧ mget t.sched.images ix = none ∧
        t.wave? w = some { v with
          leaving := false, id := { v.id with die := w / 96 / 40, core := w / 96 % 40, slot := w % 96 } } ∧
        (∀ u, u ≠ w → t.wave? u = s.wave? u) ∧
        mget t.blocks n = some { b with die := w / 96 / 40, core := w / 96 % 40, padOfs := ofs, waves := [w] } ∧
        (∀ i, i < b.padAll → memByte t.mem (padKey (w / 96) (ofs + i)) = pad.getD i 0) ∧
        (∀ k, k < padKey (w / 96) ofs ∨ padKey (w / 96) (ofs + b.padAll) ≤ k → memByte t.mem k = memByte s.mem k) ∧
        (t.core (w / 96)).free = (s.core (w / 96)).free - v.regs.g ∧
        ∀ r, (s.core (w / 96)).records.find? (fun r => r.slot = w % 96 && r.ctx = im.ctx && r.windex = w) = some r →
          mgetD (t.core (w / 96)).genV (w % 96) 0 = r.genV ∧ mgetD (t.core (w / 96)).genS (w % 96) 0 = r.genS

/-! ### Pages -/

/-- R312, R313, R331: PAGE_REPLY takes the next record of a function's reply ring. One that names no pending request
of its die, no context or an older generation is counted and dropped; a failure terminates the context with 0x06, and
its tasks wait for the page no more; a mapped reply removes the request, and every slot of the context that waits for
the page leaves TRAP and tries again. R314 to R316: a leaf whose frames the context's home die has accessed 256 times
within 1 ms from afar moves to free frames of the home die, 4 KiB and 2 MiB leaves alike, and is pinned when it has
moved too often; a pin ends with its time; 512 alike leaves of one die become one 2 MiB leaf over a free run. In part
it states the model's own choices: log 64, 65. -/
def Obligations.PagesAnswerAndMove : Prop :=
  (∀ (f : Nat) s, f < 513 → s.trust.boot_step = 6 →
    let len := ringLen (s.reg 0 (oPage f 0x20))
    let head := s.reg 0 (oPage f 0x28)
    (len = 0 ∨ head = s.reg 0 (oPage f 0x24) → exec (.pageReply f) s = .next s) ∧
    (len ≠ 0 → head ≠ s.reg 0 (oPage f 0x24) →
      let n := s.peekN (hostKey (s.reg 0 (oPage f 0x18) + 16 * (head % len))) 16
      let d := fieldOf n 47 46
      let ctx := fieldOf n 21 12
      let named := (s.die d).reqs.find? fun r => r.rid = fieldOf n 63 48 && r.ctx = ctx
      let taken := fun (t : State) => t.reg 0 (oPage f 0x28) = (head + 1) % 2 ^ 32
      (named = none ∨ mget s.ctxs ctx = none ∨ (mgetD s.ctxGen ctx 0).toNat ≠ fieldOf n 39 32 →
        ∃ t, exec (.pageReply f) s = .next t ∧ t = { s with regs := t.regs } ∧ taken t ∧
          t.reg 0 (oPage f 0x2C) = (s.reg 0 (oPage f 0x2C) + 1) % 65536) ∧
      ∀ r c, named = some r → s.liveCtx ctx = some c → (mgetD s.ctxGen ctx 0).toNat = fieldOf n 39 32 →
        (fieldOf n 1 0 ≠ 0 → ∃ u t, exec (.pageReply f) s = .next t ∧ taken t ∧ Terminated s u ctx 0x06 0 ∧
          t = { u with sched := { u.sched with tasks := t.sched.tasks } } ∧
          ∀ i k, mget u.sched.tasks i = some k → mget t.sched.tasks i = some
            (if k.ctx = ctx ∧ (k.missed.map (·.1)) = some r.page then { k with missed := some (r.page, 2) } else k)) ∧
        (fieldOf n 1 0 = 0 → s.crowded d = false →
          (∀ e ∈ s.waves, e.2.mem.miss = [] ∧ e.2.trap.asked = none ∧ e.2.trap.queue = [] ∧ e.2.trap.running = none) →
          ∃ t, exec (.pageReply f) s = .next t ∧ taken t ∧ t.mem = s.mem ∧
            (t.die d).reqs = (s.die d).reqs.filter (fun q => q.rid ≠ r.rid) ∧
            ∀ w v x, s.wave? w = some v →
              (v.id.ctx = ctx → ∀ k, (v.slot x).wait = some .page → (v.slot x).asked = some (r.page, k) →
                ∃ v', t.wave? w = some v' ∧ v'.slot x = { v.slot x with
                  wait := none, asked := some (r.page, k + 1)
                  phase := if (v.slot x).phase = .trap then .run else (v.slot x).phase }) ∧
              ((∀ e ∈ s.waves, e.1 = w → e.2.id.ctx ≠ ctx) → t.wave? w = some v)))) ∧
  ((∀ (ctx page : Nat) s c e lvl pa, s.liveCtx ctx = some c → s.s2leaf ctx (page * 4096) = .leaf e lvl pa →
    page % 512 ^ lvl = 0 →
    let i := s.info ctx page
    let n := 512 ^ lvl
    let recent := i.times.filter fun t => decide (s.time < t + 1000000)
    (recent.length < 256 ∨ eBit e 1 = true ∨ eBit e 9 = true ∨ eBit e 11 = true ∨ dieOfFrame (eDev e) = c.home →
      exec (.pageMigration ctx page) s = .next s) ∧
    (256 ≤ recent.length → eBit e 1 = false → eBit e 9 = false → eBit e 11 = false → dieOfFrame (eDev e) ≠ c.home →
      (∀ k, k < n → s.frameBusy (eDev e / 4096 + k) = false) →
      s.copyFails (s.s2key ctx e 12 (page * 4096)) (4096 * n) (eKid e) = none → ∀ f, c.runOn (some c.home) n = some f →
      let moves := s.recentMoves i.migrations
      let pin := decide (max 1 (s.reg 0 (oMod 0x00)) ≤ moves.length)
      ∃ t, exec (.pageMigration ctx page) s = .next t ∧ t.waves = s.waves ∧
        t.peekN (devKey pa) 8 = (pinLeaf (leafWith e f (eKid e) 0 false) pin).toNat ∧
        (pa + 8 ≤ f ∨ f + 4096 * n ≤ pa → ∀ k, k < 4096 * n →
          memByte t.mem (devKey f + k) = memByte s.mem (s.s2key ctx e 12 (page * 4096) + k)) ∧
        ((∀ p ∈ eDev e :: c.pool, s.spent (p / 4096) = false) → n = 1 →
          ∃ c', mget t.ctxs ctx = some c' ∧ c'.pool = eDev e :: c.pool.erase f) ∧
        (t.info ctx page).times = [] ∧ (t.info ctx page).migrations = moves ++ [s.time] ∧
        (t.info ctx page).pinUntil = if pin = true then s.time + 1000 * s.reg 0 (oMod 0x08) else 0)) ∧
  (∀ (ctx page : Nat) s e lvl pa, s.s2leaf ctx (page * 4096) = .leaf e lvl pa →
    let i := s.info ctx page
    (i.pinUntil = 0 ∨ s.time < i.pinUntil → exec (.pinExpiry ctx page) s = .next s) ∧
    (i.pinUntil ≠ 0 → i.pinUntil ≤ s.time → ∃ t, exec (.pinExpiry ctx page) s = .next t ∧ t.waves = s.waves ∧
      t.peekN (devKey pa) 8 = (pinLeaf e false).toNat ∧
      (∀ k, k < pa ∨ pa + 8 ≤ k → memByte t.mem k = memByte s.mem k) ∧
      (t.info ctx page).pinUntil = 0 ∧ (t.info ctx page).migrations = [])) ∧
  ∀ (ctx page : Nat) s c e pa l run, s.liveCtx ctx = some c → s.smallLeaf ctx page = some (e, pa) →
    s.promoLeaves ctx (page / 512) (dieOfFrame (eDev e)) = some l → c.runOn (some (dieOfFrame (eDev e))) 512 = some run →
    (∀ q ∈ l, s.frameBusy (eDev q / 4096) = false ∧ s.copyFails (devKey (eDev q)) 4096 (eKid q) = none) →
    let q := l.headD 0
    ∃ t, exec (.pagePromotion ctx page) s = .next t ∧ t.waves = s.waves ∧
      t.peekN (devKey (s.levelOne ctx (page / 512 * 2 ^ 21)).1) 8 =
        (eKid q * 2 ^ 48 + run + fieldOf q.toNat 10 10 * 1024 + fieldOf q.toNat 8 8 * 256 + 128
          + fieldOf q.toNat 4 2 * 4 + 1) % 2 ^ 64)

/-- R318 to R321, R332: PAGE_HASH takes a candidate page's hash under its domain's key: its leaf is valid, shareable
(WIN), private and no host page's, and its context is sealed or its frame has not been written for HQUIET.
DAYMARK_MERGE merges a page that has not been written since onto the shared frame of its domain with the same hash and
the same bytes, which counts one reference more, or makes its own frame a shared one; a full bucket or count is noted
in DMSTAT and nothing merges. A page that qualifies no more, cannot be read, or needs a table the pool has no frame
for loses its hash. In part it states the model's own choices: log 66. -/
def Obligations.PagesAreShared : Prop :=
  ∀ (ctx page : Nat) s c e dom, s.liveCtx ctx = some c → s.pageLeaf ctx page = some e → c.dom = some dom →
    let i := s.info ctx page
    let bytes := s.pageBytes ctx page e
    let frame := eDev e / 4096
    let still := mgetD s.vm.lastWrite frame 0
    let quiet := 1000 * s.reg 0 (oMod 0x0C)
    let alike := eBit e 0 = true ∧ eBit e 8 = true ∧ eBit e 9 = false ∧ eBit e 11 = false ∧
      (c.sealed = true ∨ (quiet ≠ 0 ∧ still + quiet ≤ s.time))
    (¬alike ∨ s.pageFails ctx page e = true → exec (.pageHash ctx page) s = .next s) ∧
    (alike → s.pageFails ctx page e = false → ∃ t, exec (.pageHash ctx page) s = .next t ∧ t = { s with vm := t.vm } ∧
      t.info ctx page = { i with hashed := some (s.time, kmac128 (s.domKey dom) bytes) }) ∧
    ∀ at_ h, i.hashed = some (at_, h) →
      (s.frameBusy frame = true ∨ s.outOfTurn h (dieOfFrame (eDev e)) = true →
        exec (.daymarkMerge ctx page) s = .next s) ∧
      (s.frameBusy frame = false → s.outOfTurn h (dieOfFrame (eDev e)) = false →
        let l := s.bucket h
        let like := fun (g : DayEntry) => g.ref ≠ 0 && g.hash = h && g.dom = dom && s.peek (s.frameKey g.frame) 4096 = bytes
        let put := fun (t : State) (b : List DayEntry) => mgetD (t.die (dayDie h)).day (s.dayBucket h) [] = b
        let noted := fun (t : State) (hi lo : Nat) => fieldOf (t.reg 0 (oMod 0x14)) 15 0 =
            (fieldOf (s.reg 0 (oMod 0x14)) 15 0 + lo) % 65536 ∧
          fieldOf (t.reg 0 (oMod 0x14)) 31 16 = (fieldOf (s.reg 0 (oMod 0x14)) 31 16 + hi) % 65536
        (¬alike ∨ at_ ≤ still ∨ s.pageFails ctx page e = true ∨ s.smallPage ctx page = none →
          ∃ t, exec (.daymarkMerge ctx page) s = .next t ∧ t = { s with vm := t.vm } ∧
            t.info ctx page = { i with hashed := none }) ∧
        (∀ pa, s.smallLeaf ctx page = some (e, pa) → alike → still < at_ → s.pageFails ctx page e = false →
          (∀ (n : Nat) g, l.findIdx? like = some n → l[n]? = some g →
            (g.ref = 2 ^ 24 - 1 → ∃ t, exec (.daymarkMerge ctx page) s = .next t ∧ t.mem = s.mem ∧ t.ctxs = s.ctxs ∧
              put t l ∧ noted t 1 0) ∧
            (g.ref ≠ 2 ^ 24 - 1 → ∃ t, exec (.daymarkMerge ctx page) s = .next t ∧ t.waves = s.waves ∧
              put t (l.set n { g with ref := g.ref + 1 }) ∧
              t.peekN (devKey pa) 8 = (leafWith e (g.frame * 4096) c.dkey 0 true).toNat ∧
              (∀ k, k < pa ∨ pa + 8 ≤ k → memByte t.mem k = memByte s.mem k) ∧
              ((∀ p ∈ eDev e :: c.pool, s.spent (p / 4096) = false) →
                ∃ c', mget t.ctxs ctx = some c' ∧ c'.pool = eDev e :: c.pool))) ∧
          (l.findIdx? like = none →
            (∀ b, bucketPut l ⟨h, 1, dom, frame, false, 0, false⟩ false = some b →
              ∃ t, exec (.daymarkMerge ctx page) s = .next t ∧ t.waves = s.waves ∧ put t b ∧
                t.peekN (devKey pa) 8 = (leafWith e (eDev e) c.dkey 0 true).toNat) ∧
            (bucketPut l ⟨h, 1, dom, frame, false, 0, false⟩ false = none →
              ∃ t, exec (.daymarkMerge ctx page) s = .next t ∧ t.mem = s.mem ∧ t.ctxs = s.ctxs ∧ put t l ∧
                noted t 0 1))))

/-! ### Scheduling -/

/-- R271, R272, R276, R277: an eligible task that comes first of its class and can be sent is dispatched once its
records are all reserved, an in or out tile by RSV, a keep tile by one more in RDR; one that fails goes back to
waiting. A batch goes to the die with the most free slots, while the context has credit, which pays for its waves; a
light period gives each context with work its weight for every period passed, up to four times it, and takes the
credit of the others. In part it states the model's own choices: log 46, 47, 48. -/
def Obligations.TasksAreSent : Prop :=
  (∀ (n : Nat) s t e, s.task? n = some t → t.st = .eligible e → t.status = none → s.first n t = true → s.sendable t = true →
    let tiles := tilesUp t.card.tiles
    let r := s.recordsBad t.ctx tiles
    r.1 = none →
    (∀ s1, r.2.reserve t.ctx tiles = (true, s1) → ∃ s2 t', exec (.taskDispatch n) s = .next s2 ∧ s2.mem = s1.mem ∧
      s2.waves = s1.waves ∧ s2.task? n = some t' ∧
      t' = { t with st := .dispatched, missed := none, die := t'.die
                    residentAt := if t.card.cls ≠ 0 then some s1.time else none }) ∧
    (∀ s1, r.2.reserve t.ctx tiles = (false, s1) → ∃ s2, exec (.taskDispatch n) s = .next s2 ∧ s2.mem = s1.mem ∧
      s2.waves = s1.waves ∧ s2.task? n = some { t with st := .waiting, missed := none }) ∧
    ∀ va mode a k ks, t.card.tiles = [(va, mode)] → r.2.recordKey t.ctx va = some k →
      (r.2.access (r.2.beacon t.ctx) .wr false 0 va 64).1 = .ok a → a.keys = k :: ks →
      let s3 := (r.2.access (r.2.beacon t.ctx) .wr false 0 va 64).2
      let w := s3.peekN k 64
      modeMet mode (r.2.peekN k 64) = true → (mode = 2 → recRdr (r.2.peekN k 64) ≠ 255) →
      ∃ s2, exec (.taskDispatch n) s = .next s2 ∧ (s2.task? n).map (fun q => q.st) = some .dispatched ∧
        s2.peekN k 64 = (if mode = 2 then w / 2 ^ 32 * 2 ^ 32 + (fieldOf w 31 24 + 1) % 256 * 2 ^ 24 + w % 2 ^ 24
          else if w.testBit 1 = true then w else w + 2) ∧
        ∀ q, q < k ∨ k + 64 ≤ q → memByte s2.mem q = memByte s3.mem q) ∧
  (∀ (n die : Nat) s t c, s.task? n = some t → t.st = .dispatched → t.card.cls = 0 → t.status = none →
    mget s.ctxs t.ctx = some c →
    (c.credit ≤ 0 ∨ s.batchDie t ≠ some die → exec (.batchSend n die) s = .next s) ∧
    (0 < c.credit → s.batchDie t = some die → let k := s.batchSize t die
      ∃ s', exec (.batchSend n die) s = .next s' ∧ s'.mem = s.mem ∧ s'.waves = s.waves ∧
        s'.task? n = some { t with sent := t.sent + k } ∧
        mget s'.ctxs t.ctx = some { c with credit := c.credit - (k * t.card.waves * t.card.blocks : Nat) } ∧
        ∃ new, (s'.die die).queue = (s.die die).queue ++ new ∧
          new.map (fun p => (p.task, p.index)) = (List.range k).map fun i => (n, t.sent + i))) ∧
  ∀ s, let n := s.time / 512 - s.sched.period
    (n = 0 → exec .lightPeriod s = .next s) ∧
    (n ≠ 0 → ∃ t, exec .lightPeriod s = .next t ∧
      t = { s with sched := { s.sched with period := s.time / 512 }, dies := t.dies, ctxs := t.ctxs } ∧
      (∀ d k, mget s.dies d = some k →
        mget t.dies d = some { k with flits := k.flits.filter fun f => decide (s.time / 512 ≤ f.2.2.1) }) ∧
      ∀ c k, mget s.ctxs c = some k → let w := max 1 (s.reg 0 (oSched c 0x04))
        mget t.ctxs c = some { k with
          credit := if s.hasWork c = true then min (k.credit + (n * w : Nat)) (4 * w : Nat) else 0 })

/-- R277, R281, R285, R287: BUOY_REPORT adds donated clusters to the Buoy's queue and reports its free slots; a Buoy
idle for 2 µs with 16 free slots asks one peer, which gives its oldest whole clusters that the asker may take, up to
the slots named. An L2 request that was refused is sent again once its hint has passed and none of its core to a slice
of it is still refused before it; its slices take it unless the context has its share queued there, and always two
periods on. In part it states the model's own choices: log 11, 51. -/
def Obligations.BuoysTrade : Prop :=
  (∀ (die : Nat) s, die < 4 → (s.die die).usable = true → ∃ t, exec (.buoyReport die) s = .next t ∧ t.mem = s.mem ∧
    t.waves = s.waves ∧ (t.die die).incoming = [] ∧ (t.die die).reportAt = s.time ∧
    (t.die die).report.slots = s.freeSlots (s.coresOf die) ∧
    ∃ new, (t.die die).queue = (s.die die).queue ++ new ∧
      new.map (fun p => (p.task, p.index)) = (s.die die).incoming.map fun p => (p.task, p.index)) ∧
  (∀ (die peer : Nat) s, let k := s.die die
    (k.asked.isSome = true ∨ k.queue ≠ [] ∨ s.time < k.idleSince + 2000 ∨ k.report.slots < 16 →
      exec (.donationRequest die peer) s = .next s) ∧
    (die < 4 → peer < 4 → die ≠ peer → k.usable = true → (s.die peer).usable = true → k.asked = none → k.queue = [] →
      k.idleSince + 2000 ≤ s.time → 16 ≤ k.report.slots →
      exec (.donationRequest die peer) s = .next (s.setDie die { k with asked := some (peer, s.freeSlots (s.coresOf die)) }))) ∧
  (∀ (die peer n : Nat) s, (s.die die).asked = some (peer, n) → die ≠ peer →
    let a := s.donate die (s.die peer).queue n
    ∃ t, exec (.donationAnswer die peer) s = .next t ∧ t.mem = s.mem ∧ t.waves = s.waves ∧ (t.die peer).queue = a.2 ∧
      (t.die die).incoming = (s.die die).incoming ++ a.1 ∧ (t.die die).asked = none ∧
      (∀ p, p ∈ (s.die peer).queue ↔ p ∈ a.1 ∨ p ∈ a.2) ∧
      (∀ p ∈ a.1, ∃ k, s.task? p.task = some k ∧ die ∈ s.taskDies k) ∧
      (a.1.map fun p => (s.task? p.task).elim 0 fun k => k.card.waves * k.card.blocks).sum ≤ n) ∧
  ∀ (ix : Nat) s e hint, let core := ix / 2 ^ 16
    let path := (s.core core).path
    path[ix % 2 ^ 16]? = some e → e.hint = some hint →
    let before := path.take (ix % 2 ^ 16)
    let share := s.reg 0 (oSched e.ctx 0x0C)
    let old := e.stamp + 2 ≤ s.time / 512
    let full := ∃ l ∈ e.slices, (if 1 ≤ share ∧ share ≤ 64 then share else 64) ≤ s.queuedAt e.ctx l
    let becomes := fun (h : Option Nat) => ∃ t, exec (.l2Resend ix) s = .next t ∧
      t = { s with cores := t.cores, fresh := t.fresh } ∧ (∀ c, c ≠ core → t.core c = s.core c) ∧
      t.core core = { s.core core with path := path.set (ix % 2 ^ 16) { e with hint := h } }
    (s.time < hint ∨ (∃ q ∈ before, q.hint.isSome = true ∧ ∃ l ∈ q.slices, l ∈ e.slices) →
      exec (.l2Resend ix) s = .next s) ∧
    (hint ≤ s.time → (∀ q ∈ before, q.hint.isSome = true → ∀ l ∈ q.slices, l ∉ e.slices) →
      (old ∨ ¬full → becomes none) ∧
      (¬old → full → ∃ u, s.time + 8 ≤ u ∧ u ≤ s.time + 8 * 255 ∧ becomes (some u)))

/-- R30, R55, R268, R269, R278 to R280: a Buoy places a one-block cluster on the lowest core that takes it, each wave
in the slot of its partition rule, its registers at 0 but for the arguments, the block's pad at 0; a kernel header or
an area that fails its checks ends the task with status 2. After 2 µs without a core of its carve, the head of the
queue starts one carve change, of the core with the fewest waves, which takes effect once no resident pad lies above
the new size and no fill is under way into what the pad gains. In part it states the model's own choices: log 10, 38,
50, 54. -/
def Obligations.BlocksArePlaced : Prop :=
  (∀ (die ix : Nat) s p t c, (s.die die).queue[ix]? = some p → s.task? p.task = some t → t.status = none →
    s.liveCtx t.ctx = some c → c.sealed = false → c.migrating = false → c.snapping = false →
    let r := s.readAll ⟨t.ctx, die * 40, true, 2⟩ t p.index
    let z := t.card
    (∀ cause, r.1 = .bad cause → ∃ s', exec (.blockPlacement die ix) s = .next s' ∧ s'.waves = r.2.waves ∧ s'.mem = r.2.mem ∧
      s'.task? p.task = some { t with status := some (2, cause), missed := none }) ∧
    ∀ k args, r.1 = .ok (k, args) →
      let takes := fun (q : Nat) => r.2.fitsCore q t.ctx z.carve z.waves k.granules k.padBytes (z.vofs * 4096) (z.vlen * 4096)
      (z.blocks = 1 → (∀ q ∈ r.2.coresOf die, takes q = none) → exec (.blockPlacement die ix) s = .next r.2) ∧
      ∀ q off slots, z.blocks = 1 → z.waves = slots.length → (r.2.coresOf die).find? (fun q => (takes q).isSome) = some q →
        takes q = some (off, slots) → slots.Nodup → (∀ e ∈ slots, e < 96) → q / 40 = die →
        ∃ s', exec (.blockPlacement die ix) s = .next s' ∧
          (∀ (j slot : Nat), slots[j]? = some slot → ∃ v, s'.wave? (q * 96 + slot) = some v ∧ v.id.ctx = t.ctx ∧
            v.id.task = p.task ∧ v.id.widx = j ∧ v.id.block = r.2.sched.nextBlock ∧
            v.id.priv = z.priv + BitVec.ofNat 64 ((p.index * z.waves + j) * z.privsz * 4096) ∧ v.id.kern = k ∧
            v.regs = { s := args, g := k.granules, h := k.sregs / 16 } ∧ v.ctl.a.phase = .run ∧ v.ctl.a.pc = k.entry ∧
            v.ctl.a.mask = allLanes ∧ v.ctl.live = allLanes ∧ v.ctl.b.phase = .empty) ∧
          (∃ b, mget s'.blocks r.2.sched.nextBlock = some b ∧ b.core = q % 40 ∧ b.padOfs = off ∧ b.rank = 0 ∧
            b.cx = p.index % z.gx ∧ b.cy = p.index / z.gx % z.gy ∧ b.cz = p.index / (z.gx * z.gy)) ∧
          (∀ i, i < k.padBytes → memByte s'.mem (padKey q off + i) = 0) ∧
          (s'.core q).free = (r.2.core q).free - slots.length * k.granules ∧
          (s'.die die).queue = (s.die die).queue.eraseIdx ix) ∧
  (∀ (die : Nat) s p rest t, (s.die die).queue = p :: rest → s.task? p.task = some t →
    (s.time < p.since + 2000 ∨ (∃ c, die * 40 ≤ c ∧ c < die * 40 + 40 ∧ (s.core c).carveTo ≠ none) →
      exec (.carveChangeStart die) s = .next s) ∧
    (p.since + 2000 ≤ s.time → (∀ c, die * 40 ≤ c → c < die * 40 + 40 → (s.core c).carveTo = none) →
      0 < t.card.blocks → (∀ c ∈ s.coresOf die, (s.core c).carve ≠ t.card.carve) →
      ∀ c ∈ s.coresOf die, (∀ d ∈ s.coresOf die, d < c → (s.wavesOn c).length < (s.wavesOn d).length) →
        (∀ d ∈ s.coresOf die, c < d → (s.wavesOn c).length ≤ (s.wavesOn d).length) →
        exec (.carveChangeStart die) s = .next (s.setCore c { s.core c with carveTo := some (t.card.carve, p.stamp) }))) ∧
  ∀ (core n stamp : Nat) s, (s.core core).carveTo = some (n, stamp) →
    ((∃ b ∈ s.blocksOn core, n * 65536 < b.padOfs + b.padAll) → exec (.carveChange core) s = .next s) ∧
    ((∀ b ∈ s.blocksOn core, b.padOfs + b.padAll ≤ n * 65536) → n ≤ (s.core core).carve ∨ s.filling core = false →
      ∃ t, exec (.carveChange core) s = .next t ∧
      t.mem = s.mem ∧ t.core core = { s.core core with carve := n, carveTo := none, l1 := (t.core core).l1 })

/-- R282: at TICK − 2,000 a gang's members that were resident here by then are reported once, and reports of the other
modules join them until TICK; at TICK every member starts if all were reported and their number is the card's, and
otherwise none does and each ends with status 3, its waves and its switched-out clusters gone. R273, R274: a task with
no work left ends, at a time that is noted; once its writes have been performed its records are released, with FULL
changed where it ends as done, its completion record is written, with the time, its launch number, its cause and its
status, and its pool entry is freed. A task with work left does not end. In part it states the model's own choices:
log 46, 52, 53, 55. -/
def Obligations.GangsAndTaskEnds : Prop :=
  (∀ (gang tick : Nat) s, s.gangTick gang = some tick →
    let told := s.sched.gangs.find? fun g => g.1 = gang && g.2.1 = tick
    (∀ remote, (s.time + 2000 < tick ∨ tick < s.time → exec (.gangReport gang remote) s = .next s) ∧
      (tick ≤ s.time + 2000 → s.time ≤ tick →
        ∃ t l, exec (.gangReport gang remote) s = .next t ∧
          t = { s with sched := { s.sched with
            gangs := (gang, tick, l) :: s.sched.gangs.filter fun g => !(g.1 = gang && g.2.1 = tick) } } ∧
          (told = none → ∀ m, m ∈ l ↔ (s.joins = true ∧ ∃ k at_, (m, k) ∈ s.gangOf gang tick ∧
              k.residentAt = some at_ ∧ at_ ≤ tick - 2000) ∨ ∃ r ∈ remote, m = 2 ^ 32 + r) ∧
          ∀ g, told = some g → ∀ m, m ∈ l ↔ m ∈ g.2.2 ∨ ∃ r ∈ remote, m = 2 ^ 32 + r)) ∧
    (s.time < tick → exec (.gangStart gang) s = .next s) ∧
    (tick ≤ s.time →
      let mine := s.gangOf gang tick
      let all := (told.map fun g => g.2.2).getD []
      ((∀ e ∈ mine, e.1 ∈ all ∧ e.2.card.gangMembers = all.length) →
        ∃ t, exec (.gangStart gang) s = .next t ∧ t.mem = s.mem ∧ t.cores = s.cores ∧
          (∀ n k, (n, k) ∈ mine → ∃ k', t.task? n = some k' ∧ k'.gangStarted = true) ∧
          ∀ w v, s.wave? w = some v → t.wave? w = some (if ∃ e ∈ mine, e.1 = v.id.task
            then { v with id := { v.id with held := false } } else v)) ∧
      (∀ n k, mine = [(n, k)] → n ∉ all → (∀ c, (s.core c).claims = []) →
        ∃ t, exec (.gangStart gang) s = .next t ∧ t.mem = s.mem ∧ t.task? n = some { k with status := some (3, 0) } ∧
          (∀ i ∈ t.sched.images, i.2.task ≠ n) ∧ ∀ w v, t.wave? w = some v → v.id.task ≠ n))) ∧
  (∀ (n : Nat) s t c, s.task? n = some t → s.liveCtx t.ctx = some c → t.frame = none →
    (t.st ≠ .dispatched → t.status = none → exec (.taskEnd n) s = .next s) ∧
    (s.taskBusy n t = true → exec (.taskEnd n) s = .next s) ∧
    (t.st = .dispatched ∨ t.status ≠ none → s.taskBusy n t = false → t.ended = none →
      exec (.taskEnd n) s = .next (s.setTask n { t with ended := some s.time })) ∧
    (t.ended ≠ none → s.writesLeft n = true → exec (.taskEnd n) s = .next s) ∧
    (t.st = .dispatched → s.taskBusy n t = false → t.ended ≠ none → s.writesLeft n = false → t.card.tiles = [] →
      let out := match t.status with
        | some e => e
        | none => if t.fault = 0 then (1, 0) else (6, t.fault)
      (t.card.compl = 0 → ∃ s', exec (.taskEnd n) s = .next s' ∧ s'.mem = s.mem ∧ s'.waves = s.waves ∧ s'.task? n = none ∧
        ∀ m, m ≠ n → s'.task? m = s.task? m) ∧
      (t.card.compl ≠ 0 → let b := s.setTask n { t with status := some out, missed := none }
        let r := b.rangeOf (b.beacon t.ctx) .wr t.card.compl 16
        r.1.2 = none → ∃ s', exec (.taskEnd n) s = .next s' ∧ s'.waves = s.waves ∧ s'.task? n = none ∧
          Wrote r.2.mem s'.mem ((pieceKeys r.1.1).zip
            (bytesOfNat 1 out.1 ++ bytesOfNat 1 out.2 ++ bytesOfNat 2 0 ++ bytesOfNat 4 (t.launch % 2 ^ 32) ++
              bytesOfNat 8 s.time)))) ∧
    ∀ va mode a b k ks, t.st = .dispatched → s.taskBusy n t = false → t.ended ≠ none → s.writesLeft n = false →
      t.status = none → t.fault = 0 → t.card.tiles = [(va, mode)] → t.card.compl = 0 → let who := s.beacon t.ctx
      let c1 := s.access who .rd false 0 va 64
      let c2 := c1.2.access who .wr false 0 va 64
      c1.1 = .ok a → c2.1 = .ok b →
      let c3 := c2.2.access (c2.2.beacon t.ctx) .wr false 0 va 64
      c3.1 = .ok b → b.keys = k :: ks →
      let w := c3.2.peekN k 64
      let full := decide (mode = 1)
      let upd := if mode = 2 ∨ w.testBit 0 = full then fieldOf w 127 64 else (fieldOf w 127 64 + 1) % 2 ^ 64
      ∃ s', exec (.taskEnd n) s = .next s' ∧ s'.task? n = none ∧ fieldOf (s'.peekN k 64) 127 64 = upd ∧
        (mode = 2 → fieldOf (s'.peekN k 64) 31 24 = (fieldOf w 31 24 + 255) % 256 ∧
          (s'.peekN k 64).testBit 0 = w.testBit 0) ∧
        (mode ≠ 2 → (s'.peekN k 64).testBit 0 = full ∧ (s'.peekN k 64).testBit 1 = false))

/-! ### Engine jobs and rendering -/

/-- R207, R211, R267, R357, R358, R382: a job of an engine class reads its record. A record it may not read, or with
words the rules reserve, ends the job with that cause, or with 0x03, as the task's first fault. A clear stores its
value at every pixel of its rectangle inside the target; a draw of splats gives the Lantern one draw with its splats
in order; a copy moves its bytes; an encode writes the bitstream, and then its length in the record at 52. In part it
states the model's own choices: log 44, 45. -/
def Obligations.EngineJobs : Prop :=
  let ended := fun (t : Task) (j cause : Nat) =>
    ({ t with jobsEnded := t.jobsEnded ++ [j], missed := none, fault := if t.fault = 0 then cause else t.fault } : Task)
  let fails := fun (i : Instr) (s s1 : State) (n j cause : Nat) (t : Task) =>
    ∃ u, exec i s = .next u ∧ u.mem = s1.mem ∧ u.waves = s.waves ∧ u.gfx = s.gfx ∧ u.task? n = some (ended t j cause)
  (∀ (n j : Nat) s t, s.jobTask n j 1 = some t → let who := engineAt t.ctx t.die
    (∀ cause s1, s.buoyRead who (t.record j 32) 32 = (.bad cause, s1) → fails (.clearJob n j) s s1 n j cause t) ∧
    ∀ b s1, s.buoyRead who (t.record j 32) 32 = (.ok b, s1) → let va := BitVec.ofNat 64 (cardAt b 0 8)
      (va.toNat % 64 ≠ 0 → fails (.clearJob n j) s s1 n j 0x03 t) ∧
      ∀ d s2, va.toNat % 64 = 0 → s1.buoyRead who va 64 = (.ok d, s2) →
        (targetOf va d = none → fails (.clearJob n j) s s2 n j 0x03 t) ∧
        ∀ q, targetOf va d = some q →
          let px := rectPixels q (cardAt b 8 2) (cardAt b 10 2) (cardAt b 12 2) (cardAt b 14 2)
          s2.pixelMiss who .wr (px.map fun p => pixelVa q p.1 p.2) = none →
          ∃ u t', exec (.clearJob n j) s = .next u ∧ u.waves = s.waves ∧ u.gfx = s.gfx ∧
            u.mem = (px.foldl (fun k p => k.putPixel n who q p.1 p.2 (clearPixel q (b.drop 16))) s2).mem ∧
            u.task? n = some t' ∧ t' = { t with jobsEnded := t.jobsEnded ++ [j], missed := none, fault := t'.fault }) ∧
  (∀ (n j : Nat) s t, s.jobTask n j 2 = some t → (∀ d ∈ s.gfx.draws, ¬ (d.task = n ∧ d.job = some j)) →
    let who := engineAt t.ctx t.die
    ∀ b s1, s.buoyRead who (t.record j 32) 32 = (.ok b, s1) → let w := natOfBytes b
      (fieldOf w 255 160 ≠ 0 ∨ fieldOf w 127 104 ≠ 0 → fails (.splatJob n j) s s1 n j 0x03 t) ∧
      ∀ e s2 r va d s3 q data s4, fieldOf w 255 160 = 0 → fieldOf w 127 104 = 0 →
        s1.buoyRead who (BitVec.ofNat 64 (s1.reg 0 (oCtx t.ctx 0x30) / 64 * 64 + 64 * fieldOf w 103 96)) 64 = (.ok e, s2) →
        rasterOf e = some (r, va) → va.toNat % 64 = 0 → s2.buoyRead who va 64 = (.ok d, s3) → targetOf va d = some q →
        s3.buoyRead who (BitVec.ofNat 64 (fieldOf w 63 0)) (40 * fieldOf w 95 64) = (.ok data, s4) →
        ∃ u items, exec (.splatJob n j) s = .next u ∧ u.mem = s4.mem ∧ u.waves = s.waves ∧
          u.gfx = { s.gfx with
            splats := s.gfx.splats ++ items, nextOrder := s.gfx.nextOrder + fieldOf w 95 64
            draws := s.gfx.draws ++ [⟨t.ctx, n, { r with tgt := q }, BitVec.ofNat 32 (fieldOf w 159 128), [], some j,
              s.gfx.nextOrder⟩]
            spills := u.gfx.spills } ∧
          items.length = fieldOf w 95 64 ∧ ∀ (i : Nat) it, items[i]? = some it →
            it = { ctx := t.ctx, task := n, rs := { r with tgt := q }, words := it.words, job := some j
                   depth := BitVec.ofNat 32 (cardAt data (40 * i) 4), seq := BitVec.ofNat 64 (fieldOf w 159 128 * 2 ^ 32 + i)
                   order := s.gfx.nextOrder + i } ∧
            it.words = (List.range 9).map fun k => BitVec.ofNat 32 (cardAt data (40 * i + 4 + 4 * k) 4)) ∧
  (∀ (n j : Nat) s t, s.jobTask n j 3 = some t → let who := engineAt t.ctx t.die
    ∀ b s1, s.buoyRead who (t.record j 32) 32 = (.ok b, s1) →
      let r := fun i => BitVec.ofNat 64 (cardAt b (8 * i) 8)
      let a : CpyArgs := ⟨r 0, r 1, r 2, r 3⟩
      (a.legal = false ∨ (a.ssp ≠ 0 ∧ a.ssp ≠ 3) ∨ (a.dsp ≠ 0 ∧ a.dsp ≠ 3) ∨ a.bv = true ∨
          (a.ssp = 3 ∧ 40 ≤ a.f 49 44) ∨ (a.dsp = 3 ∧ 40 ≤ a.f 55 50) →
        fails (.copyClassJob n j) s s1 n j 0x03 t) ∧
      (s1.copyBad t a ≠ 0 → fails (.copyClassJob n j) s s1 n j (s1.copyBad t a) t) ∧
      (s1.copyBad t a = 0 → let k := classCopy t n j a
        let src := s1.spaceRead k (t.die * 40) 0 k.len
        src.1.2 = none →
        (k.dsp = 3 → ∃ u, exec (.copyClassJob n j) s = .next u ∧ u.waves = s.waves ∧ u.task? n = some (ended t j 0) ∧
          Wrote src.2.mem u.mem (cellsAt (vaultKey k.dcoreOrRank k.dst.toNat) src.1.1)) ∧
        (k.dsp ≠ 3 → let dst := src.2.rangeCopy who .wr k.dst src.1.1.length
          dst.1.2 = none → ∃ u, exec (.copyClassJob n j) s = .next u ∧ u.waves = s.waves ∧
            u.task? n = some (ended t j 0) ∧ Wrote dst.2.mem u.mem ((pieceKeys dst.1.1).zip src.1.1)))) ∧
  ∀ (n j : Nat) s t, s.jobTask n j 4 = some t → let who := engineAt t.ctx t.die
    ∀ b s1, s.buoyRead who (t.record j 64) 64 = (.ok b, s1) → let w := natOfBytes b
      (encodeTarget (t.record j 64) w = none → fails (.encodeJob n j) s s1 n j 0x03 t) ∧
      ∀ q frame s2, encodeTarget (t.record j 64) w = some q → q.height = 1 →
        s1.buoyRead who q.base (q.width * pixBytes q.format) = (.ok frame, s2) →
        let bits := Config.bitstream (w.testBit 279) (fieldOf w 295 288) q.width 1 frame
        let r1 := s2.rangeOf who .wr (BitVec.ofNat 64 (fieldOf w 383 320)) bits.length
        let s3 := r1.2.perform ((pieceKeys r1.1.1).zip bits) (pieceLines r1.1.1)
        let r2 := s3.rangeOf who .wr (t.record j 64 + 52) 4
        ∃ u, exec (.encodeJob n j) s = .next u ∧
          (bits.length ≤ fieldOf w 415 384 → r1.1.2 = none → r2.1.2 = none →
            u.waves = s.waves ∧ u.task? n = some (ended t j 0) ∧ Wrote r1.2.mem s3.mem ((pieceKeys r1.1.1).zip bits) ∧
            Wrote r2.2.mem u.mem ((pieceKeys r2.1.1).zip (bytesOfNat 4 bits.length)))

/-- R278, R341, R343 to R349: a pixel wave starts, on the lowest core of its die that takes it, with its quads'
pixels, the attributes of their primitives and p0 in the covered lanes, and those quads leave their primitives. A
released path's coverage is computed once; an even-odd coverage is the distance to the nearest even winding. A commit
that an earlier ticket or commit at its pixel holds back waits; otherwise it blends its pixel in place and is done.
R352, R353: the Lantern composites a draw on a tile once every pixel of the tile may be committed, over the splats of
the draw that meet the tile and were not dropped, in depth order; a draw with no tile left is over. In part it states
the model's own choices: log 39, 41, 42, 43. -/
def Obligations.PixelsAndLantern : Prop :=
  ((∀ (n die core : Nat) s t p c, s.task? n = some t → core < 40 →
    s.gfx.prims.find? (fun p => p.task = n && p.die = die) = some p → s.liveCtx p.ctx = some c → c.sealed = false →
    c.migrating = false → c.snapping = false → let quads := packQuads p s.gfx.prims []
    quads ≠ [] → let q := die * 40 + core
    let who : Who := ⟨p.ctx, q, true, 2⟩
    ∀ k0 s1, s.readKernel who p.rs.pkern = (.ok k0, s1) →
      let fits := fun c => s1.fitsCore c p.ctx p.rs.pcarve 1 k0.granules k0.padBytes 0 0
      (fits q = none ∨ (∃ c ∈ s1.coresOf die, c < q ∧ (fits c).isSome = true) →
        exec (.pixelWaveLaunch n die core) s = .next s1) ∧
      ∀ off slot slots k args s2, q ∈ s1.coresOf die → (∀ c ∈ s1.coresOf die, c < q → fits c = none) →
        fits q = some (off, slot :: slots) →
        s1.readPixel who p.rs (p.words.length - 7) (q * 96 + slot) = (.ok (k, args), s2) →
        ∃ u v, exec (.pixelWaveLaunch n die core) s = .next u ∧ u.gfx.prims = takeQuads quads s.gfx.prims ∧
          u.wave? (q * 96 + slot) = some v ∧ (∀ w, w ≠ q * 96 + slot → u.wave? w = s.wave? w) ∧ v.id.pixel = true ∧
          v.id.task = n ∧ v.id.kern = k ∧ v.id.priv = p.rs.ppriv + BitVec.ofNat 64 ((q * 96 + slot) * p.rs.pprivsz * 4096) ∧
          v.regs.s = args ∧ v.ctl.live = allLanes ∧ v.ctl.a.phase = .run ∧ v.ctl.a.pc = k.entry ∧ v.ctl.a.mask = allLanes ∧
          v.ctl.b.phase = .empty ∧ ∀ l, l < 96 →
            (∀ o x y r, quads[l / 4]? = some (o, (x, y)) → s.gfx.prims.find? (fun p => p.order = o) = some r →
              let px := x + l % 2
              let py := y + l % 4 / 2
              laneAt (v.vreg 0) l = BitVec.ofNat 32 (px + py * 65536) ∧ mbit (v.preg 0) l = covers r.words r.rs.tgt px py ∧
              ∀ i, i < p.words.length - 7 → laneAt (v.vreg (3 + i)) l = r.words.getD (7 + i) 0) ∧
            (quads.length ≤ l / 4 → laneAt (v.vreg 0) l = 0 ∧ mbit (v.preg 0) l = false)) ∧
  (∀ (ix : Nat) s p, s.gfx.paths.find? (fun p => p.order = ix) = some p →
    (p.cover ≠ none → exec (.pathFill ix) s = .next s) ∧
    (p.cover = none → (p.fill = [] → exec (.pathFill ix) s = .next { s with gfx := { s.gfx with
        paths := s.gfx.paths.filter fun q => q.order ≠ ix } }) ∧
      (p.fill ≠ [] → exec (.pathFill ix) s = .next { s with gfx := { s.gfx with
        paths := s.gfx.paths.map fun q => if q.order = ix then { q with cover := some p.fill } else q } }))) ∧
  (∀ a : Int, fillCov true a ≤ 65536 ∧ (∃ k : Int, (fillCov true a : Int) = ((a - 131072 * k).natAbs : Int)) ∧
    fillCov false a = min a.natAbs 65536) ∧
  (∀ (ix : Nat) s c, s.gfx.commits.find? (fun c => c.order = ix) = some c →
    (s.mayCommit c.task c.tgt.va c.px c.py c.seq (some ix) = false → exec (.blendCommit ix) s = .next s) ∧
    (s.mayCommit c.task c.tgt.va c.px c.py c.seq (some ix) = true → let who := engineAt c.ctx c.die
      let va := pixelVa c.tgt c.px c.py
      s.pixelMiss who .wr [va] = none → let r := s.access who .wr false 0 va (pixBytes c.tgt.format)
      ∀ a, r.1 = .ok a → ∃ u, exec (.blendCommit ix) s = .next u ∧ u.waves = s.waves ∧
        u.gfx = { s.gfx with commits := s.gfx.commits.filter fun e => e.order ≠ ix } ∧
        Wrote r.2.mem u.mem (a.keys.zip (blendPixel c.tgt.format c.mode (c.rgba.map fun w => f32.read w.toNat)
          (a.keys.map (memByte r.2.mem)))))) ∧
  ∀ (ix : Nat) s p cs, (∀ c ∈ s.gfx.commits, c.order ≠ ix) → s.gfx.paths.find? (fun p => p.order = ix) = some p →
    p.cover = some cs →
    ((∀ c ∈ cs, s.mayCommit p.task p.tgt.va c.1 c.2.1 p.seq (some ix) = false) → exec (.blendCommit ix) s = .next s) ∧
    ∀ px py cov h, cs.find? (fun c => s.mayCommit p.task p.tgt.va c.1 c.2.1 p.seq (some ix)) = some (px, py, cov) →
      mget s.ctxs p.ctx = some h → let va := pixelVa p.tgt px py
      let who := engineAt p.ctx (s.pixelDie p.ctx (h.home * 40) va)
      s.pixelMiss who .wr [va] = none → let r := s.access who .wr false 0 va (pixBytes p.tgt.format)
      ∀ a, r.1 = .ok a → ∃ u, exec (.blendCommit ix) s = .next u ∧ u.waves = s.waves ∧
        Wrote r.2.mem u.mem (a.keys.zip (pathPixel p.tgt cov (a.keys.map (memByte r.2.mem)))) ∧
        let left := cs.filter fun c => ¬ (c.1 = px ∧ c.2.1 = py)
        (left = [] → u.gfx = { s.gfx with paths := s.gfx.paths.filter fun q => q.order ≠ ix }) ∧
        (left ≠ [] → u.gfx = { s.gfx with
          paths := s.gfx.paths.map fun q => if q.order = ix then { q with cover := some left } else q })) ∧
  (∀ (ix tx ty : Nat) s d, s.gfx.draws[ix]? = some d →
    let px := tilePixels d.rs.tgt tx ty
    (s.drawDue d tx ty = false → s.horizonsAt d.task (drawSeq d) = false → exec (.lanternComposite ix tx ty) s = .next s) ∧
    (s.drawDue d tx ty = true → (∃ p ∈ px, s.mayCommit d.task d.rs.tgt.va p.1 p.2 (drawSeq d) (some d.order) = false) →
      exec (.lanternComposite ix tx ty) s = .next s) ∧
    ∀ h t, s.drawDue d tx ty = true → (∀ p ∈ px, s.mayCommit d.task d.rs.tgt.va p.1 p.2 (drawSeq d) (some d.order) = true) →
      mget s.ctxs d.ctx = some h → s.task? d.task = some t →
      let die := if t.card.cls = 0 then h.home else t.die
      let runs := s.gfx.spills.filter fun p => p.ofThe d && p.tx = tx && p.ty = ty
      let items := (s.splatsOf d).filter fun i => meetsTile i.words d.rs.tgt tx ty && !(runs.flatMap (·.dropped)).contains i.order
      s.pixelMiss (engineAt d.ctx die) .wr (px.map fun p => pixelVa d.rs.tgt p.1 p.2) = none →
      runs.flatMap (·.runs) = [] →
      (∀ a b : SplatItem, a.before b = true → a.depth.toNat ≤ b.depth.toNat) ∧
      ∃ u, exec (.lanternComposite ix tx ty) s = .next u ∧ u.waves = s.waves ∧
        u.mem = (px.foldl (fun k p => k.putComposite d (k.pixelDie d.ctx (die * 40) (pixelVa d.rs.tgt p.1 p.2)) p.1 p.2
          (compositeAt (BitVec.ofNat 32 (s.reg 0 (oCtx d.ctx 0x38))) p.1 p.2 (sortSplats items) ⟨0x3F800000, [0, 0, 0], false⟩))
          s).mem ∧
        ((∃ q ∈ tilesOf d.rs.tgt, q ≠ (tx, ty) ∧ s.drawDue d q.1 q.2 = true) →
          u.gfx = { s.gfx with draws := s.gfx.draws.set ix { d with done := d.done ++ [(tx, ty)] }
                               spills := u.gfx.spills }) ∧
        ((∀ q ∈ tilesOf d.rs.tgt, q ≠ (tx, ty) → s.drawDue d q.1 q.2 = false) →
          u.gfx = { s.gfx with draws := s.gfx.draws.eraseIdx ix
                               splats := s.gfx.splats.filter fun i => i ∉ s.splatsOf d
                               spills := u.gfx.spills }))

/-! ### Commands of the host -/

/-- R367, R375, R376, R378: a command whose sequence number is below the expected one is dropped and counted; one
above it, one of 2^48 or more and one whose MAC does not fit halt the ring, with reasons 1, 3 and 2; one whose CPL is
not a multiple of 16 is passed over; one whose card's page failed while it waited is answered with status 2 and 0x06;
one that is not permitted is answered with status 4, and one with reserved fields or an absent context with status 2.
A ring that is empty, halted or absent gives nothing. In part it states the model's own choices: log 57. -/
def Obligations.RingChecks : Prop :=
  ∀ f i op, (i, op) ∈ ringOps f → ∀ s b,
    (s.portOpen = false ∨ 513 ≤ f → exec i s = .next s) ∧
    ((s.fn f).rotations = [] → (s.cmdLen f = 0 ∨ (s.fn f).ringHalt ≠ 0 ∨ behind (s.reg f (oFn 0x4C)) (s.cmdHead f) = true) →
      exec i s = .next s) ∧
    (RingGives s f b → cmdOp b ≠ op → cmdOp b ≠ 0 → cmdOp b ≤ 12 → exec i s = .next s) ∧
    (RingGives s f b → (cmdOp b = op ∨ cmdOp b = 0 ∨ 12 < cmdOp b) →
      ((s.fn f).taken = none →
        (cmdSeq b < s.reg f (oFn 0x18) → ∃ t, exec i s = .next t ∧
          RingNext (s.setReg f (oFn 0x10) (min 0xFFFF (s.reg f (oFn 0x10) + 1))) t f) ∧
        (s.reg f (oFn 0x18) < cmdSeq b → exec i s = .next (s.setFn f { s.fn f with ringHalt := 1 })) ∧
        (cmdSeq b = s.reg f (oFn 0x18) → 2 ^ 48 ≤ cmdSeq b → exec i s = .next (s.setFn f { s.fn f with ringHalt := 3 })) ∧
        (cmdSeq b = s.reg f (oFn 0x18) → cmdSeq b < 2 ^ 48 → ¬ MacFits s f b →
          exec i s = .next (s.setFn f { s.fn f with ringHalt := 2 }))) ∧
      (((s.fn f).taken = none → cmdSeq b = s.reg f (oFn 0x18) ∧ cmdSeq b < 2 ^ 48 ∧ MacFits s f b) →
        let s1 := accepted s f
        (cmdCpl b % 16 ≠ 0 → ∃ t, exec i s = .next t ∧ RingNext s1 t f) ∧
        (cmdCpl b % 16 = 0 → s1.cardLost f b = true → ∃ t, exec i s = .next t ∧ Answers s1 t f b 2 0x06 0) ∧
        (cmdCpl b % 16 = 0 → s1.cardLost f b = false → s1.refused f b = true → ∃ t, exec i s = .next t ∧ Answers s1 t f b 4 0 0) ∧
        (cmdCpl b % 16 = 0 → s1.refused f b = false → s1.malformed b = true →
          ∃ t, exec i s = .next t ∧ Answers s1 t f b 2 0 0)))

/-- R145, R268, R370, R375, R376: LAUNCH and FRAME read the card at their address in their context. A card off 128
bytes, or that cannot be read, is answered with status 2, one the checks refuse with the status and detail of its
fault, and any other enters a task and is answered with status 1; FRAME opens a frame of the Flash log, which counts
that task. In part it states the model's own choices: log 37, 57. -/
def Obligations.HostLaunches : Prop :=
  ∀ (logged : Bool) (f : Nat) s b, let i := if logged = true then Instr.frame f else .hostLaunch f
    Commands s f (if logged = true then 2 else 1) b →
    let s1 := accepted s f
    let va := BitVec.ofNat 64 (argF b 63 0)
    let ctx := cmdCtx b
    (va.toNat % 128 ≠ 0 → ∃ t, exec i s = .next t ∧ Answers s1 t f b 2 2 0) ∧
    (va.toNat % 128 = 0 → let r := s1.readVirt (s1.beacon ctx) va 128
      (∀ cause sub a, r.1 = .error (.fault cause sub, a) → ∃ t, exec i s = .next t ∧ Answers r.2 t f b 2 cause 0) ∧
      ∀ card, r.1 = .ok card → let st := r.2.cardStatus ctx card
        (st = 1 → ∃ t, exec i s = .next t ∧ Answers r.2 t f b 3 1 0) ∧
        (st = 2 → ∃ t, exec i s = .next t ∧ Answers r.2 t f b 2 2 0) ∧
        (st = 3 → ∃ t, exec i s = .next t ∧ Answers r.2 t f b 4 3 0) ∧
        (st = 0 → ∀ k, mget r.2.ctxs ctx = some k → ∃ t m task, exec i s = .next t ∧ Answers m t f b 1 0 0 ∧
          m = { r.2 with ctxs := m.ctxs, sched := m.sched } ∧ m.sched.nextTask = r.2.sched.nextTask + 1 ∧
          mget m.sched.tasks r.2.sched.nextTask = some task ∧ task.ctx = ctx ∧ task.launch = k.nextLaunch ∧
          task.card = cardOf card ∧ task.status = none ∧ mget m.ctxs ctx = some { k with nextLaunch := k.nextLaunch + 1 } ∧
          task.frame = (if logged = true then some r.2.sched.frames.length else none) ∧
          (logged = false → m.sched.frames = r.2.sched.frames) ∧
          (logged = true → ∃ fr, m.sched.frames = r.2.sched.frames ++ [fr] ∧ fr.ctx = ctx ∧
            fr.number = BitVec.ofNat 32 (argF b 95 64) ∧ fr.tin = ((s1.fn f).taken).getD s1.time ∧ fr.tstart = none ∧
            fr.tasks = [r.2.sched.nextTask] ∧ fr.written = false)))

/-- R309, R323, R373, R375, R377: S2INV drops the TLB entries of a function's contexts that hold the address, or all
of them, and their pages' biases; a shared frame that such a page's leaf names no more counts one reference less.
CREATE makes a context with a free id on the die asked for, or on the one with the most free slots, and answers with
its id; without a slot, an id or a key id it answers with status 3. DESTROY ends the context and frees its id. R308,
R375, R377, R404: GRANT gives a function whole units of 2 MiB of one die that nobody owns; POOLADD puts frames of its
function's units, which nothing uses, into a context's pool. A range that is empty, misaligned or spans two dies is
answered with status 2; units that may not be granted with 3; frames that may not join with 4. In part it states the
model's own choices: log 58, 76. -/
def Obligations.ContextAndMemoryCommands : Prop :=
  ((∀ (f : Nat) s b, Commands s f 8 b → let s1 := accepted s f
    let hit := fun (ctx : Nat) (holds : Bool) => (match mget s1.ctxs ctx with
      | some k => decide (k.fn = argF b 74 65)
      | none => false : Bool) && (decide (argF b 64 64 = 1) || holds)
    let stands := fun (n page frame : Nat) => ∃ l pa, s1.s2leaf n (4096 * page) = .leaf l 0 pa ∧ eBit l 9 = true ∧
      eDev l / 4096 = frame
    ∃ t m, exec (.s2inv f) s = .next t ∧ Answers m t f b 1 0 0 ∧ m = { s1 with dies := m.dies, vm := m.vm, ctxs := m.ctxs } ∧
      (∀ d, (m.die d).tlb = (s1.die d).tlb.filter fun e => !hit e.ctx (e.holds (argF b 63 0))) ∧
      (∀ e, e ∈ m.vm.bias ↔ e ∈ s1.vm.bias ∧
        hit (e.1 / 2 ^ 36) (decide (e.1 % 2 ^ 36 / s1.leafSpan (e.1 / 2 ^ 36) (argF b 63 0) =
          argF b 63 0 / 4096 / s1.leafSpan (e.1 / 2 ^ 36) (argF b 63 0))) = false) ∧
      ((∀ n c, (n, c) ∈ s1.ctxs → ∀ e ∈ c.shared, stands n e.1 e.2) →
        m.vm = { s1.vm with bias := m.vm.bias } ∧ ∀ d, (m.die d).day = (s1.die d).day) ∧
      ∀ n c page frame, s1.ctxs = [(n, c)] → c.shared = [(page, frame)] →
        hit n (decide (page = argF b 63 0 / 4096)) = true → ¬stands n page frame →
        ∀ (d k i : Nat) (g : DayEntry), (mgetD (s1.die d).day k [])[i]? = some g → g.ref ≠ 0 → g.frame = frame →
          (mgetD (m.die d).day k [])[i]? = some { g with ref := g.ref - 1 }) ∧
  (∀ (f : Nat) s b, Commands s f 9 b → let s1 := accepted s f
    let die := if argF b 12 12 = 1 then s1.emptiest else some (argF b 11 10)
    let dom := if argF b 25 25 = 1 then some (argF b 24 13) else none
    let made := die.bind fun d => s1.newCtx (argF b 9 0) d dom
    (made = none → ∃ t, exec (.create f) s = .next t ∧ Answers s1 t f b 3 0 0) ∧
    ∀ n s2, made = some (n, s2) → ∃ t c, exec (.create f) s = .next t ∧ Answers s2 t f b 1 0 n ∧ n < 1024 ∧
      mget s1.ctxs n = none ∧ mget t.ctxs n = some c ∧ c.fn = argF b 9 0 ∧ some c.home = die ∧ c.dom = dom ∧
      c.sealed = false ∧ c.terminated = false ∧ c.pool = [] ∧ c.nextLaunch = 1 ∧
      (∀ k, k ≠ n → mget t.ctxs k = mget s1.ctxs k) ∧ mget s1.vm.keys c.skey = none ∧ (mget t.vm.keys c.skey).isSome = true) ∧
  ∀ (f : Nat) s b c, Commands s f 10 b → let s1 := accepted s f
    s1.liveCtx (cmdCtx b) = some c → ∃ t, exec (.destroy f) s = .next t ∧
      Answers (s1.freeCtx (cmdCtx b)) t f b 1 0 0 ∧ mget t.ctxs (cmdCtx b) = none ∧
      (∀ w v, t.wave? w = some v → v.id.ctx ≠ cmdCtx b) ∧ (∀ n k, t.task? n = some k → k.ctx ≠ cmdCtx b) ∧
      mgetD t.ctxGen (cmdCtx b) 0 = mgetD s1.ctxGen (cmdCtx b) 0 + 1) ∧
  ((∀ (f : Nat) s b, Commands s f 11 b → let s1 := accepted s f
    let pa := argF b 38 0
    let n := argF b 95 64
    (pa % 2 ^ 21 ≠ 0 ∨ n = 0 ∨ pa / 2 ^ 37 ≠ (pa + n * 2 ^ 21 - 1) / 2 ^ 37 →
      ∃ t, exec (.grant f) s = .next t ∧ Answers s1 t f b 2 0 0) ∧
    (pa % 2 ^ 21 = 0 → n ≠ 0 → pa / 2 ^ 37 = (pa + n * 2 ^ 21 - 1) / 2 ^ 37 →
      ((∃ k, k < n ∧ s1.grantable (pa / 2 ^ 21 + k) = false) → ∃ t, exec (.grant f) s = .next t ∧ Answers s1 t f b 3 0 0) ∧
      ((∀ k, k < n → s1.grantable (pa / 2 ^ 21 + k) = true) → ∃ t m, exec (.grant f) s = .next t ∧ Answers m t f b 1 0 0 ∧
        m = { s1 with vm := { s1.vm with grants := m.vm.grants } } ∧
        ∀ u, mget m.vm.grants u = if pa / 2 ^ 21 ≤ u ∧ u < pa / 2 ^ 21 + n then some (argF b 105 96) else mget s1.vm.grants u))) ∧
  ∀ (f : Nat) s b c, Commands s f 12 b → let s1 := accepted s f
    let pa := argF b 38 0
    let n := argF b 95 64
    mget s1.ctxs (cmdCtx b) = some c →
    (pa % 4096 ≠ 0 ∨ n = 0 ∨ pa / 2 ^ 37 ≠ (pa + n * 4096 - 1) / 2 ^ 37 →
      ∃ t, exec (.pooladd f) s = .next t ∧ Answers s1 t f b 2 0 0) ∧
    (pa % 4096 = 0 → n ≠ 0 → pa / 2 ^ 37 = (pa + n * 4096 - 1) / 2 ^ 37 →
      (s1.poolable c.fn pa n = false → ∃ t, exec (.pooladd f) s = .next t ∧ Answers s1 t f b 4 0 0) ∧
      (s1.poolable c.fn pa n = true → ∃ t, exec (.pooladd f) s = .next t ∧
        Answers (s1.setCtx (cmdCtx b)
          { c with pool := (List.range n).map (fun k => pa + 4096 * k) ++ c.pool }) t f b 1 0 0)))

/-- R327, R328, R379: SEAL makes a template of a context that is in a domain and has no work: its large leaves are
split, its pages, which nothing may be using, end shared, each as a Daymark entry of its own where none is like it,
and no instruction of it may run again. FORK makes a context from a template's block, with the control registers the
block gives, and answers with its id; a context that is no template is answered with status 2. In part it states the
model's own choices: log 59. -/
def Obligations.SealAndFork : Prop :=
  (∀ (f : Nat) s b, Commands s f 3 b → let s1 := accepted s f
    let ctx := cmdCtx b
    let dom := (s1.liveCtx ctx).bind fun c => c.dom
    (dom = none ∨ s1.hasAny ctx = true → ∃ t, exec (.seal f) s = .next t ∧ Answers s1 t f b 2 0 0) ∧
    ∀ d, dom = some d → s1.hasAny ctx = false →
      (s1.splitLeaves ctx = none → ∃ t, exec (.seal f) s = .next t ∧ Answers s1 t f b 3 0 0) ∧
      ∀ s2, s1.splitLeaves ctx = some s2 →
        let ls := s2.leaves ctx
        let back := fun (i : Nat) => if argF b 63 0 = 0 then 0 else s1.peekN (hostKey (argF b 63 0 + 8 * i)) 8
        let backed := (s1.reg 0 (oMod 0x20)).testBit 0 = false ∨ ∀ i, i < ls.length → back i ≠ 0
        (¬backed → ∃ t, exec (.seal f) s = .next t ∧ Answers s1 t f b 2 0 0) ∧
        (backed → (∃ l ∈ ls, ∃ p ∈ l.frames, s2.frameBusy p = true) → exec (.seal f) s = .next s1) ∧
        (backed → (∀ l ∈ ls, ∀ p ∈ l.frames, s2.frameBusy p = false) →
          let sealed := s2.sealPages ctx d (ls.zipIdx.map fun e => (e.1, back e.2))
          (sealed = none → ∃ t, exec (.seal f) s = .next t ∧ Answers s1 t f b 3 0 0) ∧
          ∀ s3, sealed = some s3 →
            (∃ t, exec (.seal f) s = .next t ∧ Answers (s3.modCtx ctx fun c => { c with sealed := true }) t f b 1 0 0 ∧
              ∀ c, mget s3.ctxs ctx = some c → mget t.ctxs ctx = some { c with sealed := true }) ∧
            ∀ l e pa c, ls = [l] → s2.smallLeaf ctx l.page = some (e, pa) → mget s2.ctxs ctx = some c → eBit l.e 9 = false →
              eBit l.e 11 = false → eBit e 9 = false →
              (∀ g ∈ s2.bucket (kmac128 (s2.domKey d) (s2.pageBytes ctx l.page e)), g.ref = 0) →
              s3.peekN (devKey pa) 8 = (leafWith e (eDev e) c.dkey 0 true).toNat)) ∧
  ∀ (f : Nat) s b, Commands s f 4 b → let s1 := accepted s f
    let a := argF b 63 0
    let g := cardAt (s1.peek (hostKey a) 64)
    ∀ tm, mget s1.ctxs (g 0 2) = some tm →
      (tm.sealed = false ∨ a % 64 ≠ 0 → ∃ t, exec (.fork f) s = .next t ∧ Answers s1 t f b 2 0 0) ∧
      (tm.sealed = true → a % 64 = 0 → g 0 2 < 1024 → g 2 2 ≤ 512 → g 4 1 < 4 → g 5 3 = 0 →
        natOfBytes ((s1.peek (hostKey a) 64).drop 0x30) = 0 → g 8 8 % 4096 = 0 → g 8 8 < 2 ^ 48 → g 0x10 8 % 4096 = 0 →
        g 0x10 8 < 2 ^ 39 → g 0x18 8 % 2 ^ 21 ≤ 1 → g 0x18 8 < 2 ^ 48 → g 0x20 4 < 2 ^ 24 → g 0x24 8 % 4096 = 0 →
        g 0x24 8 / 2 ^ 37 = g 4 1 → g 0x2C 4 ≠ 0 → g 4 1 = (g 0x24 8 + g 0x2C 4 * 4096 - 1) / 2 ^ 37 →
        s1.poolable (g 2 2) (g 0x24 8) (g 0x2C 4) = true →
        let made := s1.forkFrom (g 0 2) (g 2 2) (g 4 1) tm.dom (g 8 8) (g 0x10 8) (g 0x18 8) (g 0x20 4) (g 0x24 8) (g 0x2C 4)
        (made = none → ∃ t, exec (.fork f) s = .next t ∧ Answers s1 t f b 3 0 0) ∧
        ∀ n s2, made = some (n, s2) → ∃ t c, exec (.fork f) s = .next t ∧ Answers s2 t f b 1 0 n ∧ mget s1.ctxs n = none ∧
          mget t.ctxs n = some c ∧ c.fn = g 2 2 ∧ c.home = g 4 1 ∧ c.dom = tm.dom ∧ c.sealed = false ∧
          t.reg 0 (oCtx n 0x00) = g 8 8 ∧ t.reg 0 (oCtx n 0x08) = g 0x10 8 ∧ t.reg 0 (oCtx n 0x10) = g 0x18 8 ∧
          t.reg 0 (oCtx n 0x18) = g 0x20 4)

/-- R329, R386 to R388: MIGRATE to a die with a free slot moves a context that has left its cores; one with a cluster
still resident waits and is marked as moving. SNAPSHOT keeps what re-creates the session, writes its shards to the
spare regions, and is answered at once where no host store is named, and otherwise once the host's copy, with its
manifest and signatures, is written, or with status 3 where no signature is left. RESTORE makes the session a good
manifest names, in place of a live one, whose Flash log it keeps. In part it states the model's own choices: log 60,
61. -/
def Obligations.SessionCommands : Prop :=
  (∀ (f : Nat) s b c, Commands s f 5 b → let s1 := accepted s f
    let ctx := cmdCtx b
    let die := argF b 1 0
    s1.liveCtx ctx = some c →
    (s1.trust.stepRun ≠ none → exec (.migrate f) s = .next s1) ∧
    (s1.trust.stepRun = none →
      (c.home = die → ∃ t, exec (.migrate f) s = .next t ∧ Answers s1 t f b 1 0 0) ∧
      (c.home ≠ die → s1.slotFree die = false → ∃ t m, exec (.migrate f) s = .next t ∧ Answers m t f b 3 0 0 ∧
        m = { s1 with ctxs := m.ctxs } ∧ mget m.ctxs ctx = some { c with migrating := false }) ∧
      (c.home ≠ die → s1.slotFree die = true →
        ((∀ e ∈ s1.waves, e.2.id.ctx ≠ ctx) → (∀ e ∈ s1.blocks, e.2.ctx ≠ ctx) →
          ∃ t m, exec (.migrate f) s = .next t ∧ Answers m t f b 1 0 0 ∧ m.mem = s1.mem ∧
            mget m.ctxs ctx = some { c with home := die, migrating := false } ∧
            (∀ k, k ≠ ctx → mget m.ctxs k = mget s1.ctxs k) ∧
            (∀ k im, mget s1.sched.images k = some im →
              mget m.sched.images k = some (if im.ctx = ctx then { im with moved := true } else im)) ∧
            ∀ k q, mget m.cores k = some q → ∀ r ∈ q.records, r.ctx ≠ ctx) ∧
        ((∃ w v, s1.wave? w = some v ∧ v.id.ctx = ctx) →
          ∃ t, exec (.migrate f) s = .next t ∧ t.mem = s1.mem ∧ t.regs = s1.regs ∧ t.fns = s1.fns ∧
            mget t.ctxs ctx = some { c with migrating := true })))) ∧
  (∀ (f : Nat) s b c, Commands s f 6 b → let s1 := accepted s f
    let ctx := cmdCtx b
    s1.liveCtx ctx = some c → s1.trust.stepRun = none →
    ((∃ w v, s1.wave? w = some v ∧ v.id.ctx = ctx) →
      ∃ t, exec (.snapshot f) s = .next t ∧ t.mem = s1.mem ∧ t.regs = s1.regs ∧ t.fns = s1.fns ∧
        mget t.ctxs ctx = some { c with snapping := true }) ∧
    ((∀ e ∈ s1.waves, e.2.id.ctx ≠ ctx) → (∀ e ∈ s1.blocks, e.2.ctx ≠ ctx) →
      let n := (s1.modCtx ctx fun k => { k with snapping := true }).snapOf ctx c s1.trust.stepNo (argF b 63 0) f (cmdSeq b)
        (cmdCpl b)
      (n.ctx = ctx ∧ n.tcap = s1.time ∧ n.was = { c with snapping := false } ∧ n.pages.length = (s1.leaves ctx).length) ∧
      ∃ t m, exec (.snapshot f) s = .next t ∧ m = { s1 with mem := m.mem, ctxs := m.ctxs, trust := m.trust } ∧
        mget m.ctxs ctx = some { c with snapping := false } ∧ if n.fits = true then
          m.trust = { s1.trust with snaps := s1.trust.snaps ++ [n], nextSnap := s1.trust.nextSnap + 1 } ∧
            Wrote s1.mem m.mem (n.dies.flatMap fun d => cellsAt (spareKey d) (Config.shard n d)) ∧
            (argF b 63 0 = 0 → Answers m t f b 1 0 0) ∧ (argF b 63 0 ≠ 0 → RingNext m t f)
        else m.trust = s1.trust ∧ m.mem = s1.mem ∧ Answers m t f b 3 0 0)) ∧
  (∀ (ix : Nat) s n, s.trust.snaps.find? (fun n => n.ix = ix && !n.hostDone) = some n → n.cpl.toNat % 16 = 0 →
    let status := fun (code : Nat) => if n.cpl = 0 then [] else cellsAt (hostKey n.cpl.toNat)
      (bytesOfNat 1 code ++ bytesOfNat 1 0 ++ bytesOfNat 2 0 ++ bytesOfNat 4 (n.seq.toNat % 2 ^ 32) ++ bytesOfNat 8 s.time)
    let copied := s.trust.snaps.map fun m => if m.ix = ix then { m with hostDone := true } else m
    ∃ t, exec (.snapshotHostCopy ix) s = .next t ∧ t = { s with mem := t.mem, trust := t.trust } ∧
      (s.trust.lms < 2 ^ 20 → t.trust = { s.trust with lms := s.trust.lms + 1, snaps := copied } ∧
        Wrote s.mem t.mem (cellsAt (hostKey n.store.toNat) (n.manifest ++ bytesOfNatBE 96 (Config.ecdsaSign n.manifest) ++
          bytesOfNatBE 1772 (Config.lmsSign s.trust.lms n.manifest) ++ n.dies.flatMap (Config.shard n)) ++ status 1)) ∧
      (2 ^ 20 ≤ s.trust.lms → t.trust = { s.trust with snaps := copied } ∧ Wrote s.mem t.mem (status 3))) ∧
  ∀ (f : Nat) s b, Commands s f 7 b → let s1 := accepted s f
    (s1.manifestAt (argF b 63 0) = none → ∃ t, exec (.restore f) s = .next t ∧ Answers s1 t f b 2 0 0) ∧
    ∀ n, s1.manifestAt (argF b 63 0) = some n →
      (f ≠ 0 → n.was.fn ≠ f → ∃ t, exec (.restore f) s = .next t ∧ Answers s1 t f b 4 0 0) ∧
      ((f = 0 ∨ n.was.fn = f) → let r := s1.replace n
        (r.2 = none → ∃ t, exec (.restore f) s = .next t ∧ Answers s1 t f b 3 0 0) ∧
        ∀ d s2, r.2 = some (d, s2) → ∃ t c, exec (.restore f) s = .next t ∧
          Answers (s2.keepLog r.1 n.ctx) t f b 1 0 0 ∧ mget t.ctxs n.ctx = some c ∧ c.fn = n.was.fn ∧ c.home = d ∧
          c.skey = n.was.skey ∧ c.terminated = false ∧
          (mget s1.ctxs n.ctx = none → r.1 = s1 ∧ ∀ k, k ≠ n.ctx → mget t.ctxs k = mget s1.ctxs k) ∧
          ∀ old, mget r.1.ctxs n.ctx = some old → old.nextLaunch ≤ c.nextLaunch ∧ c.lastSeal = old.lastSeal)

/-! ### Trust, clocks and registers -/

/-- R360 to R362: a LOCK is accepted in CONFIG_UNLOCKED and takes the digest of the locked registers, a START in
CONFIG_LOCKED with an established stream, and an unlock in any state; any other request gets an error. The lock notes
the contexts bound to the function, whose registers its digest covers from then on. An interface that enters ERROR, by
a TDISP event with reason 2 or a Lamplighter comparison that differs with reason 1, ends every context of its
function; the Lamplighter counts its comparisons, which go through the locked functions in ascending order, pass by
pass. In part it states the model's own choices: log 71. -/
def Obligations.Interfaces : Prop :=
  ∀ (f : Nat) s, f < 513 → s.portOpen = true → let k := s.fn f
    let said := { s with trust := { s.trust with out := s.trust.out ++ [.error] } }
    let left := if s.trust.pass = [] then (List.range 513).filter fun g => (s.fn g).tdisp.isLocked else s.trust.pass
    let inError := fun (s t : State) (why : Nat) => t.mem = s.mem ∧ t.regs = s.regs ∧
      t.fn f = { s.fn f with tdisp := .error, errReason := why } ∧ (∀ g, g ≠ f → t.fn g = s.fn g) ∧
      (∀ n c, mget s.ctxs n = some c → c.fn = f → ∃ d, mget t.ctxs n = some d ∧ d.terminated = true) ∧
      (∀ n, (∀ e ∈ s.ctxs, e.1 = n → e.2.fn ≠ f) → mget t.ctxs n = mget s.ctxs n) ∧
      ∀ w v c, t.wave? w = some v → s.liveCtx v.id.ctx = some c → c.fn ≠ f
    (k.tdisp ≠ .unlocked → exec (.lockInterfaceRequest f) s = .next said) ∧
    (k.tdisp = .unlocked →
      let held := (s.lockedRegs f).flatMap fun o => bytesOfNat 4 o ++
        bytesOfNat (if (regInfo 0 o).any (fun i => i.wide) = true then 8 else 4) (s.reg 0 o)
      let bound := (s.ctxs.filter fun c => c.2.fn = f).map fun c => c.1
      exec (.lockInterfaceRequest f) s =
        .next (s.setFn f { k with tdisp := .locked, digest := some (sha384 held), lockSet := bound })) ∧
    (k.tdisp ≠ .locked ∨ (∀ e ∈ s.trust.ide, e.2.1 ≠ f) → exec (.startInterfaceRequest f) s = .next said) ∧
    (k.tdisp = .locked → (∃ e ∈ s.trust.ide, e.2.1 = f) →
      exec (.startInterfaceRequest f) s = .next (s.setFn f { k with tdisp := .run })) ∧
    (let freed := s.setFn f { k with tdisp := .unlocked, errReason := 0, digest := none, lockSet := [] }
     let rest := s.trust.pass.filter fun g => decide (g ≠ f)
     exec (.tdispUnlock f) s = .next { freed with trust := { s.trust with pass := rest } }) ∧
    (k.tdisp = .error → exec (.tdispError f) s = .next s) ∧
    (k.tdisp ≠ .error → ∃ t, exec (.tdispError f) s = .next t ∧ inError s t 2) ∧
    (left.head? ≠ some f → exec (.lamplighterWalk f) s = .next s) ∧
    (left.head? = some f → let s0 : State := { s with trust := { s.trust with pass := left.tail } }
      let s1 := s0.setReg f (oFn 0x08) ((s.reg f (oFn 0x08) + 1) % 2 ^ 32)
      (k.digest = some (s.lockDigest f) → exec (.lamplighterWalk f) s = .next s1) ∧
      (k.digest ≠ some (s.lockDigest f) → ∃ t, exec (.lamplighterWalk f) s = .next t ∧ inError s1 t 1))

/-- R364, R367, R371, R403: a secured session is noted; in one, IDE keys are set, and a ring takes a new key, made by
the module and released in the session, at once where its head has come to the index or the ring is halted, and keeps
it until then otherwise: the sequence then starts from 1, and a halted ring passes over the commands before the index.
A message outside a session gets an error. A log key is released in a session with mutual authentication. R365, R366,
R393: a measurement or a challenge is answered, once the module runs, with its blocks, two signatures and the length
of the LMS one, and counts one use of the LMS key; after 2^20 uses, and for a block there is not, the answer is an
error. Block 1 is the boot ROM's digest and block 5 the tournament registers with the time. A module whose firmware or
microcode did not start answers every request with an error. In part it states the model's own choices: log 57, 71,
73. -/
def Obligations.SessionsKeysAndAttestation : Prop :=
  ((∀ (both : Bool) s, (s.portOpen = false → s.spdmDown = false → exec (.spdmSecuredSession both) s = .next s) ∧
    (s.portOpen = true →
      exec (.spdmSecuredSession both) s = .next (s.setFn 0 { s.fn 0 with session := true, mutualSession := both }))) ∧
  (∀ (use : IdeUse) (f : Nat) (key : BitVec 256) (secured : Bool) (ix : Word) s, s.portOpen = true →
    let said := { s with trust := { s.trust with out := s.trust.out ++ [.error] } }
    ((s.fn 0).session = false → exec (.ideKm use key) s = .next said) ∧
    (f < 513 → (s.fn 0).session = false ∨ secured = false → exec (.ringKeyRotation f secured ix) s = .next said)) ∧
  (∀ (f stream : Nat) (out : Bool) (key : BitVec 256) s, s.portOpen = true → (s.fn 0).session = true →
    (f < 513 → stream < 64 → exec (.ideKm (.selective f stream) key) s =
      .next { s with trust := { s.trust with ide := mput s.trust.ide stream (f, key) } }) ∧
    exec (.ideKm .link key) s = .next { s with trust := { s.trust with ideLink := some key } } ∧
    exec (.ideKm (.cxl out) key) s = .next { s with trust := { s.trust with
      cxlIde := mput s.trust.cxlIde (if out = true then 1 else 0) key } }) ∧
  (∀ (f : Nat) (ix : Word) s, f < 513 → s.portOpen = true → (s.fn 0).session = true → (s.fn f).rotations = [] →
    let key := Config.moduleKey s.vm.nextKey
    let past := behind ix.toNat (s.cmdHead f)
    ∃ t, exec (.ringKeyRotation f true ix) s = .next t ∧ t.mem = s.mem ∧ t.vm = { s.vm with nextKey := s.vm.nextKey + 1 } ∧
      t.trust = { s.trust with out := s.trust.out ++ [.ringKey f key] } ∧
      (past = false → (s.fn f).ringHalt = 0 → t.regs = s.regs ∧ t.fn f = { s.fn f with rotations := [(key, ix)] }) ∧
      (past = true ∨ (s.fn f).ringHalt ≠ 0 →
        t.fn f = { s.fn f with key := some key, ringHalt := 0, rotations := [] } ∧ t.reg f (oFn 0x18) = 1 ∧
        t.reg f (oFn 0x50) = if past = true then s.cmdHead f else ix.toNat)) ∧
  ∀ (ctx : Nat) s, s.portOpen = true → let k := s.fn 0
    (k.mutualSession = true → (mget s.trust.logKeys ctx).isSome = true → exec (.logKeyRequest ctx) s =
      .next { s with trust := { s.trust with out := s.trust.out ++ [.logKey ctx (s.logKey ctx)] } }) ∧
    (k.mutualSession = false ∨ mget s.trust.logKeys ctx = none → exec (.logKeyRequest ctx) s =
      .next { s with trust := { s.trust with out := s.trust.out ++ [.error] } })) ∧
  ((∀ s, s.portOpen = true →
    let say := fun (m : OutMsg) => { s with trust := { s.trust with out := s.trust.out ++ [m] } }
    let signs := fun (b : Bytes) (m : Nat → Nat → Nat → OutMsg) => { s with trust := { s.trust with
      out := s.trust.out ++ [m (Config.ecdsaSign b) (Config.lmsSign s.trust.lms b) lmsLen], lms := s.trust.lms + 1 } }
    let all := fun (f : Nat) => (List.range 8).flatMap fun i => s.block f (i + 1)
    (∀ (f block : Nat),
      (block = 0 ∨ (8 < block ∧ block ≠ 0xFF) ∨ 513 ≤ f → exec (.getMeasurements f block) s = .next (say .error)) ∧
      ((1 ≤ block ∧ block ≤ 8) ∨ block = 0xFF → f < 513 →
        let b := if block = 0xFF then all f else s.block f block
        exec (.getMeasurements f block) s =
          .next (if s.trust.lms < 2 ^ 20 then signs b (.measurements f block b) else say .errorUnspecified))) ∧
    (∀ f d, s.trust.boot = some d → s.block f 1 = bytesOfNatBE 48 d.toNat) ∧
    (∀ f, s.block f 5 = bytesOfNat 4 (s.reg 0 (oMod 0x20)) ++ bytesOfNat 4 (s.reg 0 (oMod 0x24)) ++
      bytesOfNat 4 (s.reg 0 (oMod 0x28)) ++ bytesOfNat 8 s.time) ∧
    ∀ nonce : BitVec 256, let b := bytesOfNatBE 32 nonce.toNat ++ all 0
      exec (.challenge nonce) s =
        .next (if s.trust.lms < 2 ^ 20 then signs b (.challengeAuth nonce b) else say .errorUnspecified)) ∧
  ∀ (f block ctx : Nat) nonce (both secured : Bool) use key ix s, s.trust.boot_step = 1 ∨ s.trust.boot_step = 2 → f < 513 →
    ∀ i ∈ [Instr.getMeasurements f block, .challenge nonce, .spdmSecuredSession both, .ideKm use key,
      .ringKeyRotation f secured ix, .logKeyRequest ctx, .lockInterfaceRequest f, .startInterfaceRequest f, .tdispUnlock f],
      exec i s = .next { s with trust := { s.trust with out := s.trust.out ++ [.error] } })

/-- R23, R368 to R370, R396, R397: a change of mode takes effect at its tick on every die, but for one that is tripped
to a lower clock, with an event in every log: its record, sealed, goes to the log's next index. A temperature at its
trip threshold lets the die's clock be lowered and its bits be set; the clock returns when every reading is below
again. A reading at or above a threshold sets the threshold's bit of MONEV. Boost moves a die's clock up to 2,600 MHz
outside tournament mode. In part it states the model's own choices: log 55, 70, 79. -/
def Obligations.ClocksAndMonitors : Prop :=
  (∀ s at_ (v : Word) later, s.trust.tournAt = (at_, v) :: later →
    let code := if v.toNat.testBit 0 = true then v.toNat / 2 % 4 else 4
    let mhz := if v.toNat.testBit 0 = true then 1800 + 200 * (v.toNat / 2 % 4) else 2200
    (s.time < at_ → exec .tournSwitch s = .next s) ∧
    (at_ ≤ s.time → (∀ e ∈ s.ctxs, e.1 < 1024) → ∃ t, exec .tournSwitch s = .next t ∧
      t.trust = { s.trust with tournAt := later } ∧
      t.waves = s.waves ∧ (∀ d k, mget s.dies d = some k → mget t.dies d =
        some { k with mhz := if k.trip = true then min k.mhz mhz else mhz }) ∧
      t.reg 0 (oMod 0x24) = code * 0x1111 + s.reg 0 (oMod 0x28) % 16 * 65536 ∧
      (s.ctxs = [] → t.mem = s.mem) ∧
      ∀ n c, s.ctxs = [(n, c)] → s.reg 0 (oLog n 0x00) ≠ 0 →
        let head := s.reg 0 (oLog n 0x0C)
        let body := bytesOfNat 2 2 ++ bytesOfNat 2 n ++ bytesOfNat 4 0 ++
          (List.replicate 6 s.time).flatMap (fun e => bytesOfNat 8 e) ++ bytesOfNat 4 (c.home + 16 * t.clkCode c.home + 256) ++
          bytesOfNat 4 head
        let mac := kmac128 (s.logKey n) (body ++ bytesOfNat 16 c.lastSeal.toNat)
        t.reg 0 (oLog n 0x0C) = (head + 1) % 2 ^ 32 ∧ mget t.ctxs n = some { c with lastSeal := mac } ∧
        Wrote s.mem t.mem (cellsAt (hostKey (s.reg 0 (oLog n 0x00) + 80 * (head % 2 ^ sizeLog (s.reg 0 (oLog n 0x08)))))
          (body ++ bytesOfNat 16 mac.toNat)))) ∧
  (∀ (die : Nat) s, die < 4 → s.portOpen = true → (∀ e ∈ s.ctxs, e.1 < 1024) → let k := s.die die
    let signed := fun (ofs : Nat) => (BitVec.ofNat 32 (s.reg 0 (oMon die ofs))).toInt
    let hot := ∃ n, n < 64 ∧ signed 0x104 ≤ (BitVec.ofNat 16 (s.reg 0 (oMon die (4 * n)))).toInt
    (k.trip = true ∨ k.lost = true ∨ ¬hot → exec (.thermalTrip die) s = .next s) ∧
    (k.trip = false → k.lost = false → hot → ∃ t m, exec (.thermalTrip die) s = .next t ∧ t.waves = s.waves ∧
      t.die die = { k with trip := true, mhz := m, monAt := mput k.monAt 1 k.clk } ∧ m < max 1 k.mhz ∧
      t.reg 0 (oMod 0x28) = s.reg 0 (oMod 0x28) ||| 2 ^ die ∧
      t.reg 0 (oMod 0x24) = s.reg 0 (oMod 0x24) % 65536 + (s.reg 0 (oMod 0x28) ||| 2 ^ die) % 16 * 65536 ∧
      t.reg 0 (oMon die 0x500) = s.reg 0 (oMon die 0x500) ||| 2 ∧
      (s.inForce = 0 → t.mem = s.mem ∧ t.ctxs = s.ctxs)) ∧
    (k.trip = false ∨ hot → exec (.tripClear die) s = .next s) ∧
    (k.trip = true → ¬hot → ∃ t, exec (.tripClear die) s = .next t ∧ t.waves = s.waves ∧
      t.die die = { k with trip := false, mhz := modeMhz s.inForce } ∧
      (s.inForce = 0 → t.mem = s.mem ∧ t.ctxs = s.ctxs)) ∧
    (∀ mhz, s.inForce = 0 → k.trip = false → 0 < mhz → mhz ≤ 2600 →
      exec (.boostThrottle die mhz) s = .next (s.setDie die { k with mhz := mhz })) ∧
    (∀ mhz, s.inForce ≠ 0 → exec (.boostThrottle die mhz) s = .next s) ∧
    (∀ (n : Fin 64) (v : BitVec 16), ∃ t, exec (.monitorEvent die (.temp n) v) s = .next t ∧ t.waves = s.waves ∧
      t.reg 0 (oMon die (4 * n)) = v.toNat ∧
      t.reg 0 (oMon die 0x500) = s.reg 0 (oMon die 0x500) |||
        (if signed 0x100 ≤ v.toInt then 1 else 0) ||| if signed 0x104 ≤ v.toInt then 2 else 0) ∧
    (∀ (n : Fin 32) (v : BitVec 16), ∃ t, exec (.monitorEvent die (.droop n) v) s = .next t ∧ t.waves = s.waves ∧
      t.reg 0 (oMon die (0x200 + 4 * n)) = v.toNat % 4096 ∧
      t.reg 0 (oMon die 0x500) = s.reg 0 (oMon die 0x500) |||
        if s.reg 0 (oMon die 0x300) ≤ v.toNat % 4096 then 4 else 0) ∧
    ∀ v : BitVec 16, (∃ t, exec (.monitorEvent die .power v) s = .next t ∧ t.waves = s.waves ∧
        t.reg 0 (oMon die 0x500) = s.reg 0 (oMon die 0x500) ||| 8) ∧
      ∃ t, exec (.monitorEvent die .softError v) s = .next t ∧ t.mem = s.mem ∧
        t.reg 0 (oMon die 0x504) = min (2 ^ 32 - 1) (s.reg 0 (oMon die 0x504) + 1))

/-- R6, R7, R24, R361, R363, R368, R380, R396: a write of 4 bytes to a register stores the bits the register holds; to
a W1C register it clears the bits written as 1; to a read-only register it does nothing. While a function's interface
is locked, or in ERROR, a write to an RL register is counted and ignored. A width or an alignment that is not
supported is turned away. A read of 4 bytes gives the register, or the half of a wide one, and one of 8 bytes both
halves; 0 stands where there is none. PWRREQ is checked and reported in PWRST; a change of TOURN falls due within 10
µs, behind those before it. In part it states the model's own choices: log 68, 70, 79. -/
def Obligations.RegisterWrites : Prop :=
  (∀ (f ofs : Nat) (v : DWord) s i, s.portOpen = true → f < 513 → ofs % 4 = 0 → ofs < 2 ^ 21 → regInfo f ofs = some i →
    i.wide = false → f ≠ 0 → let w := v.toNat % 2 ^ 32
    let g := s.fn f
    (i.access = .ro → exec (.registerWrite f ofs 4 v) s = .next s) ∧
    (i.access = .rl → (g.tdisp = .locked ∨ g.tdisp = .run ∨ g.tdisp = .error) → exec (.registerWrite f ofs 4 v) s =
      .next (s.setReg f (oFn 0x04) (min 0xFFFF (s.reg f (oFn 0x04) + 1)))) ∧
    (i.access = .rw → g.tdisp ≠ .error → exec (.registerWrite f ofs 4 v) s = .next (s.setReg f ofs (w &&& i.mask))) ∧
    (i.access = .rl → g.tdisp = .unlocked → exec (.registerWrite f ofs 4 v) s = .next (s.setReg f ofs (w &&& i.mask))) ∧
    (i.access = .w1c → g.tdisp ≠ .error → s.reg f ofs < 2 ^ 32 →
      exec (.registerWrite f ofs 4 v) s = .next (s.setReg f ofs (s.reg f ofs &&& (2 ^ 32 - 1 - w))))) ∧
  (∀ (f ofs width : Nat) (v : DWord) s,
    (s.portOpen = false → exec (.registerWrite f ofs width v) s = .next s) ∧
    (s.portOpen = true → (513 ≤ f ∨ (width ≠ 4 ∧ width ≠ 8) ∨ ofs % width ≠ 0 ∨ 2 ^ 21 ≤ ofs) →
      exec (.registerWrite f ofs width v) s = .next { s with trust := { s.trust with out := s.trust.out ++ [.unsupported] } }) ∧
    (s.portOpen = true → f < 513 → ofs % 4 = 0 → ofs < 2 ^ 21 → coveredBy f ofs = none →
      exec (.registerWrite f ofs 4 v) s = .next s)) ∧
  (∀ (f ofs width : Nat) (s : State),
    (513 ≤ f ∨ (width ≠ 4 ∧ width ≠ 8) ∨ ofs % width ≠ 0 ∨ 2 ^ 21 ≤ ofs → s.readReg f ofs width = none) ∧
    (f < 513 → ofs < 2 ^ 21 →
      (ofs % 4 = 0 → coveredBy f ofs = none → s.readReg f ofs 4 = some 0) ∧
      (ofs % 4 = 0 → ∀ i, regInfo f ofs = some i → s.readReg f ofs 4 = some (s.regRead f ofs % 2 ^ 32)) ∧
      (ofs % 8 = 0 → ∀ i, regInfo f ofs = some i → i.wide = true → regInfo f (ofs + 4) = none →
        (ofs + 4 < 2 ^ 21 → s.readReg f (ofs + 4) 4 = some (s.regRead f ofs / 2 ^ 32)) ∧
        s.readReg f ofs 8 = some (s.regRead f ofs)))) ∧
  (∀ (v : Word) s, s.portOpen = true → (s.fn 0).tdisp = .unlocked →
    (let req := v.toNat % 2048
      let need := if (s.reg 0 (oMod 0x20)).testBit 0 = true then
        (Config.powerNeed (BitVec.ofNat 2 (s.reg 0 (oMod 0x20) / 2))).toNat else 0
      let result := if req < 700 ∨ 1100 < req then 1 else if req < need then 2 else 0
      ∃ t, exec (.pwrreq v) s = .next t ∧ t = { s with regs := t.regs } ∧ t.reg 0 (oMod 0x40) = req ∧
        t.reg 0 (oMod 0x44) = (if result = 0 then req else s.reg 0 (oMod 0x44)) ∧
        fieldOf (t.reg 0 (oMod 0x48)) 1 0 = result ∧
        fieldOf (t.reg 0 (oMod 0x48)) 15 8 = (fieldOf (s.reg 0 (oMod 0x48)) 15 8 + 1) % 256) ∧
    (v.toNat % 8 = s.reg 0 (oMod 0x20) → ∃ t, exec (.tourn v) s = .next t ∧ t = { s with regs := t.regs } ∧
      t.reg 0 (oMod 0x20) = v.toNat % 8) ∧
    (v.toNat % 8 ≠ s.reg 0 (oMod 0x20) → ∃ t at_, exec (.tourn v) s = .next t ∧ t.reg 0 (oMod 0x20) = v.toNat % 8 ∧
      t.trust = { s.trust with tournAt := s.trust.tournAt ++ [(at_, BitVec.ofNat 32 (v.toNat % 8))] } ∧ s.time < at_ ∧
      (at_ ≤ s.time + 10000 ∨ ∃ e ∈ s.trust.tournAt, at_ = e.1) ∧ (∀ e, s.trust.tournAt.getLast? = some e → e.1 ≤ at_) ∧
      t.dies = s.dies) ∧
    (s.reg 0 (oMod 0x28) < 16 → ∃ t, exec (.ttrip v) s = .next t ∧ t = { s with regs := t.regs } ∧
      t.reg 0 (oMod 0x28) = s.reg 0 (oMod 0x28) &&& (2 ^ 32 - 1 - v.toNat) ∧
      t.reg 0 (oMod 0x24) = s.reg 0 (oMod 0x24) % 65536 + t.reg 0 (oMod 0x28) % 16 * 65536)) ∧
  (∀ (v : Word) s, s.portOpen = true → (s.fn 0).tdisp = .locked →
    let no := s.setReg 0 (oFn 0x04) (min 0xFFFF (s.reg 0 (oFn 0x04) + 1))
    exec (.pwrreq v) s = .next no ∧ exec (.tourn v) s = .next no) ∧
  ∀ (f : Nat) (v : Word) s, s.portOpen = true → f < 513 →
    ((s.fn f).tdisp ≠ .error → exec (.cmdtail f v) s = .next (s.setReg f (oFn 0x4C) v.toNat)) ∧
    ((s.fn 0).tdisp ≠ .error → (∀ d, d < 4 → (s.die d).reqs = []) →
      (∃ t, exec (.rpqtail f v) s = .next t ∧ t = { s with regs := t.regs, dies := t.dies } ∧
        t.reg 0 (0xE0000 + 0x40 * f + 0x24) = v.toNat) ∧
      ∃ t, exec (.prqhead f v) s = .next t ∧ t = { s with regs := t.regs, dies := t.dies } ∧
        t.reg 0 (0xE0000 + 0x40 * f + 0x10) = v.toNat)

/-! ### Links, the host port, start-up and the loss of a die -/

/-- R383, R384, R391: a new flit is sent under the next sequence number while fewer than 256 are unacknowledged. A
good flit next in order is delivered, with held flits that follow it; one ahead of a gap is held and the first missing
one asked for; one delivered or held already is dropped, as is one that fails its check, and every flit of a group of
8 whose tag fails, which its first flit shows. A NAK for n, and a timeout of 1 µs, resend that one flit, once in a
clk; the sixteenth resend retrains the link, which keeps its window or goes down. R13, R364, R385: the grandmaster is
the lowest clock identity of the joined modules, as their links name them and this module's own. A PTP message never
steps the timebase; it notes what its module names, and the offset to the grandmaster where it names that one; this
module, as the grandmaster, has none; an offset within 20 ns aligns a module that stood apart. A link that is down
comes up with nothing sent, a bridge link, both of whose dies are there, with the module's own key; a Wenzil link is
aligned where the offset it finds is within 1 µs. In part it states the model's own choices: log 69. -/
def Obligations.Links : Prop :=
  ((∀ (link : Nat) (payload : List Byte) (kind : BitVec 6) s, let l := s.link link
    (l.up = false ∨ 256 ≤ l.window.length → exec (.flitSend link payload kind) s = .next s) ∧
    (l.up = true → l.window.length < 256 → payload.length = 56 →
      let e : LinkFlit := ⟨⟨payload, l.sendSeq, kind, l.ackOut, l.nakOut.isSome, true, true⟩, s.time, 0, none⟩
      exec (.flitSend link payload kind) s =
        .next (s.setLink link { l with sendSeq := l.sendSeq + 1, window := l.window ++ [e] }))) ∧
  (∀ (link : Nat) (fl : Flit) s, let l0 := s.link link
    let tag := if l0.rx = 0 then fl.tag else l0.groupOk
    let l := { l0 with rx := l0.rx + 1, groupOk := tag }
    (l.up = false → exec (.flitReceive link fl) s = .next s) ∧
    (l.up = true → fl.good = false ∨ tag = false → exec (.flitReceive link fl) s =
      .next (s.setLink link { l with nakOut := some l.expect })) ∧
    (l.up = true → fl.good = true → tag = true → fl.payload.length = 56 → fl.nak = false →
      let left := l.window.filter fun e => decide (512 ≤ (fl.ack - e.flit.seq).toNat)
      (fl.seq = l.expect → l.heldFlits = [] → exec (.flitReceive link fl) s = .next (s.setLink link { l with
        window := left, delivered := l.delivered ++ [(fl.payload, fl.kind)], ackOut := fl.seq, expect := fl.seq + 1
        heldFlits := [], nakOut := none })) ∧
      (∀ g, fl.seq = l.expect → l.heldFlits = [g] → g.seq = l.expect + 1 →
        exec (.flitReceive link fl) s = .next (s.setLink link { l with
          window := left, delivered := l.delivered ++ [(fl.payload, fl.kind), (g.payload, g.kind)], ackOut := g.seq
          expect := fl.seq + 2, heldFlits := [], nakOut := none })) ∧
      (0 < (fl.seq - l.expect).toNat → (fl.seq - l.expect).toNat < 256 → (∀ g ∈ l.heldFlits, g.seq ≠ fl.seq ∧ g.seq ≠ l.expect) →
        exec (.flitReceive link fl) s = .next (s.setLink link { l with
          window := left, heldFlits := l.heldFlits ++ [fl], nakOut := some l.expect })) ∧
      (256 ≤ (fl.seq - l.expect).toNat ∨ (∃ g ∈ l.heldFlits, g.seq = fl.seq) →
        exec (.flitReceive link fl) s = .next (s.setLink link { l with window := left })))) ∧
  let clk := fun (s : State) (link : Nat) => (s.die (linkDie link)).clk
  let again := fun (s : State) (link : Nat) (l : Link) (n : BitVec 10) => { l with window := l.window.map fun k =>
    if k.flit.seq = n then ⟨{ k.flit with ack := l.ackOut, nak := l.nakOut.isSome }, s.time, k.resends + 1, some (clk s link)⟩
    else k }
  (∀ (link : Nat) (n : BitVec 10) s, let l := s.link link
    let l1 := { l with window := l.window.filter fun e => decide (512 ≤ (n - 1 - e.flit.seq).toNat) }
    (l.up = false → exec (.nak link n) s = .next s) ∧
    (l.up = true → (l1.window.find? fun e => e.flit.seq = n) = none → exec (.nak link n) s = .next (s.setLink link l1)) ∧
    ∀ e, l.up = true → (l1.window.find? fun e => e.flit.seq = n) = some e →
      (e.resentAt = some (clk s link) → exec (.nak link n) s = .next (s.setLink link l1)) ∧
      (e.resentAt ≠ some (clk s link) → e.resends < 15 →
        ∃ t, exec (.nak link n) s = .next t ∧ t = { s with links := t.links } ∧ t.link link = again s link l1 n ∧
          ∀ k, k ≠ link → t.link k = s.link k) ∧
      (e.resentAt ≠ some (clk s link) → 15 ≤ e.resends → ∃ t, exec (.nak link n) s = .next t ∧
        ((t.link link).up = false ∨
          (t.link link).window = (again s link l1 n).window.map fun e => { e with resends := 0 }))) ∧
  ∀ (link : Nat) s e rest, let l := s.link link
    l.window = e :: rest →
    (l.up = false ∨ s.time ≤ e.sentAt + 1000 → exec (.resendTimeout link) s = .next s) ∧
    (l.up = true → e.sentAt + 1000 < s.time → e.resentAt = some (clk s link) → exec (.resendTimeout link) s = .next s) ∧
    (l.up = true → e.sentAt + 1000 < s.time → e.resentAt ≠ some (clk s link) → e.resends < 15 →
      exec (.resendTimeout link) s = .next (s.setLink link (again s link l e.flit.seq)))) ∧
  ((∀ (s : State), (∀ (n : Nat) (l : Link), (n, l) ∈ s.links → l.up = true → ∀ k, l.master = some k →
      s.grandmaster.toNat ≤ k.toNat) ∧ s.grandmaster.toNat ≤ Config.clockId.toNat ∧
    (s.grandmaster = Config.clockId ∨
      ∃ (n : Nat) (l : Link), (n, l) ∈ s.links ∧ l.up = true ∧ l.master = some s.grandmaster)) ∧
  (∀ (link : Nat) (note : PtpNote) s, let l := s.link link
    (link < 6 ∨ 14 ≤ link ∨ l.up = false → exec (.ptpMessage link note) s = .next s) ∧
    (6 ≤ link → link < 14 → l.up = true → let m := (s.setLink link { l with master := some note.master }).grandmaster
      ∃ t o, exec (.ptpMessage link note) s = .next t ∧ t.time = s.time ∧ t = { s with links := t.links } ∧
        (∀ k, k ≠ link → t.link k = s.link k) ∧
        t.link link = { l with master := some note.master, offset := o, aligned := l.aligned || decide (-20 ≤ o ∧ o ≤ 20) } ∧
        (m = Config.clockId → o = 0) ∧ (m ≠ Config.clockId → m = note.master → o = note.offset) ∧
        (m ≠ Config.clockId → m ≠ note.master → o = l.offset))) ∧
  ∀ (link : Nat) (terms : LinkTerms) s,
    (14 ≤ link ∨ (s.link link).up = true → exec (.linkTraining link terms) s = .next s) ∧
    (link < 14 → 6 ≤ s.trust.boot_step → (s.link link).up = false →
      (6 ≤ link → ∃ t o, exec (.linkTraining link terms) s = .next t ∧ t.time = s.time ∧ t.mem = s.mem ∧
        t.link link = { up := true, key := some terms.key, offset := o, aligned := decide (-1000 ≤ o ∧ o ≤ 1000)
                        master := some terms.master }) ∧
      (link < 6 → (∃ d, d ∈ bridgeDies link ∧ (s.die d).lost = true) → exec (.linkTraining link terms) s = .next s) ∧
      (link < 6 → (∀ d ∈ bridgeDies link, (s.die d).lost = false) → exec (.linkTraining link terms) s =
        .next (s.setLink link { up := true, key := some (Config.linkKey link) }))))

/-- R261, R304, R372, R373: the host reads and writes device memory, in device bias at the home L2, in host bias in
memory itself, where its write leaves the one copy of the line; its access sets the bias in force of a page, as any
does. A line that is lost gives no data, nor does a byte that failed, until it is written again. An address that names
no byte is no access. In part it states the model's own choices: log 67. -/
def Obligations.HostAccesses : Prop :=
  ∀ (pa : Nat) (b : Byte) s, s.portOpen = true →
    let k := s.redirect pa
    let gone := (s.die (dieOf k)).lost = true ∨ mget s.vm.bad (lineOf k) ≠ none
    let no := { s with trust := { s.trust with out := s.trust.out ++ [.unsupported] } }
    let noted : State := match s.hostPage (4096 * (pa / 4096)) with
      | none => s
      | some (ctx, page, leaf) => { s with vm := { s.vm with bias :=
          if (mget s.vm.bias (biasKey ctx page)).isSome = true then s.vm.bias else mput s.vm.bias (biasKey ctx page) leaf } }
    let old := fun (q : Nat) => match mget s.vm.dirty (lineOf q) with
      | some l => l.getD (q % 64) 0
      | none => memByte s.mem q
    (namesByte pa = false → exec (.hostAccess pa [] 1) s = .fault (.noSuchByte pa) ∧
      exec (.hostAccess pa [b] 0) s = .fault (.noSuchByte pa)) ∧
    (namesByte pa = true →
      (gone ∨ k ∈ s.vm.soft → exec (.hostAccess pa [] 1) s = .next no) ∧ (gone → exec (.hostAccess pa [b] 0) s = .next no) ∧
      (¬ gone → k ∉ s.vm.soft → exec (.hostAccess pa [] 1) s = .next { noted with trust := { s.trust with
        out := s.trust.out ++ [.hostData [if s.biasAt pa = true then old k else memByte s.mem k]] } }) ∧
      (¬ gone → ∃ t, exec (.hostAccess pa [b] 0) s = .next t ∧ t = { s with mem := t.mem, vm := t.vm } ∧
        k ∉ t.vm.soft ∧ t.vm.bias = noted.vm.bias ∧
        (noted.biasAt pa = false → Wrote s.mem t.mem [(k, b)]) ∧
        (noted.biasAt pa = true → mget t.vm.dirty (lineOf k) = none ∧ memByte t.mem k = b ∧
          ∀ q, q ≠ k → memByte t.mem q = if lineOf q = lineOf k then old q else memByte s.mem q)))

/-- R389: in tournament mode, with every SNAPSTEP, a die's sessions leave their cores and are copied to its buddy, in
alternate slots; a copy that does not fit its slot is not made, and the step with it. The step counts with the last
die's copy, when the manifest is signed and written; where it cannot be signed the step does not count. R390, R392: a
lost die loses its waves, its links and its step under way; SNAPST names it. A session homed there goes on elsewhere,
or ends where no step holds a copy of it. In part it states the model's own choices: log 62, 63. -/
def Obligations.StepsAndLostDies : Prop :=
  ((∀ (die : Nat) s, s.portOpen = true → s.trust.stepRun = none →
    (s.tourney = false ∨ s.time < s.trust.stepAt + max 100 (min 60000 (s.reg 0 (oMod 0x30))) * 1000000 →
      exec (.snapshotStep die) s = .next s) ∧
    ∀ n c, s.tourney = true → die ∈ s.stepDies → 2 ≤ s.stepDies.length → s.ctxs = [(n, c)] → c.home = die →
      c.terminated = false → s.trust.stepAt + max 100 (min 60000 (s.reg 0 (oMod 0x30))) * 1000000 ≤ s.time →
      ((∀ e ∈ s.waves, e.2.id.ctx ≠ n) → (∀ e ∈ s.blocks, e.2.ctx ≠ n) →
        let buddy := if (s.die (die ^^^ 1)).lost = true then die ^^^ 2 else die ^^^ 1
        let slot := (s.trust.stepNo + 1) % 2
        ∃ (t : State) (snap : Snap), exec (.snapshotStep die) s = .next t ∧
          t.trust.stepAt = s.time ∧ t.trust.stepNo = s.trust.stepNo ∧
          snap.ctx = n ∧ snap.step = s.trust.stepNo + 1 ∧ snap.was = { c with snapping := false } ∧
          snap.pages.length = (s.leaves n).length ∧
          let bytes := snap.dies.flatMap (Config.shard snap)
          (bytes.length ≤ 2 ^ 31 → t.trust.stepRun = some (s.trust.stepNo + 1, [die]) ∧
            (buddy, slot, s.trust.stepNo + 1, [snap]) ∈ t.trust.buddies ∧
            Wrote s.mem t.mem (cellsAt (spareKey buddy + 2 ^ 32 + 2 ^ 31 * slot) bytes)) ∧
          (2 ^ 31 < bytes.length → t.trust.stepRun = none ∧ t.trust.buddies = s.trust.buddies ∧ t.mem = s.mem)) ∧
      ((∃ w v, s.wave? w = some v ∧ v.id.ctx = n) → ∃ t, exec (.snapshotStep die) s = .next t ∧
        t.trust.stepRun = some (s.trust.stepNo + 1, []) ∧ mget t.ctxs n = some { c with snapping := true })) ∧
  ∀ (die : Nat) s, (s.trust.stepRun = none → exec (.snapshotStepComplete die) s = .next s) ∧
    ∀ n ds, s.trust.stepRun = some (n, ds) →
      (die ∉ ds ∨ 4 + die ∈ ds → exec (.snapshotStepComplete die) s = .next s) ∧
      (die ∈ ds → 4 + die ∉ ds → (∃ d ∈ s.stepDies, d ≠ die ∧ 4 + d ∉ ds) → exec (.snapshotStepComplete die) s =
        .next { s with trust := { s.trust with stepRun := some (n, ds ++ [4 + die]) } }) ∧
      (die ∈ ds → 4 + die ∉ ds → (∀ d ∈ s.stepDies, d ≠ die → 4 + d ∈ ds) → 2 ^ 20 ≤ s.trust.lms →
        exec (.snapshotStepComplete die) s = .next { s with trust := { s.trust with stepRun := none } }) ∧
      (die ∈ ds → 4 + die ∉ ds → (∀ d ∈ s.stepDies, d ≠ die → 4 + d ∈ ds) → s.trust.lms < 2 ^ 20 →
        ∃ t, exec (.snapshotStepComplete die) s = .next t ∧
        t = { s with regs := t.regs, trust := { s.trust with stepRun := none, stepNo := n, lms := s.trust.lms + 1 } } ∧
        t.reg 0 (oMod 0x34) / 16 = n % 2 ^ 28 ∧
        ∀ d, d < 4 → (t.reg 0 (oMod 0x34)).testBit d = (s.die d).lost)) ∧
  (∀ (die : Nat) s,
    (s.portOpen = false ∨ 4 ≤ die ∨ (s.die die).usable = false ∨ (s.die die).lost = true ∨ s.stepDies.length < 2 →
      exec (.dieLost die) s = .next s) ∧
    (s.portOpen = true → die < 4 → (s.die die).usable = true → (s.die die).lost = false → 2 ≤ s.stepDies.length →
      ∃ t, exec (.dieLost die) s = .next t ∧ (t.die die).lost = true ∧ t.trust.stepRun = none ∧
        (∀ l, l < 6 → die ∈ bridgeDies l → (t.link l).up = false) ∧
        (∀ w v, t.wave? w = some v → w / 3840 ≠ die) ∧
        (s.ctxs = [] → t.mem = s.mem ∧ (t.reg 0 (oMod 0x34)).testBit die = true) ∧
        ∀ n c, s.ctxs = [(n, c)] → c.terminated = false →
          (c.home = die → ∃ d, mget t.ctxs n = some d ∧ (d.terminated = true ∨ d.home ≠ die)) ∧
          (c.home = die → (∀ e ∈ s.trust.buddies, ∀ k ∈ e.2.2.2, k.ctx ≠ n) → ∃ d, mget t.ctxs n = some d ∧
            d.terminated = true)))

/-! ### Traps -/

/-- R147, R290, R293, R296: TRAP as its clause's last instruction traps with 0x0F and its code. In user mode with a
handler for the cause, the trap frame is stored, the trap's registers are set, and the slot becomes the handler's, in
supervisor mode, with the trap's lanes and no rotation, while the registers stay; behind a running handler the trap is
queued. In supervisor mode, or where the cause has no handler, the context is terminated. In part it states the
model's own choices: log 16. -/
def Obligations.TrapEntry : Prop :=
  ∀ (code : BitVec 16) s w x v, Issues s w x v → CReady v x true [] [] → v.id.march = false →
    (s.liveCtx v.id.ctx).isSome = true → let p := v.slot x
    (p.isLast = false → exec (.trap code) s = .next (s.trapC w x 0x02)) ∧
    (p.isLast = true → p.sup = true → ∃ t, exec (.trap code) s = .next t ∧
      Terminated s t v.id.ctx 0x0F (code.setWidth 32)) ∧
    (p.isLast = true → p.sup = false → let q : TrapReq := ⟨x, p.mask, 0x0F, 0, p.at_, 0, code.setWidth 32, false⟩
      let u := v.setSlot x { p with phase := .trap, wait := none }
      (v.trap.running ≠ none → exec (.trap code) s =
        .next (s.setWave w { u with trap := { v.trap with queue := v.trap.queue ++ [q] } })) ∧
      (v.trap.running = none → v.trap.queue = [] → let entry := v.id.kern.handlers.getD 0x0F 0
        (entry = 0 → ∃ t, exec (.trap code) s = .next t ∧ Terminated s t v.id.ctx 0x0F (code.setWidth 32)) ∧
        (entry ≠ 0 → ∀ s1, s1 = s.setWave w { u with trap := { v.trap with queue := [q] } } →
          let frame := v.id.priv + 0x1800
          let r := s1.rangeOf v.self .wr frame 256
          r.1.2 = none → ∃ t v' bs, exec (.trap code) s = .next t ∧ OnlyWave r.2 t w (fun k => k = v') ∧
            v'.regs = v.regs ∧ v'.slot x.other = v.slot x.other ∧
            v'.slot x = { phase := .trap, pc := BitVec.ofNat 48 (v.id.kern.base.toNat + entry), mask := p.mask, sup := true } ∧
            v'.ctl.rb = 0 ∧ v'.ctl.frames = .trap x v.ctl.rb p.mask :: v.ctl.frames ∧ v'.ctl.live = v.ctl.live ∧
            v'.ctl.recon = v.ctl.recon ∧ v'.trap.queue = [] ∧ v'.trap.xcause = 0x0F ∧ v'.trap.xpc = p.at_.setWidth 64 ∧
            v'.trap.xaddr = 0 ∧ v'.trap.xmasklo.toNat = p.mask.toNat % 2 ^ 64 ∧
            v'.trap.xmaskhi.toNat = p.mask.toNat / 2 ^ 64 ∧ v'.trap.xframe = frame ∧ v'.trap.xcode = code.setWidth 64 ∧
            v'.mem.queue = v.mem.queue ++ [
              { wave := w, ctx := v.id.ctx, group := v.mem.nextId, kind := .write ((pieceKeys r.1.1).zip bs)
                lines := pieceLines r.1.1, pad := false, silent := true }] ∧
            bs.length = 256 ∧ cardAt bs 0 8 = 0x0F ∧ cardAt bs 8 8 = p.at_.toNat ∧ cardAt bs 0x10 8 = 0 ∧
            cardAt bs 0x18 16 = p.mask.toNat ∧ cardAt bs 0x28 16 = p.mask.toNat ∧
            cardAt bs 0x38 8 = (match p.join with | some j => j.toNat | none => 0xFFFFFFFFFFFF) ∧
            cardAt bs 0x40 4 = (p.pos + (if x = .B then 16 else 0) + (if p.pend = true then 32 else 0)) % 2 ^ 32 ∧
            cardAt bs 0x44 4 = v.regs.flags.toNat ∧ cardAt bs 0xE0 8 = code.toNat ∧ ∀ d, d < 4 →
              cardAt bs (0x50 + 4 * d) 4 = (mgetD v.ctl.lc d 0).toNat ∧ cardAt bs (0x60 + 8 * d) 8 = (mgetD v.ctl.ls d 0).toNat ∧
              cardAt bs (0x80 + 8 * d) 8 = (mgetD v.ctl.le d 0).toNat)))

/-- R148, R291, R296: SRET outside a running handler of its slot traps with 0x03, and with a mask other than the
trap's lanes, or a longer reconvergence list, it terminates the context. Otherwise FLAGS, RB and the loop registers
come back from the frame as it stands, and o0 to o7 of the trapping lanes from the lane part; the slot goes on in user
mode where it stood, at its instruction, or, with .skip, behind it. In part it states the model's own choices: log 17.
-/
def Obligations.TrapReturn : Prop :=
  ∀ skip s w x v, Issues s w x v → CReady v x true [] [] → (v.slot x).sup = true → (v.slot x).isLast = true →
    (s.liveCtx v.id.ctx).isSome = true →
    ((∀ run, v.trap.running = some run → run.req.slot ≠ x) → exec (.sret skip) s = .next (s.trapC w x 0x03)) ∧
    ∀ run, v.trap.running = some run → run.req.slot = x →
      ((v.slot x).mask ≠ run.req.lanes &&& v.ctl.live ∨ run.depth < v.ctl.spilled.length + v.ctl.recon.length →
        ∃ t, exec (.sret skip) s = .next t ∧ Terminated s t v.id.ctx 0x03 0) ∧
      ((v.slot x).mask = run.req.lanes &&& v.ctl.live → v.ctl.spilled.length + v.ctl.recon.length ≤ run.depth →
        s.selfMiss v 0x1800 256 = none → v.trap.queue = [] → v.mem.miss = [] → run.req.part = false →
        run.slot.sup = false → (∀ f ∈ belowTrap v.ctl.frames, f.mask ≠ 0) →
        ∀ keep : Mask, (∀ l, l < 96 → mbit keep l = (mbit v.ctl.live l &&
          (mbit run.req.lanes l || mbit run.slot.mask l))) → keep ≠ 0 →
        ∀ c s1 u b, u = { v with ctl := { c with last := x } } → c = (v.countIssue x).ctl →
          (s.setWave w u).selfRead u (v.id.priv + 0x1800 + 0x44) 0x5C = (.ok b, s1) →
          (if skip = true then run.slot.clause ≠ none ∧ ¬ (run.req.subcause = 1 ∧ run.req.cause = 0x09)
            else run.slot.only ≠ some 0) →
          ∃ t v', exec (.sret skip) s = .next t ∧ OnlyWave s1 t w (fun k => k = v') ∧ v'.trap = { v.trap with running := none } ∧
            v'.regs = { v.regs with o := v'.regs.o, flags := BitVec.ofNat 6 (cardAt b 0 4) } ∧
            v'.ctl.rb = cardAt b 4 8 % 64 ∧ v'.ctl.frames = belowTrap v.ctl.frames ∧ v'.ctl.live = v.ctl.live ∧
            v'.ctl.recon = v.ctl.recon ∧ v'.slot x.other = v.slot x.other ∧
            (∀ d, d < 4 → mgetD v'.ctl.lc d 0 = BitVec.ofNat 32 (cardAt b (0x0C + 4 * d) 4) ∧
              mgetD v'.ctl.ls d 0 = BitVec.ofNat 48 (cardAt b (0x1C + 8 * d) 8) ∧
              mgetD v'.ctl.le d 0 = BitVec.ofNat 48 (cardAt b (0x3C + 8 * d) 8)) ∧
            (∀ n l, n < 8 → l < 96 → laneAt (v'.oreg n) l =
              if mbit keep l = true ∧ mbit run.req.lanes l = true then laneAt (mgetD run.o n []) l else laneAt (v.oreg n) l) ∧
            (skip = false → v'.slot x = { run.slot with mask := keep, phase := .run, wait := none }) ∧
            (skip = true → (v'.slot x).mask = keep ∧ (v'.slot x).phase = .run ∧ (v'.slot x).sup = false ∧
              (v'.slot x).clause = run.slot.clause ∧ (v'.slot x).pos = run.slot.pos + 1))

/-! ### Encodings and steps -/

/-- R99, R105 to R112, R159, R180, R186, R207, R226, R227: the words the spec writes out decode to the instructions they
stand for. -/
def Obligations.WordsDecode : Prop :=
  unpackHeader 0x1C7F0000 = { n := 1, cls := 3, xw := 1, lw := 7, sw := 7, yd := false, pg := 0, ps := false, low := 0 } ∧
  decode .c 0x22000064 [0x00000003] = .ok (.loopi 100 ⟨0, 0, 3⟩) ∧
  decode .v 0x700A0A0B [] = .ok (.iadd ⟨false, .v 10, .v 10, .v 11⟩) ∧
  decode .v 0xA80CA8B1 [] = .ok (.shl ⟨false, .v 12, .b0, .const 1⟩) ∧
  decode .u 0x100404BF [0x00000040] = .ok (.sadd ⟨false, .s 4, .s 4, .imm 0x40⟩) ∧
  decode .c 0x10000000 [] = .ok .exit ∧
  decode .v 0xA6090102 [0x00D80300] = .ok (.ltab ⟨false, .v 9, .v 1, .v 2⟩ 0xD8 (.v 3)) ∧
  decode .v 0xCE080700 [0x00080000] = .ok (.red ⟨false, .v 8, .v 7⟩ 0 8 0) ∧
  decode .m 0x3000B000 [0x20000000] = .ok (.cpy 16 0) ∧
  decode .m 0x5000CA00 [0x0504FF40] = .ok (.mmaMac ⟨5, 4, 255, 1, 0⟩ 10) ∧
  decode .m 0x600CB000 [0x28600000] = .ok (.sendv false 6 20 (.v 12))

/-- R105 to R117: every well-formed scalar and control instruction is read back from the words that encode it. -/
def Obligations.ScalarAndControlRoundTrip : Prop :=
  ∀ i : Instr, (i.cls = some .u ∨ i.cls = some .c) → i.wf = true → ∀ cl, i.cls = some cl →
    decodeWords cl (encode i) = .ok i

/-- R105 to R117: every well-formed vector and memory instruction is read back from the words that encode it. -/
def Obligations.VectorAndMemoryRoundTrip : Prop :=
  ∀ i : Instr, (i.cls = some .v ∨ i.cls = some .m) → i.wf = true → ∀ cl, i.cls = some cl →
    decodeWords cl (encode i) = .ok i

/-- R31, R32, R100, R101, R116, R118: a step takes the next turn of the agenda. Where that turn is a slot's, and the
slot may issue, the word at its position runs as the instruction it decodes to, in the state that names the slot, and
a word that is no instruction traps; a slot without a clause fetches one. An event of the agenda has its meaning. In
part it states the model's own choices: log 1. -/
def Obligations.StepsRunTheirInstruction : Prop :=
  ∀ s (dt : Nat) rest,
    (∀ i, s.agenda = ⟨dt, .event i⟩ :: rest → i.cls = none → Instr.ofTurn i = false →
      step s = exec i (({ s with agenda := rest } : State).pass dt)) ∧
    ∀ w x v, s.agenda = ⟨dt, .slot w x⟩ :: rest → let s1 := ({ s with agenda := rest } : State).pass dt
      s1.wave? w = some v → v.id.held = false → s1.frozen v = false → v.canRun x = true → v.turnBlocked x = false →
      (v.slot x).wait = none → (v.slot x).firmware = false →
      ((v.slot x).clause = none → step s = exec (.clauseFetch w x) s1) ∧
      ∀ c, (v.slot x).clause = some c →
        (c.waiting = true → step s = exec (.headerWaitEnd w x) s1) ∧
        ∀ word ext, c.waiting = false → c.items[(v.slot x).pos]? = some (word, ext) → v.windowShut x = false →
          ((v.slot x).sup = true ∨ (v.trap.overwrite = none ∧ v.trap.watchdog = false)) →
          (∀ i, decode (Cls.ofCode c.hdr.cls) word ext = .ok i →
            step s = exec i (s1.atIssue w x v) ∧
            (v.id.started = true → s1.atIssue w x v = { s1 with cur := some (w, x) }) ∧
            Issues (s1.atIssue w x v) w x { v with id := { v.id with started := true } }) ∧
          (decode (Cls.ofCode c.hdr.cls) word ext = .error .unassigned ∨
            decode (Cls.ofCode c.hdr.cls) word ext = .error .illegal → step s = .next (s1.trapC w x 0x01))

/-- R7, R26, R393: at reset every register reads its reset value, nothing is resident, no context exists, memory lists
nothing and the host port is closed; the first turn is the cold reset. R393, R395, R399: a cold reset puts every
register at its reset value and leaves nothing resident; with firmware and microcode that fit, it starts one march
wave on each pair, and the port stays closed. In part it states the model's own choices: log 1, 2, 5, 9, 72. -/
def Obligations.ResetAndColdReset : Prop :=
  ((∀ f o, State.reset.reg f o = (regInfo f o).elim 0 fun i => i.reset) ∧ State.reset.mem = [] ∧
  memWf State.reset.mem = true ∧ State.reset.waves = [] ∧ State.reset.blocks = [] ∧ State.reset.ctxs = [] ∧
  State.reset.sched.tasks = [] ∧ State.reset.portOpen = false ∧ State.reset.time = 0 ∧
  step State.reset = exec .coldReset { State.reset with agenda := [] }) ∧
  (∀ s, ∃ t, exec .coldReset s = .next t ∧ t.mem = s.mem ∧ t.time = s.time ∧ t.portOpen = false ∧ t.ctxs = [] ∧
    t.blocks = [] ∧ t.sched = State.reset.sched ∧ t.trust.out = [] ∧ t.trust.boot = some Config.bootDigest ∧
    (∀ f o, t.reg f o = (regInfo f o).elim 0 fun i => i.reset) ∧
    (Config.firmwareSigned = false → t.trust.boot_step = 1 ∧ t.waves = []) ∧
    (Config.firmwareSigned = true → Config.microcodeLoads = false → t.trust.boot_step = 2 ∧ t.waves = []) ∧
    (Config.firmwareSigned = true → Config.microcodeLoads = true → t.trust.boot_step = 4 ∧ t.vm.buckets = 20 ∧
      (∀ d, d < 4 → (t.die d).usable = Config.memoryTrains d) ∧ (∀ l, l < 6 → (t.link l).up = true) ∧
      ∀ w, t.wave? w = if w % 192 = 0 ∧ w < 80 * 192 then some (marchWave (w / 192)) else none))

/-- R1 to R5 and R238: memory keeps its canonical form, each byte once, in rising order, none at what an unlisted byte
reads as: every step from a state whose memory has it leads to one whose memory has it. In part it states the model's
own choices: log 4. -/
def Obligations.MemoryStaysCanonical : Prop :=
  ∀ s t, memWf s.mem = true → step s = .next t → memWf t.mem = true
end

