-- ==== Sys2Proof/Laws/Maps.lean ====
section
/-! SUPPORT. Laws/Maps.lean: reading and writing sparse maps, lanes and masks. -/

namespace Sys2Proof.Machine

/-! ### Maps -/

@[simp] theorem mget_nil {α : Type} (k : Nat) : mget ([] : Map α) k = none := rfl
@[simp] theorem mget_mput_self {α : Type} (m : Map α) (k : Nat) (a : α) : mget (mput m k a) k = some a := by
  induction m with
  | nil => simp [mput, mget]
  | cons e m ih =>
    obtain ⟨j, b⟩ := e
    simp only [mput]
    split
    · simp [mget]
    · split
      · simp [mget]
      · have : j ≠ k := by omega
        simp [mget, this, ih]
theorem mget_mput_ne {α : Type} (m : Map α) (k i : Nat) (a : α) (h : i ≠ k) : mget (mput m k a) i = mget m i := by
  induction m with
  | nil => simp [mput, mget, h.symm]
  | cons e m ih =>
    obtain ⟨j, b⟩ := e
    simp only [mput]
    split
    · simp [mget, h.symm]
    · split
      · subst_vars; simp [mget, h.symm]
      · simp [mget, ih]
theorem mget_mput {α : Type} (m : Map α) (k i : Nat) (a : α) :
    mget (mput m k a) i = if i = k then some a else mget m i := by
  split
  · subst_vars; simp
  · exact mget_mput_ne m k i a ‹_›
@[simp] theorem mgetD_mput_self {α : Type} (m : Map α) (k : Nat) (a d : α) : mgetD (mput m k a) k d = a := by
  simp [mgetD]
theorem mgetD_mput {α : Type} (m : Map α) (k i : Nat) (a d : α) :
    mgetD (mput m k a) i d = if i = k then a else mgetD m i d := by
  simp only [mgetD, mget_mput]; split <;> rfl
theorem mgetD_mput_ne {α : Type} (m : Map α) (k i : Nat) (a d : α) (h : i ≠ k) :
    mgetD (mput m k a) i d = mgetD m i d := by simp [mgetD_mput, h]
@[simp] theorem mget_mdel_self {α : Type} (m : Map α) (k : Nat) : mget (mdel m k) k = none := by
  induction m with
  | nil => rfl
  | cons e m ih =>
    obtain ⟨j, b⟩ := e
    by_cases h : j = k
    · simpa [mdel, h] using ih
    · simpa [mdel, mget, h] using ih
theorem mget_mdel_ne {α : Type} (m : Map α) (k i : Nat) (h : i ≠ k) : mget (mdel m k) i = mget m i := by
  induction m with
  | nil => rfl
  | cons e m ih =>
    obtain ⟨j, b⟩ := e
    by_cases hj : j = k
    · subst hj
      simpa [mdel, mget, h.symm] using ih
    · by_cases hi : j = i
      · simp [mdel, mget, hi, h]
      · simpa [mdel, mget, hj, hi] using ih
theorem mget_mdel {α : Type} (m : Map α) (k i : Nat) : mget (mdel m k) i = if i = k then none else mget m i := by
  split
  · subst_vars; simp
  · exact mget_mdel_ne m k i ‹_›
theorem mget_meach {α : Type} (m : Map α) (f : α → α) (k : Nat) : mget (meach m f) k = (mget m k).map f := by
  induction m with
  | nil => rfl
  | cons e m ih =>
    obtain ⟨j, b⟩ := e
    by_cases h : j = k
    · simp [meach, mget, h]
    · simpa [meach, mget, h] using ih
/-- A map whose absent entries hold a default reads back what was written. -/
theorem mgetD_mset {α : Type} [DecidableEq α] (m : Map α) (k i : Nat) (a d : α) :
    mgetD (mset m k a d) i d = if i = k then a else mgetD m i d := by
  unfold mset
  split
  · subst_vars
    simp only [mgetD, mget_mdel]
    split <;> rfl
  · exact mgetD_mput m k i a d

/-! ### The canonical form -/

theorem mwf_cons {α : Type} (j : Nat) (b : α) (m : Map α) :
    mwf ((j, b) :: m) = (mwf m && m.head?.all fun e => decide (j < e.1)) := by
  cases m with
  | nil => simp [mwf]
  | cons e m => obtain ⟨k, c⟩ := e; simp [mwf, Bool.and_comm]
theorem head_mput {α : Type} (m : Map α) (k j : Nat) (a : α) (hk : j < k)
    (h : (m.head?.all fun e => decide (j < e.1)) = true) :
    ((mput m k a).head?.all fun e => decide (j < e.1)) = true := by
  cases m with
  | nil => simpa [mput] using hk
  | cons e m =>
    obtain ⟨i, b⟩ := e
    simp only [mput]
    split
    · simpa using hk
    · split
      · simpa using hk
      · simpa using h
theorem mwf_mput {α : Type} (m : Map α) (k : Nat) (a : α) (h : mwf m = true) : mwf (mput m k a) = true := by
  induction m with
  | nil => rfl
  | cons e m ih =>
    obtain ⟨j, b⟩ := e
    rw [mwf_cons] at h
    simp only [Bool.and_eq_true] at h
    simp only [mput]
    split
    · rw [mwf_cons, mwf_cons]; simp_all
    · split
      · subst_vars; rw [mwf_cons]; simp_all
      · rw [mwf_cons]
        simp only [Bool.and_eq_true]
        exact ⟨ih h.1, head_mput m k j a (by omega) h.2⟩
theorem mwf_tail {α : Type} (e : Nat × α) (m : Map α) (h : mwf (e :: m) = true) : mwf m = true := by
  obtain ⟨j, b⟩ := e
  rw [mwf_cons] at h
  simp_all
theorem mwf_rising {α : Type} (j : Nat) (b : α) (m : Map α) (h : mwf ((j, b) :: m) = true) :
    ∀ e ∈ m, j < e.1 := by
  induction m generalizing j b with
  | nil => simp
  | cons e m ih =>
    obtain ⟨i, c⟩ := e
    have h1 := mwf_tail _ _ h
    rw [mwf_cons] at h
    simp at h
    intro e he
    rcases List.mem_cons.mp he with rfl | he
    · exact h.2
    · exact Nat.lt_trans h.2 (ih i c h1 e he)
theorem mwf_filter {α : Type} (m : Map α) (p : Nat × α → Bool) (h : mwf m = true) : mwf (m.filter p) = true := by
  induction m with
  | nil => rfl
  | cons e m ih =>
    obtain ⟨j, b⟩ := e
    have hr := mwf_rising j b m h
    have ht := ih (mwf_tail _ _ h)
    simp only [List.filter_cons]
    split
    · rw [mwf_cons]
      simp only [Bool.and_eq_true]
      refine ⟨ht, ?_⟩
      cases hf : m.filter p with
      | nil => rfl
      | cons e r =>
        have : e ∈ m := (List.mem_filter.mp (hf ▸ List.mem_cons_self)).1
        simpa using hr e this
    · exact ht
theorem mwf_mdel {α : Type} (m : Map α) (k : Nat) (h : mwf m = true) : mwf (mdel m k) = true := mwf_filter m _ h
theorem mwf_mset {α : Type} [DecidableEq α] (m : Map α) (k : Nat) (a d : α) (h : mwf m = true) :
    mwf (mset m k a d) = true := by
  unfold mset
  split
  · exact mwf_mdel m k h
  · exact mwf_mput m k a h
theorem mem_mput {α : Type} (m : Map α) (k : Nat) (a : α) (e : Nat × α) (h : e ∈ mput m k a) : e = (k, a) ∨ e ∈ m := by
  induction m with
  | nil => left; simpa [mput] using h
  | cons f m ih =>
    obtain ⟨j, b⟩ := f
    simp only [mput] at h
    split at h
    · rcases List.mem_cons.mp h with h | h
      · exact .inl h
      · exact .inr h
    · split at h
      · rcases List.mem_cons.mp h with h | h
        · exact .inl h
        · exact .inr (List.mem_cons_of_mem _ h)
      · rcases List.mem_cons.mp h with h | h
        · exact .inr (h ▸ List.mem_cons_self)
        · exact (ih h).imp_right (List.mem_cons_of_mem _)

/-! ### Lanes and masks -/

theorem laneAt_ofLanes (f : Nat → Word) (t : Nat) (h : t < 96) : laneAt (ofLanes f) t = f t := by
  simp [laneAt, ofLanes, h]
theorem laneAt_ofLanes_ge (f : Nat → Word) (t : Nat) (h : 96 ≤ t) : laneAt (ofLanes f) t = 0 := by
  simp [laneAt, ofLanes, h]
theorem laneAt_mergeLanes (m : Mask) (f : Nat → Word) (old : List Word) (t : Nat) (h : t < 96) :
    laneAt (mergeLanes m f old) t = if mbit m t then f t else laneAt old t := laneAt_ofLanes _ t h
theorem foldr_bits (f : Nat → Bool) (l : List Nat) (c : Nat) (i : Nat) (h : i < l.length) :
    (l.foldr (fun i n => 2 * n + if f i then 1 else 0) c).testBit i = f (l[i]'h) := by
  induction l generalizing i with
  | nil => simp at h
  | cons a l ih =>
    cases i with
    | zero =>
      simp only [List.foldr_cons, Nat.testBit_zero, List.getElem_cons_zero]
      cases f a <;> simp
    | succ i =>
      simp only [List.foldr_cons, Nat.testBit_succ, List.getElem_cons_succ]
      rw [show ∀ n : Nat, (2 * n + if f a then 1 else 0) / 2 = n by intro n; split <;> omega]
      exact ih i (by simpa using h)
theorem mbit_maskOf (f : Nat → Bool) (t : Nat) (h : t < 96) : mbit (maskOf f) t = f t := by
  unfold mbit maskOf
  rw [BitVec.toNat_ofNat, Nat.testBit_mod_two_pow]
  have := foldr_bits f (List.range 96) 0 t (by simpa using h)
  simp only [h, decide_true, Bool.true_and]
  rw [this]
  simp
theorem mbit_ge (m : Mask) (t : Nat) (h : 96 ≤ t) : mbit m t = false :=
  Nat.testBit_lt_two_pow (Nat.lt_of_lt_of_le m.isLt (Nat.pow_le_pow_right (by omega) h))
theorem mbit_maskOf_ge (f : Nat → Bool) (t : Nat) (h : 96 ≤ t) : mbit (maskOf f) t = false := mbit_ge _ t h
theorem mask_ext (a b : Mask) (h : ∀ t, t < 96 → mbit a t = mbit b t) : a = b := by
  apply BitVec.eq_of_getLsbD_eq
  intro i hi
  simpa [mbit, BitVec.testBit_toNat] using h i hi
@[simp] theorem mbit_and (a b : Mask) (t : Nat) : mbit (a &&& b) t = (mbit a t && mbit b t) := by
  simp [mbit, BitVec.testBit_toNat]
@[simp] theorem mbit_or (a b : Mask) (t : Nat) : mbit (a ||| b) t = (mbit a t || mbit b t) := by
  simp [mbit, BitVec.testBit_toNat]
theorem mbit_not (a : Mask) (t : Nat) (h : t < 96) : mbit (~~~a) t = !mbit a t := by
  unfold mbit
  rw [BitVec.testBit_toNat, BitVec.testBit_toNat, BitVec.getLsbD_not]
  simp [h]
theorem mem_lanesOf (m : Mask) (t : Nat) : t ∈ lanesOf m ↔ t < 96 ∧ mbit m t = true := by
  simp [lanesOf, List.mem_filter]

/-! ### Numbers and bytes (R5) -/

@[simp] theorem bytesOfNat_length (len n : Nat) : (bytesOfNat len n).length = len := by
  induction len generalizing n with
  | zero => rfl
  | succ k ih => simp [bytesOfNat, ih]
theorem natOfBytes_bytesOfNat (len n : Nat) : natOfBytes (bytesOfNat len n) = n % 256 ^ len := by
  induction len generalizing n with
  | zero => simp [bytesOfNat, natOfBytes, Nat.mod_one]
  | succ k ih =>
    have h : (256 : Nat) ^ (k + 1) = 256 * 256 ^ k := by rw [Nat.pow_succ, Nat.mul_comm]
    rw [h, Nat.mod_mul]
    simp only [bytesOfNat, natOfBytes, BitVec.toNat_ofNat, ih, Nat.reducePow]

end Sys2Proof.Machine
end

