-- ==== Sys2Proof/Laws/State.lean ====
section
/-! SUPPORT. Laws/State.lean: what each update of the state leaves of each field, and reads after writes of its
tables. -/

namespace Sys2Proof.Machine

/-! setWave -/

@[simp] theorem State.setWave_time (s : State) (w : Nat) (v : Wave) : (s.setWave w v).time = s.time := rfl
@[simp] theorem State.setWave_agenda (s : State) (w : Nat) (v : Wave) : (s.setWave w v).agenda = s.agenda := rfl
@[simp] theorem State.setWave_fresh (s : State) (w : Nat) (v : Wave) : (s.setWave w v).fresh = s.fresh := rfl
@[simp] theorem State.setWave_cur (s : State) (w : Nat) (v : Wave) : (s.setWave w v).cur = s.cur := rfl
@[simp] theorem State.setWave_mem (s : State) (w : Nat) (v : Wave) : (s.setWave w v).mem = s.mem := rfl
@[simp] theorem State.setWave_regs (s : State) (w : Nat) (v : Wave) : (s.setWave w v).regs = s.regs := rfl
@[simp] theorem State.setWave_waves (s : State) (w : Nat) (v : Wave) : (s.setWave w v).waves = mput s.waves w v := rfl
@[simp] theorem State.setWave_blocks (s : State) (w : Nat) (v : Wave) : (s.setWave w v).blocks = s.blocks := rfl
@[simp] theorem State.setWave_cores (s : State) (w : Nat) (v : Wave) : (s.setWave w v).cores = s.cores := rfl
@[simp] theorem State.setWave_pairs (s : State) (w : Nat) (v : Wave) : (s.setWave w v).pairs = s.pairs := rfl
@[simp] theorem State.setWave_dies (s : State) (w : Nat) (v : Wave) : (s.setWave w v).dies = s.dies := rfl
@[simp] theorem State.setWave_ctxs (s : State) (w : Nat) (v : Wave) : (s.setWave w v).ctxs = s.ctxs := rfl
@[simp] theorem State.setWave_ctxGen (s : State) (w : Nat) (v : Wave) : (s.setWave w v).ctxGen = s.ctxGen := rfl
@[simp] theorem State.setWave_fns (s : State) (w : Nat) (v : Wave) : (s.setWave w v).fns = s.fns := rfl
@[simp] theorem State.setWave_links (s : State) (w : Nat) (v : Wave) : (s.setWave w v).links = s.links := rfl
@[simp] theorem State.setWave_vm (s : State) (w : Nat) (v : Wave) : (s.setWave w v).vm = s.vm := rfl
@[simp] theorem State.setWave_sched (s : State) (w : Nat) (v : Wave) : (s.setWave w v).sched = s.sched := rfl
@[simp] theorem State.setWave_gfx (s : State) (w : Nat) (v : Wave) : (s.setWave w v).gfx = s.gfx := rfl
@[simp] theorem State.setWave_trust (s : State) (w : Nat) (v : Wave) : (s.setWave w v).trust = s.trust := rfl

/-! setCore -/

@[simp] theorem State.setCore_time (s : State) (c : Nat) (v : Core) : (s.setCore c v).time = s.time := rfl
@[simp] theorem State.setCore_agenda (s : State) (c : Nat) (v : Core) : (s.setCore c v).agenda = s.agenda := rfl
@[simp] theorem State.setCore_fresh (s : State) (c : Nat) (v : Core) : (s.setCore c v).fresh = s.fresh := rfl
@[simp] theorem State.setCore_cur (s : State) (c : Nat) (v : Core) : (s.setCore c v).cur = s.cur := rfl
@[simp] theorem State.setCore_mem (s : State) (c : Nat) (v : Core) : (s.setCore c v).mem = s.mem := rfl
@[simp] theorem State.setCore_regs (s : State) (c : Nat) (v : Core) : (s.setCore c v).regs = s.regs := rfl
@[simp] theorem State.setCore_waves (s : State) (c : Nat) (v : Core) : (s.setCore c v).waves = s.waves := rfl
@[simp] theorem State.setCore_blocks (s : State) (c : Nat) (v : Core) : (s.setCore c v).blocks = s.blocks := rfl
@[simp] theorem State.setCore_cores (s : State) (c : Nat) (v : Core) : (s.setCore c v).cores = mput s.cores c v := rfl
@[simp] theorem State.setCore_pairs (s : State) (c : Nat) (v : Core) : (s.setCore c v).pairs = s.pairs := rfl
@[simp] theorem State.setCore_dies (s : State) (c : Nat) (v : Core) : (s.setCore c v).dies = s.dies := rfl
@[simp] theorem State.setCore_ctxs (s : State) (c : Nat) (v : Core) : (s.setCore c v).ctxs = s.ctxs := rfl
@[simp] theorem State.setCore_ctxGen (s : State) (c : Nat) (v : Core) : (s.setCore c v).ctxGen = s.ctxGen := rfl
@[simp] theorem State.setCore_fns (s : State) (c : Nat) (v : Core) : (s.setCore c v).fns = s.fns := rfl
@[simp] theorem State.setCore_links (s : State) (c : Nat) (v : Core) : (s.setCore c v).links = s.links := rfl
@[simp] theorem State.setCore_vm (s : State) (c : Nat) (v : Core) : (s.setCore c v).vm = s.vm := rfl
@[simp] theorem State.setCore_sched (s : State) (c : Nat) (v : Core) : (s.setCore c v).sched = s.sched := rfl
@[simp] theorem State.setCore_gfx (s : State) (c : Nat) (v : Core) : (s.setCore c v).gfx = s.gfx := rfl
@[simp] theorem State.setCore_trust (s : State) (c : Nat) (v : Core) : (s.setCore c v).trust = s.trust := rfl

/-! setDie -/

@[simp] theorem State.setDie_time (s : State) (d : Nat) (v : Die) : (s.setDie d v).time = s.time := rfl
@[simp] theorem State.setDie_agenda (s : State) (d : Nat) (v : Die) : (s.setDie d v).agenda = s.agenda := rfl
@[simp] theorem State.setDie_fresh (s : State) (d : Nat) (v : Die) : (s.setDie d v).fresh = s.fresh := rfl
@[simp] theorem State.setDie_cur (s : State) (d : Nat) (v : Die) : (s.setDie d v).cur = s.cur := rfl
@[simp] theorem State.setDie_mem (s : State) (d : Nat) (v : Die) : (s.setDie d v).mem = s.mem := rfl
@[simp] theorem State.setDie_regs (s : State) (d : Nat) (v : Die) : (s.setDie d v).regs = s.regs := rfl
@[simp] theorem State.setDie_waves (s : State) (d : Nat) (v : Die) : (s.setDie d v).waves = s.waves := rfl
@[simp] theorem State.setDie_blocks (s : State) (d : Nat) (v : Die) : (s.setDie d v).blocks = s.blocks := rfl
@[simp] theorem State.setDie_cores (s : State) (d : Nat) (v : Die) : (s.setDie d v).cores = s.cores := rfl
@[simp] theorem State.setDie_pairs (s : State) (d : Nat) (v : Die) : (s.setDie d v).pairs = s.pairs := rfl
@[simp] theorem State.setDie_dies (s : State) (d : Nat) (v : Die) : (s.setDie d v).dies = mput s.dies d v := rfl
@[simp] theorem State.setDie_ctxs (s : State) (d : Nat) (v : Die) : (s.setDie d v).ctxs = s.ctxs := rfl
@[simp] theorem State.setDie_ctxGen (s : State) (d : Nat) (v : Die) : (s.setDie d v).ctxGen = s.ctxGen := rfl
@[simp] theorem State.setDie_fns (s : State) (d : Nat) (v : Die) : (s.setDie d v).fns = s.fns := rfl
@[simp] theorem State.setDie_links (s : State) (d : Nat) (v : Die) : (s.setDie d v).links = s.links := rfl
@[simp] theorem State.setDie_vm (s : State) (d : Nat) (v : Die) : (s.setDie d v).vm = s.vm := rfl
@[simp] theorem State.setDie_sched (s : State) (d : Nat) (v : Die) : (s.setDie d v).sched = s.sched := rfl
@[simp] theorem State.setDie_gfx (s : State) (d : Nat) (v : Die) : (s.setDie d v).gfx = s.gfx := rfl
@[simp] theorem State.setDie_trust (s : State) (d : Nat) (v : Die) : (s.setDie d v).trust = s.trust := rfl

/-! setPair -/

@[simp] theorem State.setPair_time (s : State) (p : Nat) (v : Pair) : (s.setPair p v).time = s.time := rfl
@[simp] theorem State.setPair_agenda (s : State) (p : Nat) (v : Pair) : (s.setPair p v).agenda = s.agenda := rfl
@[simp] theorem State.setPair_fresh (s : State) (p : Nat) (v : Pair) : (s.setPair p v).fresh = s.fresh := rfl
@[simp] theorem State.setPair_cur (s : State) (p : Nat) (v : Pair) : (s.setPair p v).cur = s.cur := rfl
@[simp] theorem State.setPair_mem (s : State) (p : Nat) (v : Pair) : (s.setPair p v).mem = s.mem := rfl
@[simp] theorem State.setPair_regs (s : State) (p : Nat) (v : Pair) : (s.setPair p v).regs = s.regs := rfl
@[simp] theorem State.setPair_waves (s : State) (p : Nat) (v : Pair) : (s.setPair p v).waves = s.waves := rfl
@[simp] theorem State.setPair_blocks (s : State) (p : Nat) (v : Pair) : (s.setPair p v).blocks = s.blocks := rfl
@[simp] theorem State.setPair_cores (s : State) (p : Nat) (v : Pair) : (s.setPair p v).cores = s.cores := rfl
@[simp] theorem State.setPair_pairs (s : State) (p : Nat) (v : Pair) : (s.setPair p v).pairs = mput s.pairs p v := rfl
@[simp] theorem State.setPair_dies (s : State) (p : Nat) (v : Pair) : (s.setPair p v).dies = s.dies := rfl
@[simp] theorem State.setPair_ctxs (s : State) (p : Nat) (v : Pair) : (s.setPair p v).ctxs = s.ctxs := rfl
@[simp] theorem State.setPair_ctxGen (s : State) (p : Nat) (v : Pair) : (s.setPair p v).ctxGen = s.ctxGen := rfl
@[simp] theorem State.setPair_fns (s : State) (p : Nat) (v : Pair) : (s.setPair p v).fns = s.fns := rfl
@[simp] theorem State.setPair_links (s : State) (p : Nat) (v : Pair) : (s.setPair p v).links = s.links := rfl
@[simp] theorem State.setPair_vm (s : State) (p : Nat) (v : Pair) : (s.setPair p v).vm = s.vm := rfl
@[simp] theorem State.setPair_sched (s : State) (p : Nat) (v : Pair) : (s.setPair p v).sched = s.sched := rfl
@[simp] theorem State.setPair_gfx (s : State) (p : Nat) (v : Pair) : (s.setPair p v).gfx = s.gfx := rfl
@[simp] theorem State.setPair_trust (s : State) (p : Nat) (v : Pair) : (s.setPair p v).trust = s.trust := rfl

/-! setFn -/

@[simp] theorem State.setFn_time (s : State) (f : Nat) (v : Fn) : (s.setFn f v).time = s.time := rfl
@[simp] theorem State.setFn_agenda (s : State) (f : Nat) (v : Fn) : (s.setFn f v).agenda = s.agenda := rfl
@[simp] theorem State.setFn_fresh (s : State) (f : Nat) (v : Fn) : (s.setFn f v).fresh = s.fresh := rfl
@[simp] theorem State.setFn_cur (s : State) (f : Nat) (v : Fn) : (s.setFn f v).cur = s.cur := rfl
@[simp] theorem State.setFn_mem (s : State) (f : Nat) (v : Fn) : (s.setFn f v).mem = s.mem := rfl
@[simp] theorem State.setFn_regs (s : State) (f : Nat) (v : Fn) : (s.setFn f v).regs = s.regs := rfl
@[simp] theorem State.setFn_waves (s : State) (f : Nat) (v : Fn) : (s.setFn f v).waves = s.waves := rfl
@[simp] theorem State.setFn_blocks (s : State) (f : Nat) (v : Fn) : (s.setFn f v).blocks = s.blocks := rfl
@[simp] theorem State.setFn_cores (s : State) (f : Nat) (v : Fn) : (s.setFn f v).cores = s.cores := rfl
@[simp] theorem State.setFn_pairs (s : State) (f : Nat) (v : Fn) : (s.setFn f v).pairs = s.pairs := rfl
@[simp] theorem State.setFn_dies (s : State) (f : Nat) (v : Fn) : (s.setFn f v).dies = s.dies := rfl
@[simp] theorem State.setFn_ctxs (s : State) (f : Nat) (v : Fn) : (s.setFn f v).ctxs = s.ctxs := rfl
@[simp] theorem State.setFn_ctxGen (s : State) (f : Nat) (v : Fn) : (s.setFn f v).ctxGen = s.ctxGen := rfl
@[simp] theorem State.setFn_fns (s : State) (f : Nat) (v : Fn) : (s.setFn f v).fns = mput s.fns f v := rfl
@[simp] theorem State.setFn_links (s : State) (f : Nat) (v : Fn) : (s.setFn f v).links = s.links := rfl
@[simp] theorem State.setFn_vm (s : State) (f : Nat) (v : Fn) : (s.setFn f v).vm = s.vm := rfl
@[simp] theorem State.setFn_sched (s : State) (f : Nat) (v : Fn) : (s.setFn f v).sched = s.sched := rfl
@[simp] theorem State.setFn_gfx (s : State) (f : Nat) (v : Fn) : (s.setFn f v).gfx = s.gfx := rfl
@[simp] theorem State.setFn_trust (s : State) (f : Nat) (v : Fn) : (s.setFn f v).trust = s.trust := rfl

/-! setLink -/

@[simp] theorem State.setLink_time (s : State) (l : Nat) (v : Link) : (s.setLink l v).time = s.time := rfl
@[simp] theorem State.setLink_agenda (s : State) (l : Nat) (v : Link) : (s.setLink l v).agenda = s.agenda := rfl
@[simp] theorem State.setLink_fresh (s : State) (l : Nat) (v : Link) : (s.setLink l v).fresh = s.fresh := rfl
@[simp] theorem State.setLink_cur (s : State) (l : Nat) (v : Link) : (s.setLink l v).cur = s.cur := rfl
@[simp] theorem State.setLink_mem (s : State) (l : Nat) (v : Link) : (s.setLink l v).mem = s.mem := rfl
@[simp] theorem State.setLink_regs (s : State) (l : Nat) (v : Link) : (s.setLink l v).regs = s.regs := rfl
@[simp] theorem State.setLink_waves (s : State) (l : Nat) (v : Link) : (s.setLink l v).waves = s.waves := rfl
@[simp] theorem State.setLink_blocks (s : State) (l : Nat) (v : Link) : (s.setLink l v).blocks = s.blocks := rfl
@[simp] theorem State.setLink_cores (s : State) (l : Nat) (v : Link) : (s.setLink l v).cores = s.cores := rfl
@[simp] theorem State.setLink_pairs (s : State) (l : Nat) (v : Link) : (s.setLink l v).pairs = s.pairs := rfl
@[simp] theorem State.setLink_dies (s : State) (l : Nat) (v : Link) : (s.setLink l v).dies = s.dies := rfl
@[simp] theorem State.setLink_ctxs (s : State) (l : Nat) (v : Link) : (s.setLink l v).ctxs = s.ctxs := rfl
@[simp] theorem State.setLink_ctxGen (s : State) (l : Nat) (v : Link) : (s.setLink l v).ctxGen = s.ctxGen := rfl
@[simp] theorem State.setLink_fns (s : State) (l : Nat) (v : Link) : (s.setLink l v).fns = s.fns := rfl
@[simp] theorem State.setLink_links (s : State) (l : Nat) (v : Link) : (s.setLink l v).links = mput s.links l v := rfl
@[simp] theorem State.setLink_vm (s : State) (l : Nat) (v : Link) : (s.setLink l v).vm = s.vm := rfl
@[simp] theorem State.setLink_sched (s : State) (l : Nat) (v : Link) : (s.setLink l v).sched = s.sched := rfl
@[simp] theorem State.setLink_gfx (s : State) (l : Nat) (v : Link) : (s.setLink l v).gfx = s.gfx := rfl
@[simp] theorem State.setLink_trust (s : State) (l : Nat) (v : Link) : (s.setLink l v).trust = s.trust := rfl

/-! setBlock -/

@[simp] theorem State.setBlock_time (s : State) (b : Nat) (v : Block) : (s.setBlock b v).time = s.time := rfl
@[simp] theorem State.setBlock_agenda (s : State) (b : Nat) (v : Block) : (s.setBlock b v).agenda = s.agenda := rfl
@[simp] theorem State.setBlock_fresh (s : State) (b : Nat) (v : Block) : (s.setBlock b v).fresh = s.fresh := rfl
@[simp] theorem State.setBlock_cur (s : State) (b : Nat) (v : Block) : (s.setBlock b v).cur = s.cur := rfl
@[simp] theorem State.setBlock_mem (s : State) (b : Nat) (v : Block) : (s.setBlock b v).mem = s.mem := rfl
@[simp] theorem State.setBlock_regs (s : State) (b : Nat) (v : Block) : (s.setBlock b v).regs = s.regs := rfl
@[simp] theorem State.setBlock_waves (s : State) (b : Nat) (v : Block) : (s.setBlock b v).waves = s.waves := rfl
@[simp] theorem State.setBlock_blocks (s : State) (b : Nat) (v : Block) : (s.setBlock b v).blocks = mput s.blocks b v := rfl
@[simp] theorem State.setBlock_cores (s : State) (b : Nat) (v : Block) : (s.setBlock b v).cores = s.cores := rfl
@[simp] theorem State.setBlock_pairs (s : State) (b : Nat) (v : Block) : (s.setBlock b v).pairs = s.pairs := rfl
@[simp] theorem State.setBlock_dies (s : State) (b : Nat) (v : Block) : (s.setBlock b v).dies = s.dies := rfl
@[simp] theorem State.setBlock_ctxs (s : State) (b : Nat) (v : Block) : (s.setBlock b v).ctxs = s.ctxs := rfl
@[simp] theorem State.setBlock_ctxGen (s : State) (b : Nat) (v : Block) : (s.setBlock b v).ctxGen = s.ctxGen := rfl
@[simp] theorem State.setBlock_fns (s : State) (b : Nat) (v : Block) : (s.setBlock b v).fns = s.fns := rfl
@[simp] theorem State.setBlock_links (s : State) (b : Nat) (v : Block) : (s.setBlock b v).links = s.links := rfl
@[simp] theorem State.setBlock_vm (s : State) (b : Nat) (v : Block) : (s.setBlock b v).vm = s.vm := rfl
@[simp] theorem State.setBlock_sched (s : State) (b : Nat) (v : Block) : (s.setBlock b v).sched = s.sched := rfl
@[simp] theorem State.setBlock_gfx (s : State) (b : Nat) (v : Block) : (s.setBlock b v).gfx = s.gfx := rfl
@[simp] theorem State.setBlock_trust (s : State) (b : Nat) (v : Block) : (s.setBlock b v).trust = s.trust := rfl

/-! setCtx -/

@[simp] theorem State.setCtx_time (s : State) (c : Nat) (v : Ctx) : (s.setCtx c v).time = s.time := rfl
@[simp] theorem State.setCtx_agenda (s : State) (c : Nat) (v : Ctx) : (s.setCtx c v).agenda = s.agenda := rfl
@[simp] theorem State.setCtx_fresh (s : State) (c : Nat) (v : Ctx) : (s.setCtx c v).fresh = s.fresh := rfl
@[simp] theorem State.setCtx_cur (s : State) (c : Nat) (v : Ctx) : (s.setCtx c v).cur = s.cur := rfl
@[simp] theorem State.setCtx_mem (s : State) (c : Nat) (v : Ctx) : (s.setCtx c v).mem = s.mem := rfl
@[simp] theorem State.setCtx_regs (s : State) (c : Nat) (v : Ctx) : (s.setCtx c v).regs = s.regs := rfl
@[simp] theorem State.setCtx_waves (s : State) (c : Nat) (v : Ctx) : (s.setCtx c v).waves = s.waves := rfl
@[simp] theorem State.setCtx_blocks (s : State) (c : Nat) (v : Ctx) : (s.setCtx c v).blocks = s.blocks := rfl
@[simp] theorem State.setCtx_cores (s : State) (c : Nat) (v : Ctx) : (s.setCtx c v).cores = s.cores := rfl
@[simp] theorem State.setCtx_pairs (s : State) (c : Nat) (v : Ctx) : (s.setCtx c v).pairs = s.pairs := rfl
@[simp] theorem State.setCtx_dies (s : State) (c : Nat) (v : Ctx) : (s.setCtx c v).dies = s.dies := rfl
@[simp] theorem State.setCtx_ctxs (s : State) (c : Nat) (v : Ctx) : (s.setCtx c v).ctxs = mput s.ctxs c v := rfl
@[simp] theorem State.setCtx_ctxGen (s : State) (c : Nat) (v : Ctx) : (s.setCtx c v).ctxGen = s.ctxGen := rfl
@[simp] theorem State.setCtx_fns (s : State) (c : Nat) (v : Ctx) : (s.setCtx c v).fns = s.fns := rfl
@[simp] theorem State.setCtx_links (s : State) (c : Nat) (v : Ctx) : (s.setCtx c v).links = s.links := rfl
@[simp] theorem State.setCtx_vm (s : State) (c : Nat) (v : Ctx) : (s.setCtx c v).vm = s.vm := rfl
@[simp] theorem State.setCtx_sched (s : State) (c : Nat) (v : Ctx) : (s.setCtx c v).sched = s.sched := rfl
@[simp] theorem State.setCtx_gfx (s : State) (c : Nat) (v : Ctx) : (s.setCtx c v).gfx = s.gfx := rfl
@[simp] theorem State.setCtx_trust (s : State) (c : Nat) (v : Ctx) : (s.setCtx c v).trust = s.trust := rfl

/-! setTask -/

@[simp] theorem State.setTask_time (s : State) (t : Nat) (v : Task) : (s.setTask t v).time = s.time := rfl
@[simp] theorem State.setTask_agenda (s : State) (t : Nat) (v : Task) : (s.setTask t v).agenda = s.agenda := rfl
@[simp] theorem State.setTask_fresh (s : State) (t : Nat) (v : Task) : (s.setTask t v).fresh = s.fresh := rfl
@[simp] theorem State.setTask_cur (s : State) (t : Nat) (v : Task) : (s.setTask t v).cur = s.cur := rfl
@[simp] theorem State.setTask_mem (s : State) (t : Nat) (v : Task) : (s.setTask t v).mem = s.mem := rfl
@[simp] theorem State.setTask_regs (s : State) (t : Nat) (v : Task) : (s.setTask t v).regs = s.regs := rfl
@[simp] theorem State.setTask_waves (s : State) (t : Nat) (v : Task) : (s.setTask t v).waves = s.waves := rfl
@[simp] theorem State.setTask_blocks (s : State) (t : Nat) (v : Task) : (s.setTask t v).blocks = s.blocks := rfl
@[simp] theorem State.setTask_cores (s : State) (t : Nat) (v : Task) : (s.setTask t v).cores = s.cores := rfl
@[simp] theorem State.setTask_pairs (s : State) (t : Nat) (v : Task) : (s.setTask t v).pairs = s.pairs := rfl
@[simp] theorem State.setTask_dies (s : State) (t : Nat) (v : Task) : (s.setTask t v).dies = s.dies := rfl
@[simp] theorem State.setTask_ctxs (s : State) (t : Nat) (v : Task) : (s.setTask t v).ctxs = s.ctxs := rfl
@[simp] theorem State.setTask_ctxGen (s : State) (t : Nat) (v : Task) : (s.setTask t v).ctxGen = s.ctxGen := rfl
@[simp] theorem State.setTask_fns (s : State) (t : Nat) (v : Task) : (s.setTask t v).fns = s.fns := rfl
@[simp] theorem State.setTask_links (s : State) (t : Nat) (v : Task) : (s.setTask t v).links = s.links := rfl
@[simp] theorem State.setTask_vm (s : State) (t : Nat) (v : Task) : (s.setTask t v).vm = s.vm := rfl
@[simp] theorem State.setTask_sched (s : State) (t : Nat) (v : Task) : (s.setTask t v).sched = { s.sched with tasks := mput s.sched.tasks t v } := rfl
@[simp] theorem State.setTask_gfx (s : State) (t : Nat) (v : Task) : (s.setTask t v).gfx = s.gfx := rfl
@[simp] theorem State.setTask_trust (s : State) (t : Nat) (v : Task) : (s.setTask t v).trust = s.trust := rfl

/-! setReg -/

@[simp] theorem State.setReg_time (s : State) (f ofs v : Nat) : (s.setReg f ofs v).time = s.time := rfl
@[simp] theorem State.setReg_agenda (s : State) (f ofs v : Nat) : (s.setReg f ofs v).agenda = s.agenda := rfl
@[simp] theorem State.setReg_fresh (s : State) (f ofs v : Nat) : (s.setReg f ofs v).fresh = s.fresh := rfl
@[simp] theorem State.setReg_cur (s : State) (f ofs v : Nat) : (s.setReg f ofs v).cur = s.cur := rfl
@[simp] theorem State.setReg_mem (s : State) (f ofs v : Nat) : (s.setReg f ofs v).mem = s.mem := rfl
@[simp] theorem State.setReg_regs (s : State) (f ofs v : Nat) : (s.setReg f ofs v).regs = mput s.regs (regKey f ofs) (BitVec.ofNat 64 v) := rfl
@[simp] theorem State.setReg_waves (s : State) (f ofs v : Nat) : (s.setReg f ofs v).waves = s.waves := rfl
@[simp] theorem State.setReg_blocks (s : State) (f ofs v : Nat) : (s.setReg f ofs v).blocks = s.blocks := rfl
@[simp] theorem State.setReg_cores (s : State) (f ofs v : Nat) : (s.setReg f ofs v).cores = s.cores := rfl
@[simp] theorem State.setReg_pairs (s : State) (f ofs v : Nat) : (s.setReg f ofs v).pairs = s.pairs := rfl
@[simp] theorem State.setReg_dies (s : State) (f ofs v : Nat) : (s.setReg f ofs v).dies = s.dies := rfl
@[simp] theorem State.setReg_ctxs (s : State) (f ofs v : Nat) : (s.setReg f ofs v).ctxs = s.ctxs := rfl
@[simp] theorem State.setReg_ctxGen (s : State) (f ofs v : Nat) : (s.setReg f ofs v).ctxGen = s.ctxGen := rfl
@[simp] theorem State.setReg_fns (s : State) (f ofs v : Nat) : (s.setReg f ofs v).fns = s.fns := rfl
@[simp] theorem State.setReg_links (s : State) (f ofs v : Nat) : (s.setReg f ofs v).links = s.links := rfl
@[simp] theorem State.setReg_vm (s : State) (f ofs v : Nat) : (s.setReg f ofs v).vm = s.vm := rfl
@[simp] theorem State.setReg_sched (s : State) (f ofs v : Nat) : (s.setReg f ofs v).sched = s.sched := rfl
@[simp] theorem State.setReg_gfx (s : State) (f ofs v : Nat) : (s.setReg f ofs v).gfx = s.gfx := rfl
@[simp] theorem State.setReg_trust (s : State) (f ofs v : Nat) : (s.setReg f ofs v).trust = s.trust := rfl

/-! poke -/

@[simp] theorem State.poke_time (s : State) (l : List Host.Cell) : (s.poke l).time = s.time := rfl
@[simp] theorem State.poke_agenda (s : State) (l : List Host.Cell) : (s.poke l).agenda = s.agenda := rfl
@[simp] theorem State.poke_fresh (s : State) (l : List Host.Cell) : (s.poke l).fresh = s.fresh := rfl
@[simp] theorem State.poke_cur (s : State) (l : List Host.Cell) : (s.poke l).cur = s.cur := rfl
@[simp] theorem State.poke_mem (s : State) (l : List Host.Cell) : (s.poke l).mem = pokeAll s.mem l := rfl
@[simp] theorem State.poke_regs (s : State) (l : List Host.Cell) : (s.poke l).regs = s.regs := rfl
@[simp] theorem State.poke_waves (s : State) (l : List Host.Cell) : (s.poke l).waves = s.waves := rfl
@[simp] theorem State.poke_blocks (s : State) (l : List Host.Cell) : (s.poke l).blocks = s.blocks := rfl
@[simp] theorem State.poke_cores (s : State) (l : List Host.Cell) : (s.poke l).cores = s.cores := rfl
@[simp] theorem State.poke_pairs (s : State) (l : List Host.Cell) : (s.poke l).pairs = s.pairs := rfl
@[simp] theorem State.poke_dies (s : State) (l : List Host.Cell) : (s.poke l).dies = s.dies := rfl
@[simp] theorem State.poke_ctxs (s : State) (l : List Host.Cell) : (s.poke l).ctxs = s.ctxs := rfl
@[simp] theorem State.poke_ctxGen (s : State) (l : List Host.Cell) : (s.poke l).ctxGen = s.ctxGen := rfl
@[simp] theorem State.poke_fns (s : State) (l : List Host.Cell) : (s.poke l).fns = s.fns := rfl
@[simp] theorem State.poke_links (s : State) (l : List Host.Cell) : (s.poke l).links = s.links := rfl
@[simp] theorem State.poke_vm (s : State) (l : List Host.Cell) : (s.poke l).vm = s.vm := rfl
@[simp] theorem State.poke_sched (s : State) (l : List Host.Cell) : (s.poke l).sched = s.sched := rfl
@[simp] theorem State.poke_gfx (s : State) (l : List Host.Cell) : (s.poke l).gfx = s.gfx := rfl
@[simp] theorem State.poke_trust (s : State) (l : List Host.Cell) : (s.poke l).trust = s.trust := rfl

/-! Reads after writes -/

@[simp] theorem State.wave?_setWave_self (s : State) (w : Nat) (v : Wave) : (s.setWave w v).wave? w = some v := by
  simp [State.wave?]
theorem State.wave?_setWave (s : State) (w u : Nat) (v : Wave) :
    (s.setWave w v).wave? u = if u = w then some v else s.wave? u := by simp [State.wave?, mget_mput]
@[simp] theorem State.core_setCore_self (s : State) (c : Nat) (v : Core) : (s.setCore c v).core c = v := by
  simp [State.core]
theorem State.core_setCore (s : State) (c d : Nat) (v : Core) :
    (s.setCore c v).core d = if d = c then v else s.core d := by simp [State.core, mgetD_mput]
@[simp] theorem State.die_setDie_self (s : State) (d : Nat) (v : Die) : (s.setDie d v).die d = v := by simp [State.die]
@[simp] theorem State.fn_setFn_self (s : State) (f : Nat) (v : Fn) : (s.setFn f v).fn f = v := by simp [State.fn]
theorem State.fn_setFn (s : State) (f g : Nat) (v : Fn) : (s.setFn f v).fn g = if g = f then v else s.fn g := by
  simp [State.fn, mgetD_mput]
@[simp] theorem State.link_setLink_self (s : State) (l : Nat) (v : Link) : (s.setLink l v).link l = v := by
  simp [State.link]
@[simp] theorem State.pair_setPair_self (s : State) (p : Nat) (v : Pair) : (s.setPair p v).pair p = v := by
  simp [State.pair]
theorem State.modWave_of (s : State) (w : Nat) (v : Wave) (f : Wave → Wave) (h : s.wave? w = some v) :
    s.modWave w f = s.setWave w (f v) := by
  unfold State.modWave
  rw [show mget s.waves w = some v from h]
theorem State.reg_setReg_self (s : State) (f ofs v : Nat) : (s.setReg f ofs v).reg f ofs = v % 2 ^ 64 := by
  simp [State.reg, BitVec.toNat_ofNat]
theorem State.reg_setReg_ne (s : State) (f ofs v g o : Nat) (h : regKey g o ≠ regKey f ofs) :
    (s.setReg f ofs v).reg g o = s.reg g o := by
  simp [State.reg, mget_mput_ne _ _ _ _ h]

/-! What does not read the field that changed -/

@[simp] theorem State.wave?_setCore (s : State) (c1 : Nat) (v1 : Core) (w : Nat) : (s.setCore c1 v1).wave? w = s.wave? w := rfl
@[simp] theorem State.wave?_setDie (s : State) (d1 : Nat) (v1 : Die) (w : Nat) : (s.setDie d1 v1).wave? w = s.wave? w := rfl
@[simp] theorem State.wave?_setPair (s : State) (p1 : Nat) (v1 : Pair) (w : Nat) : (s.setPair p1 v1).wave? w = s.wave? w := rfl
@[simp] theorem State.wave?_setFn (s : State) (f1 : Nat) (v1 : Fn) (w : Nat) : (s.setFn f1 v1).wave? w = s.wave? w := rfl
@[simp] theorem State.wave?_setLink (s : State) (l1 : Nat) (v1 : Link) (w : Nat) : (s.setLink l1 v1).wave? w = s.wave? w := rfl
@[simp] theorem State.wave?_setBlock (s : State) (b1 : Nat) (v1 : Block) (w : Nat) : (s.setBlock b1 v1).wave? w = s.wave? w := rfl
@[simp] theorem State.wave?_setCtx (s : State) (c1 : Nat) (v1 : Ctx) (w : Nat) : (s.setCtx c1 v1).wave? w = s.wave? w := rfl
@[simp] theorem State.wave?_setTask (s : State) (t1 : Nat) (v1 : Task) (w : Nat) : (s.setTask t1 v1).wave? w = s.wave? w := rfl
@[simp] theorem State.wave?_setReg (s : State) (f1 ofs1 v1 : Nat) (w : Nat) : (s.setReg f1 ofs1 v1).wave? w = s.wave? w := rfl
@[simp] theorem State.wave?_poke (s : State) (l1 : List Host.Cell) (w : Nat) : (s.poke l1).wave? w = s.wave? w := rfl
@[simp] theorem State.core_setWave (s : State) (w1 : Nat) (v1 : Wave) (c : Nat) : (s.setWave w1 v1).core c = s.core c := rfl
@[simp] theorem State.core_setDie (s : State) (d1 : Nat) (v1 : Die) (c : Nat) : (s.setDie d1 v1).core c = s.core c := rfl
@[simp] theorem State.core_setPair (s : State) (p1 : Nat) (v1 : Pair) (c : Nat) : (s.setPair p1 v1).core c = s.core c := rfl
@[simp] theorem State.core_setFn (s : State) (f1 : Nat) (v1 : Fn) (c : Nat) : (s.setFn f1 v1).core c = s.core c := rfl
@[simp] theorem State.core_setLink (s : State) (l1 : Nat) (v1 : Link) (c : Nat) : (s.setLink l1 v1).core c = s.core c := rfl
@[simp] theorem State.core_setBlock (s : State) (b1 : Nat) (v1 : Block) (c : Nat) : (s.setBlock b1 v1).core c = s.core c := rfl
@[simp] theorem State.core_setCtx (s : State) (c1 : Nat) (v1 : Ctx) (c : Nat) : (s.setCtx c1 v1).core c = s.core c := rfl
@[simp] theorem State.core_setTask (s : State) (t1 : Nat) (v1 : Task) (c : Nat) : (s.setTask t1 v1).core c = s.core c := rfl
@[simp] theorem State.core_setReg (s : State) (f1 ofs1 v1 : Nat) (c : Nat) : (s.setReg f1 ofs1 v1).core c = s.core c := rfl
@[simp] theorem State.core_poke (s : State) (l1 : List Host.Cell) (c : Nat) : (s.poke l1).core c = s.core c := rfl
@[simp] theorem State.die_setWave (s : State) (w1 : Nat) (v1 : Wave) (d : Nat) : (s.setWave w1 v1).die d = s.die d := rfl
@[simp] theorem State.die_setCore (s : State) (c1 : Nat) (v1 : Core) (d : Nat) : (s.setCore c1 v1).die d = s.die d := rfl
@[simp] theorem State.die_setPair (s : State) (p1 : Nat) (v1 : Pair) (d : Nat) : (s.setPair p1 v1).die d = s.die d := rfl
@[simp] theorem State.die_setFn (s : State) (f1 : Nat) (v1 : Fn) (d : Nat) : (s.setFn f1 v1).die d = s.die d := rfl
@[simp] theorem State.die_setLink (s : State) (l1 : Nat) (v1 : Link) (d : Nat) : (s.setLink l1 v1).die d = s.die d := rfl
@[simp] theorem State.die_setBlock (s : State) (b1 : Nat) (v1 : Block) (d : Nat) : (s.setBlock b1 v1).die d = s.die d := rfl
@[simp] theorem State.die_setCtx (s : State) (c1 : Nat) (v1 : Ctx) (d : Nat) : (s.setCtx c1 v1).die d = s.die d := rfl
@[simp] theorem State.die_setTask (s : State) (t1 : Nat) (v1 : Task) (d : Nat) : (s.setTask t1 v1).die d = s.die d := rfl
@[simp] theorem State.die_setReg (s : State) (f1 ofs1 v1 : Nat) (d : Nat) : (s.setReg f1 ofs1 v1).die d = s.die d := rfl
@[simp] theorem State.die_poke (s : State) (l1 : List Host.Cell) (d : Nat) : (s.poke l1).die d = s.die d := rfl
@[simp] theorem State.fn_setWave (s : State) (w1 : Nat) (v1 : Wave) (f : Nat) : (s.setWave w1 v1).fn f = s.fn f := rfl
@[simp] theorem State.fn_setCore (s : State) (c1 : Nat) (v1 : Core) (f : Nat) : (s.setCore c1 v1).fn f = s.fn f := rfl
@[simp] theorem State.fn_setDie (s : State) (d1 : Nat) (v1 : Die) (f : Nat) : (s.setDie d1 v1).fn f = s.fn f := rfl
@[simp] theorem State.fn_setPair (s : State) (p1 : Nat) (v1 : Pair) (f : Nat) : (s.setPair p1 v1).fn f = s.fn f := rfl
@[simp] theorem State.fn_setLink (s : State) (l1 : Nat) (v1 : Link) (f : Nat) : (s.setLink l1 v1).fn f = s.fn f := rfl
@[simp] theorem State.fn_setBlock (s : State) (b1 : Nat) (v1 : Block) (f : Nat) : (s.setBlock b1 v1).fn f = s.fn f := rfl
@[simp] theorem State.fn_setCtx (s : State) (c1 : Nat) (v1 : Ctx) (f : Nat) : (s.setCtx c1 v1).fn f = s.fn f := rfl
@[simp] theorem State.fn_setTask (s : State) (t1 : Nat) (v1 : Task) (f : Nat) : (s.setTask t1 v1).fn f = s.fn f := rfl
@[simp] theorem State.fn_setReg (s : State) (f1 ofs1 v1 : Nat) (f : Nat) : (s.setReg f1 ofs1 v1).fn f = s.fn f := rfl
@[simp] theorem State.fn_poke (s : State) (l1 : List Host.Cell) (f : Nat) : (s.poke l1).fn f = s.fn f := rfl
@[simp] theorem State.pair_setWave (s : State) (w1 : Nat) (v1 : Wave) (p : Nat) : (s.setWave w1 v1).pair p = s.pair p := rfl
@[simp] theorem State.pair_setCore (s : State) (c1 : Nat) (v1 : Core) (p : Nat) : (s.setCore c1 v1).pair p = s.pair p := rfl
@[simp] theorem State.pair_setDie (s : State) (d1 : Nat) (v1 : Die) (p : Nat) : (s.setDie d1 v1).pair p = s.pair p := rfl
@[simp] theorem State.pair_setFn (s : State) (f1 : Nat) (v1 : Fn) (p : Nat) : (s.setFn f1 v1).pair p = s.pair p := rfl
@[simp] theorem State.pair_setLink (s : State) (l1 : Nat) (v1 : Link) (p : Nat) : (s.setLink l1 v1).pair p = s.pair p := rfl
@[simp] theorem State.pair_setBlock (s : State) (b1 : Nat) (v1 : Block) (p : Nat) : (s.setBlock b1 v1).pair p = s.pair p := rfl
@[simp] theorem State.pair_setCtx (s : State) (c1 : Nat) (v1 : Ctx) (p : Nat) : (s.setCtx c1 v1).pair p = s.pair p := rfl
@[simp] theorem State.pair_setTask (s : State) (t1 : Nat) (v1 : Task) (p : Nat) : (s.setTask t1 v1).pair p = s.pair p := rfl
@[simp] theorem State.pair_setReg (s : State) (f1 ofs1 v1 : Nat) (p : Nat) : (s.setReg f1 ofs1 v1).pair p = s.pair p := rfl
@[simp] theorem State.pair_poke (s : State) (l1 : List Host.Cell) (p : Nat) : (s.poke l1).pair p = s.pair p := rfl
@[simp] theorem State.reg_setWave (s : State) (w1 : Nat) (v1 : Wave) (f ofs : Nat) : (s.setWave w1 v1).reg f ofs = s.reg f ofs := rfl
@[simp] theorem State.reg_setCore (s : State) (c1 : Nat) (v1 : Core) (f ofs : Nat) : (s.setCore c1 v1).reg f ofs = s.reg f ofs := rfl
@[simp] theorem State.reg_setDie (s : State) (d1 : Nat) (v1 : Die) (f ofs : Nat) : (s.setDie d1 v1).reg f ofs = s.reg f ofs := rfl
@[simp] theorem State.reg_setPair (s : State) (p1 : Nat) (v1 : Pair) (f ofs : Nat) : (s.setPair p1 v1).reg f ofs = s.reg f ofs := rfl
@[simp] theorem State.reg_setFn (s : State) (f1 : Nat) (v1 : Fn) (f ofs : Nat) : (s.setFn f1 v1).reg f ofs = s.reg f ofs := rfl
@[simp] theorem State.reg_setLink (s : State) (l1 : Nat) (v1 : Link) (f ofs : Nat) : (s.setLink l1 v1).reg f ofs = s.reg f ofs := rfl
@[simp] theorem State.reg_setBlock (s : State) (b1 : Nat) (v1 : Block) (f ofs : Nat) : (s.setBlock b1 v1).reg f ofs = s.reg f ofs := rfl
@[simp] theorem State.reg_setCtx (s : State) (c1 : Nat) (v1 : Ctx) (f ofs : Nat) : (s.setCtx c1 v1).reg f ofs = s.reg f ofs := rfl
@[simp] theorem State.reg_setTask (s : State) (t1 : Nat) (v1 : Task) (f ofs : Nat) : (s.setTask t1 v1).reg f ofs = s.reg f ofs := rfl
@[simp] theorem State.reg_poke (s : State) (l1 : List Host.Cell) (f ofs : Nat) : (s.poke l1).reg f ofs = s.reg f ofs := rfl

/-! A wave's slots -/

@[simp] theorem Wave.slot_setSlot_self (v : Wave) (x : SlotId) (p : PcSlot) : (v.setSlot x p).slot x = p := by
  cases x <;> rfl
@[simp] theorem Wave.slot_setSlot_other (v : Wave) (x : SlotId) (p : PcSlot) :
    (v.setSlot x p).slot x.other = v.slot x.other := by cases x <;> rfl
@[simp] theorem Wave.slot_modSlot_self (v : Wave) (x : SlotId) (f : PcSlot → PcSlot) :
    (v.modSlot x f).slot x = f (v.slot x) := by cases x <;> rfl
@[simp] theorem Wave.slot_modSlot_other (v : Wave) (x : SlotId) (f : PcSlot → PcSlot) :
    (v.modSlot x f).slot x.other = v.slot x.other := by cases x <;> rfl

@[simp] theorem Wave.modSlot_id (v : Wave) (x : SlotId) (f : PcSlot → PcSlot) : (v.modSlot x f).id = v.id := by
  cases x <;> rfl
@[simp] theorem Wave.modSlot_regs (v : Wave) (x : SlotId) (f : PcSlot → PcSlot) : (v.modSlot x f).regs = v.regs := by
  cases x <;> rfl
@[simp] theorem Wave.modSlot_mem (v : Wave) (x : SlotId) (f : PcSlot → PcSlot) : (v.modSlot x f).mem = v.mem := by
  cases x <;> rfl
@[simp] theorem Wave.modSlot_trap (v : Wave) (x : SlotId) (f : PcSlot → PcSlot) : (v.modSlot x f).trap = v.trap := by
  cases x <;> rfl
@[simp] theorem Wave.modSlot_copy (v : Wave) (x : SlotId) (f : PcSlot → PcSlot) : (v.modSlot x f).copy = v.copy := by
  cases x <;> rfl
@[simp] theorem Wave.modSlot_mat (v : Wave) (x : SlotId) (f : PcSlot → PcSlot) : (v.modSlot x f).mat = v.mat := by
  cases x <;> rfl
@[simp] theorem Wave.modSlot_feed (v : Wave) (x : SlotId) (f : PcSlot → PcSlot) : (v.modSlot x f).feed = v.feed := by
  cases x <;> rfl
@[simp] theorem Wave.modSlot_mb (v : Wave) (x : SlotId) (f : PcSlot → PcSlot) : (v.modSlot x f).mb = v.mb := by
  cases x <;> rfl
@[simp] theorem Wave.modSlot_send (v : Wave) (x : SlotId) (f : PcSlot → PcSlot) : (v.modSlot x f).send = v.send := by
  cases x <;> rfl
@[simp] theorem Wave.modSlot_latch (v : Wave) (x : SlotId) (f : PcSlot → PcSlot) : (v.modSlot x f).latch = v.latch := by
  cases x <;> rfl
@[simp] theorem Wave.modSlot_regnClk (v : Wave) (x : SlotId) (f : PcSlot → PcSlot) : (v.modSlot x f).regnClk = v.regnClk := by
  cases x <;> rfl
@[simp] theorem Wave.modSlot_leaving (v : Wave) (x : SlotId) (f : PcSlot → PcSlot) : (v.modSlot x f).leaving = v.leaving := by
  cases x <;> rfl
@[simp] theorem Wave.modSlot_ctl_live (v : Wave) (x : SlotId) (f : PcSlot → PcSlot) :
    (v.modSlot x f).ctl.live = v.ctl.live := by cases x <;> rfl
@[simp] theorem Wave.modSlot_ctl_recon (v : Wave) (x : SlotId) (f : PcSlot → PcSlot) :
    (v.modSlot x f).ctl.recon = v.ctl.recon := by cases x <;> rfl
@[simp] theorem Wave.modSlot_ctl_spilled (v : Wave) (x : SlotId) (f : PcSlot → PcSlot) :
    (v.modSlot x f).ctl.spilled = v.ctl.spilled := by cases x <;> rfl
@[simp] theorem Wave.modSlot_ctl_nextTag (v : Wave) (x : SlotId) (f : PcSlot → PcSlot) :
    (v.modSlot x f).ctl.nextTag = v.ctl.nextTag := by cases x <;> rfl
@[simp] theorem Wave.modSlot_ctl_frames (v : Wave) (x : SlotId) (f : PcSlot → PcSlot) :
    (v.modSlot x f).ctl.frames = v.ctl.frames := by cases x <;> rfl
@[simp] theorem Wave.modSlot_ctl_lc (v : Wave) (x : SlotId) (f : PcSlot → PcSlot) :
    (v.modSlot x f).ctl.lc = v.ctl.lc := by cases x <;> rfl
@[simp] theorem Wave.modSlot_ctl_ls (v : Wave) (x : SlotId) (f : PcSlot → PcSlot) :
    (v.modSlot x f).ctl.ls = v.ctl.ls := by cases x <;> rfl
@[simp] theorem Wave.modSlot_ctl_le (v : Wave) (x : SlotId) (f : PcSlot → PcSlot) :
    (v.modSlot x f).ctl.le = v.ctl.le := by cases x <;> rfl
@[simp] theorem Wave.modSlot_ctl_rb (v : Wave) (x : SlotId) (f : PcSlot → PcSlot) :
    (v.modSlot x f).ctl.rb = v.ctl.rb := by cases x <;> rfl
@[simp] theorem Wave.modSlot_ctl_issued (v : Wave) (x : SlotId) (f : PcSlot → PcSlot) :
    (v.modSlot x f).ctl.issued = v.ctl.issued := by cases x <;> rfl
@[simp] theorem Wave.modSlot_ctl_last (v : Wave) (x : SlotId) (f : PcSlot → PcSlot) :
    (v.modSlot x f).ctl.last = v.ctl.last := by cases x <;> rfl

end Sys2Proof.Machine
end

