-- ==== Sys2Proof/Laws/Mem.lean ====
section
/-! SUPPORT. Laws/Mem.lean: reading and writing bytes of storage, and the canonical form, which every operation that
writes bytes keeps. -/

namespace Sys2Proof.Machine

/-! ### One byte -/

theorem memByte_memPut (m : List Host.Cell) (k i : Nat) (b : Byte) :
    memByte (memPut m k b) i = if i = k then b else memByte m i := mgetD_mset m k i b 0
@[simp] theorem memByte_memPut_self (m : List Host.Cell) (k : Nat) (b : Byte) : memByte (memPut m k b) k = b := by
  simp [memByte_memPut]
theorem memByte_memPut_ne (m : List Host.Cell) (k i : Nat) (b : Byte) (h : i ≠ k) :
    memByte (memPut m k b) i = memByte m i := by simp [memByte_memPut, h]
@[simp] theorem memByte_nil (k : Nat) : memByte [] k = 0 := rfl

/-! ### Cells in order -/

@[simp] theorem pokeAll_nil (m : List Host.Cell) : pokeAll m [] = m := rfl
@[simp] theorem pokeAll_cons (m : List Host.Cell) (c : Host.Cell) (l : List Host.Cell) :
    pokeAll m (c :: l) = pokeAll (memPut m c.1 c.2) l := rfl
theorem pokeAll_append (m : List Host.Cell) (a b : List Host.Cell) : pokeAll m (a ++ b) = pokeAll (pokeAll m a) b := by
  simp [pokeAll]
/-- A byte outside the cells written keeps its value. -/
theorem memByte_pokeAll_of_not_mem (m : List Host.Cell) (l : List Host.Cell) (k : Nat) (h : ∀ c ∈ l, c.1 ≠ k) :
    memByte (pokeAll m l) k = memByte m k := by
  induction l generalizing m with
  | nil => rfl
  | cons c l ih =>
    rw [pokeAll_cons, ih _ fun c' hc => h c' (List.mem_cons_of_mem _ hc)]
    exact memByte_memPut_ne _ _ _ _ (Ne.symm (h c List.mem_cons_self))
theorem mem_cellsAt (k : Nat) (bs : List Byte) (c : Host.Cell) (h : c ∈ cellsAt k bs) :
    k ≤ c.1 ∧ c.1 < k + bs.length := by
  induction bs generalizing k with
  | nil => simp [cellsAt] at h
  | cons b r ih =>
    rcases List.mem_cons.mp h with h | h
    · subst h; simp
    · have := ih (k + 1) h
      simp only [List.length_cons]
      omega
/-- Consecutive bytes written read back. -/
theorem memByte_pokeAll_cellsAt (m : List Host.Cell) (k : Nat) (bs : List Byte) (i : Nat) (h : i < bs.length) :
    memByte (pokeAll m (cellsAt k bs)) (k + i) = bs[i] := by
  induction bs generalizing m k i with
  | nil => simp at h
  | cons b r ih =>
    simp only [cellsAt, pokeAll_cons]
    cases i with
    | zero =>
      rw [memByte_pokeAll_of_not_mem]
      · simp
      · intro c hc; have := mem_cellsAt _ _ _ hc; simp; omega
    | succ i =>
      have := ih (memPut m k b) (k + 1) i (by simpa using h)
      rw [show k + (i + 1) = k + 1 + i by omega, this]
      simp
theorem memByte_pokeAll_cellsAt_out (m : List Host.Cell) (k : Nat) (bs : List Byte) (i : Nat)
    (h : i < k ∨ k + bs.length ≤ i) : memByte (pokeAll m (cellsAt k bs)) i = memByte m i := by
  apply memByte_pokeAll_of_not_mem
  intro c hc
  have := mem_cellsAt _ _ _ hc
  omega
@[simp] theorem State.peek_length (s : State) (k : Nat) (n : Nat) : (s.peek k n).length = n := by
  induction n generalizing k with
  | zero => rfl
  | succ n ih => simp [State.peek, ih]
theorem State.peek_getElem (s : State) (k : Nat) (n i : Nat) (h : i < n) :
    (s.peek k n)[i]'(by simpa using h) = memByte s.mem (k + i) := by
  induction n generalizing k i with
  | zero => omega
  | succ n ih =>
    cases i with
    | zero => simp [State.peek]
    | succ i =>
      simp only [State.peek, List.getElem_cons_succ]
      rw [ih (k + 1) i (Nat.lt_of_succ_lt_succ h)]
      exact congrArg _ (show k + 1 + i = k + (i + 1) by omega)

/-! ### The canonical form -/

theorem memWf_nil : memWf [] = true := rfl
theorem memWf_memPut (m : List Host.Cell) (k : Nat) (b : Byte) (h : memWf m = true) : memWf (memPut m k b) = true := by
  simp only [memWf, Bool.and_eq_true, List.all_eq_true] at h ⊢
  refine ⟨mwf_mset m k b 0 h.1, ?_⟩
  intro c hc
  unfold memPut mset at hc
  split at hc
  · exact h.2 c (List.mem_filter.mp hc).1
  · rcases mem_mput m k b c hc with rfl | hc
    · simpa using ‹¬b = 0›
    · exact h.2 c hc
theorem memWf_pokeAll (m : List Host.Cell) (l : List Host.Cell) (h : memWf m = true) : memWf (pokeAll m l) = true := by
  induction l generalizing m with
  | nil => exact h
  | cons c l ih => exact ih _ (memWf_memPut m c.1 c.2 h)
theorem memWf_filter (m : List Host.Cell) (p : Host.Cell → Bool) (h : memWf m = true) : memWf (m.filter p) = true := by
  simp only [memWf, Bool.and_eq_true, List.all_eq_true] at h ⊢
  exact ⟨mwf_filter m p h.1, fun c hc => h.2 c (List.mem_filter.mp hc).1⟩
theorem State.poke_memWf (s : State) (l : List Host.Cell) (h : memWf s.mem = true) : memWf (s.poke l).mem = true :=
  memWf_pokeAll _ _ h
theorem State.perform_mem (s : State) (l : List Host.Cell) (refs : List LineRef) :
    (s.perform l refs).mem = pokeAll s.mem l := rfl
theorem State.perform_memWf (s : State) (l : List Host.Cell) (refs : List LineRef) (h : memWf s.mem = true) :
    memWf (s.perform l refs).mem = true := memWf_pokeAll _ _ h
theorem State.cleared_memWf (s : State) (h : memWf s.mem = true) : memWf s.cleared.mem = true := h
theorem State.reset_memWf : memWf State.reset.mem = true := rfl

end Sys2Proof.Machine
end

