-- ==== Sys2Proof/Laws/Operands.lean ====
section
/-! SUPPORT. Laws/Operands.lean: an instruction under issue, and what a V and a U instruction do once they may execute. -/

namespace Sys2Proof.Machine
open Sys2Proof.Says

/-! ### The gate -/

theorem Gate.and_go (a b : Gate) : a.and b = .go ↔ a = .go ∧ b = .go := by
  cases a <;> simp [Gate.and]
@[simp] theorem Gate.need_go (ok : Bool) (c : Nat) : Gate.need ok c = .go ↔ ok = true := by
  unfold Gate.need; split <;> simp_all
@[simp] theorem Gate.until_go (ok : Bool) (r : Wait) : Gate.until ok r = .go ↔ ok = true := by
  unfold Gate.until; split <;> simp_all
/-- An instruction whose gate is open has its effect. -/
theorem State.issue_go (s : State) (g : State → Nat → SlotId → Wave → Gate) (e : State → Nat → SlotId → Wave → State)
    (w : Nat) (x : SlotId) (v : Wave) (h : Issues s w x v) (hg : g s w x v = .go) :
    s.issue g e = .next (e s w x v) := by
  simp [State.issue, h.cur, h.wave, hg]
theorem Wave.baseGate_go (v : Wave) (x : SlotId) (d a o : Bool) :
    v.baseGate x d a o = .go ↔ v.windowShut x = false ∧ d = true ∧ a = true ∧ o = true ∧
      ((v.slot x).pend = true → (v.slot x).sup = true) := by
  simp only [Wave.baseGate, Gate.and_go, Gate.until_go, Gate.need_go]
  cases v.windowShut x <;> cases (v.slot x).pend <;> simp
theorem Wave.mbGate_go (v : Wave) (reads writes : List Nat) (h : MailFree v reads writes) :
    v.mbGate reads writes = .go := by
  simp only [Wave.mbGate, Gate.and_go, Gate.until_go, Gate.need_go]
  refine ⟨?_, ?_, ?_⟩
  · simp only [Bool.not_eq_true', List.any_eq_false, decide_eq_true_eq]
    exact fun c hc => (h.read c hc).1
  · simp only [Bool.not_eq_true', List.any_eq_false, Bool.and_eq_true, decide_eq_true_eq, Bool.not_eq_true', not_and,
      Bool.not_eq_false]
    exact fun c hc hf => (h.read c hc).2 hf
  · simp only [Bool.not_eq_true', List.any_eq_false, Bool.or_eq_true, Bool.and_eq_true, decide_eq_true_eq,
      Bool.not_eq_true', not_or, not_and, Bool.not_eq_false, List.contains_iff_mem]
    exact fun c hc => ⟨(h.write c hc).1, fun hf => (h.write c hc).2 hf⟩
theorem State.queueGate_go (s : State) (w : Nat) (v : Wave) (op : VOp) (h : QueuesReady s v op) :
    s.queueGate w v op = .go := by
  obtain ⟨h1, h2, h3, h4, h5, h6⟩ := h
  simp only [State.queueGate, Gate.and_go, Gate.until_go, Gate.need_go]
  refine ⟨?_, ?_, ?_, ?_⟩
  · cases hq : op.pushes .qa
    · simp
    · have := h1 hq; simp; omega
  · cases hq : op.pushes .qg
    · simp
    · have := h2 hq; simp; omega
  · cases hq : op.pushes .ql
    · simp
    · have := h3 hq; simp; omega
  · simp only [Bool.and_eq_true, Bool.not_eq_true', Bool.and_eq_false_iff]
    refine ⟨⟨⟨?_, ?_⟩, ?_⟩, ?_⟩
    · cases hq : op.pushes .qa
      · simp
      · have := h1 hq; simp; omega
    · cases hq : op.pops .qz
      · simp
      · have := h4 hq; right; simpa using this
    · cases hq : op.pops .qp
      · simp
      · have := h5 hq; right; cases hr : s.ringHead v <;> simp_all
    · cases hq : op.pushes .qn
      · simp
      · right; simpa using h6 hq
theorem State.vGate_go (s : State) (w : Nat) (v : Wave) (x : SlotId) (op : VOp) (h : VReady s v x op) :
    s.vGate w v x op = .go := by
  simp only [State.vGate, Gate.and_go, Wave.baseGate_go]
  refine ⟨⟨h.clear.window, trivial, trivial, h.operands, h.clear.region⟩, ?_⟩
  refine ⟨?_, ?_⟩
  · rw [Gate.until_go]
    cases hc : op.coll
    · simp
    · have := h.coll hc
      simpa using this
  · split
    · rfl
    · rename_i ha
      exact (Gate.and_go _ _).mpr ⟨v.mbGate_go _ _ (h.mail ha), s.queueGate_go w v op (h.queues ha)⟩

/-! ### An instruction completes -/

/-- Counting an instruction as issued changes the slot's mark, and the wave's count and last slot. -/
theorem Wave.countIssue_cases (v : Wave) (x : SlotId) :
    ∃ n l, v.countIssue x = { v.modSlot x fun p => { p with counted := true } with
      ctl := { (v.modSlot x fun p => { p with counted := true }).ctl with issued := n, last := l } } := by
  by_cases h : (v.slot x).counted = true
  · refine ⟨v.ctl.issued, v.ctl.last, ?_⟩
    simp only [Wave.countIssue, h, if_true]
    cases x <;> simp only [Wave.slot] at h <;> obtain ⟨i, r, c, _, _, _, _, _, _, _, _, _, _⟩ := v <;> cases c <;>
      simp only [Wave.modSlot, Wave.setSlot, Wave.slot] at h ⊢ <;> (congr 2; simp [← h])
  · exact ⟨v.ctl.issued + 1, x, by
      simp only [Wave.countIssue, h, if_false, Bool.false_eq_true]; cases x <;> rfl⟩
/-- An instruction completes: the slot steps, and the wave notes the issue. -/
theorem Wave.advance_cases (v : Wave) (x : SlotId) :
    ∃ n, v.advance x = { v.modSlot x PcSlot.stepped with
      ctl := { (v.modSlot x PcSlot.stepped).ctl with issued := n, last := x } } := by
  obtain ⟨n, l, hn⟩ := v.countIssue_cases x
  exact ⟨n, by simp only [Wave.advance, Wave.complete, hn]; cases x <;> rfl⟩
/-! ### A V instruction -/

@[simp] theorem Wave.vreg_setV (v : Wave) (n m : Nat) (l : Lanes) :
    (v.setV n l).vreg m = if m = n then l else v.vreg m := mgetD_mput _ _ _ _ _
@[simp] theorem Wave.oreg_setO (v : Wave) (n m : Nat) (l : Lanes) :
    (v.setO n l).oreg m = if m = n then l else v.oreg m := mgetD_mput _ _ _ _ _
@[simp] theorem Wave.preg_setP (v : Wave) (n m : Nat) (l : Mask) :
    (v.setP n l).preg m = if m = n then l else v.preg m := mgetD_mput _ _ _ _ _
@[simp] theorem Wave.sreg_setS (v : Wave) (n m : Nat) (l : DWord) :
    (v.setS n l).sreg m = if m = n then l else v.sreg m := mgetD_mput _ _ _ _ _

/-- All predicates written from words. -/
theorem foldl_setP (v : Wave) (act : Mask) (r : Nat → Word) (l : List Nat) (hl : l.Nodup) :
    let u := l.foldl (fun u i => u.setP i (maskOf fun t => if mbit act t then (r t).toNat.testBit i else mbit (u.preg i) t)) v
    u = { v with regs := { v.regs with p := u.regs.p } } ∧
    ∀ i t, t < 96 → mbit (u.preg i) t = if i ∈ l ∧ mbit act t = true then (r t).toNat.testBit i else mbit (v.preg i) t := by
  induction l generalizing v with
  | nil => exact ⟨rfl, by simp⟩
  | cons a l ih =>
    obtain ⟨h1, h2⟩ := ih (v.setP a (maskOf fun t => if mbit act t then (r t).toNat.testBit a else mbit (v.preg a) t))
      (List.nodup_cons.mp hl).2
    refine ⟨?_, ?_⟩
    · simp only [List.foldl_cons]
      rw [h1]; rfl
    · intro i t ht
      simp only [List.foldl_cons]
      rw [h2 i t ht]
      have hn := (List.nodup_cons.mp hl).1
      by_cases hi : i ∈ l
      · have : i ≠ a := fun h => hn (h ▸ hi)
        simp [hi, this]
      · by_cases ha : i = a
        · subst ha
          simp only [hi, Wave.preg_setP, if_true, mbit_maskOf _ _ ht, List.mem_cons]
          cases mbit act t <;> simp
        · simp [hi, ha]

/-- What writing a V result does. -/
theorem Wave.vPut_facts (v : Wave) (x : SlotId) (act : Mask) (tgt : VTgt) (r : Nat → Word) :
    let a := v.vPut x act tgt r
    a.1 = { v with regs := { v.regs with v := a.1.regs.v, o := a.1.regs.o, p := a.1.regs.p }, mat := { v.mat with qa := a.1.mat.qa }, feed := { v.feed with qg := a.1.feed.qg, ql := a.1.feed.ql } } ∧
    Written v.vreg a.1.vreg (mainOf v x tgt) act r ∧ Written v.oreg a.1.oreg (operandOf tgt) act r ∧
    (∀ i t, t < 96 → mbit (a.1.preg i) t =
      if mbit act t = true then predAfter tgt i (r t) (mbit (v.preg i) t) else mbit (v.preg i) t) ∧
    Pushed v.mat.qa a.1.mat.qa (tgt = .reg .qa) act r ∧
    Pushed v.feed.qg a.1.feed.qg (tgt = .reg .qg) act r ∧ Pushed v.feed.ql a.1.feed.ql (tgt = .reg .ql) act r := by
  have hw : ∀ (f : Nat → Lanes), Written f f none act r := by intro f m t _; simp
  have hp : ∀ l : List Lanes, Pushed l l false act r := by intro l; simp [Pushed]
  have hq : ∀ l : List Lanes, Pushed l (if act = 0 then l else l ++ [pushEntry act r]) true act r := by
    intro l
    unfold Pushed
    by_cases h : act = 0
    · simp [h]
    · simp only [h, ne_eq, not_false_eq_true, and_self, if_true, if_false]
      exact ⟨_, rfl, fun t ht => by rw [pushEntry, laneAt_mergeLanes _ _ _ _ ht]; rfl⟩
  match tgt with
  | .reg (.v n) =>
    refine ⟨rfl, ?_, hw _, by intros; simp [Wave.vPut, predAfter]; rfl, hp _, hp _, hp _⟩
    intro m t ht
    simp only [Wave.vPut, Wave.putV, Wave.vreg_setV, mainOf, Option.some.injEq]
    by_cases h : m = v.phys x n
    · subst h; simp [laneAt_mergeLanes _ _ _ _ ht]
    · simp [h, Ne.symm h]
  | .reg (.o n) =>
    refine ⟨rfl, hw _, ?_, by intros; simp [Wave.vPut, predAfter]; rfl, hp _, hp _, hp _⟩
    intro m t ht
    simp only [Wave.vPut, Wave.putO, Wave.oreg_setO, operandOf, Option.some.injEq]
    by_cases h : m = n
    · subst h; simp [laneAt_mergeLanes _ _ _ _ ht]
    · simp [h, Ne.symm h]
  | .reg .qa =>
    by_cases h : act = 0
    · subst h
      exact ⟨rfl, hw _, hw _, by intros; simp [Wave.vPut, predAfter], by simp [Wave.vPut, Pushed], hp _, hp _⟩
    · have e : (v.vPut x act (.reg .qa) r).1 = { v with mat := { v.mat with qa := v.mat.qa ++ [pushEntry act r] } } := if_neg h
      simp only [e]
      exact ⟨trivial, hw _, hw _, by intros; simp only [predAfter, ite_self]; rfl, by have := hq v.mat.qa; rwa [if_neg h] at this, hp _, hp _⟩
  | .reg .qg =>
    by_cases h : act = 0
    · subst h
      exact ⟨rfl, hw _, hw _, by intros; simp [Wave.vPut, predAfter], hp _, by simp [Wave.vPut, Pushed], hp _⟩
    · have e : (v.vPut x act (.reg .qg) r).1 = { v with feed := { v.feed with qg := v.feed.qg ++ [pushEntry act r] } } := if_neg h
      simp only [e]
      exact ⟨trivial, hw _, hw _, by intros; simp only [predAfter, ite_self]; rfl, hp _, by have := hq v.feed.qg; rwa [if_neg h] at this, hp _⟩
  | .reg .ql =>
    by_cases h : act = 0
    · subst h
      exact ⟨rfl, hw _, hw _, by intros; simp [Wave.vPut, predAfter], hp _, hp _, by simp [Wave.vPut, Pushed]⟩
    · have e : (v.vPut x act (.reg .ql) r).1 = { v with feed := { v.feed with ql := v.feed.ql ++ [pushEntry act r] } } := if_neg h
      simp only [e]
      exact ⟨trivial, hw _, hw _, by intros; simp only [predAfter, ite_self]; rfl, hp _, hp _, by have := hq v.feed.ql; rwa [if_neg h] at this⟩
  | .reg .qn => exact ⟨rfl, hw _, hw _, by intros; simp [Wave.vPut, predAfter], hp _, hp _, hp _⟩
  | .pred p =>
    refine ⟨rfl, hw _, hw _, ?_, hp _, hp _, hp _⟩
    intro i t ht
    simp only [Wave.vPut, Wave.preg_setP, predAfter]
    by_cases h : i = p.toNat
    · subst h; simp [mbit_maskOf _ _ ht]
    · simp [h]
  | .preds =>
    obtain ⟨u, hu, h1, h2⟩ : ∃ u, (v.vPut x act .preds r).1 = u ∧ u = { v with regs := { v.regs with p := u.regs.p } } ∧
        ∀ i t, t < 96 → mbit (u.preg i) t =
          if i ∈ List.range 32 ∧ mbit act t = true then (r t).toNat.testBit i else mbit (v.preg i) t :=
      ⟨_, rfl, foldl_setP v act r (List.range 32) List.nodup_range⟩
    simp only [hu]
    refine ⟨by rw [h1], by rw [h1]; exact hw _, by rw [h1]; exact hw _, ?_, by rw [h1]; exact hp _,
      by rw [h1]; exact hp _, by rw [h1]; exact hp _⟩
    intro i t ht
    rw [h2 i t ht]
    by_cases hi : i < 32 <;> by_cases ha : mbit act t = true <;> simp [hi, ha, predAfter]
/-- The wave once a V instruction's sources have been read: FULL mailboxes and the entry of qz are consumed. -/
def Wave.took (v : Wave) (x : SlotId) (op : VOp) : Wave :=
  let v1 := if v.active x op.g = 0 then v else v.consume (v.vReads x op)
  if v.active x op.g ≠ 0 ∧ op.pops .qz then { v1 with mat := { v1.mat with qz := v1.mat.qz.tail } } else v1
/-- The wave after a V instruction, but for the end-of-stream flag of a pop of qp. -/
def Wave.afterV (v : Wave) (x : SlotId) (op : VOp) (r : Nat → Res Word) : Wave :=
  let act := v.active x op.g
  let a := (v.took x op).vPut x act op.tgt fun t => (r t).val
  let v3 := a.1.raiseFlags ((lanesOf act).foldl (fun f t => f ||| (r t).fl) 0)
  let v4 := if act ≠ 0 ∧ op.queues then v3.markDue x else v3
  (v4.advance x).modSlot x fun p => p.shiftB a.2 (v.vStale x act op.tgt)
theorem Wave.took_eq (v : Wave) (x : SlotId) (op : VOp) :
    v.took x op = { v with mb := (v.took x op).mb, mat := { v.mat with qz := (v.took x op).mat.qz } } ∧
    (v.took x op).mat.qz = (if op.pops .qz = true ∧ v.active x op.g ≠ 0 then v.mat.qz.tail else v.mat.qz) ∧
    (v.took x op).mb = if v.active x op.g = 0 then v.mb
      else v.mb.filter fun e => !((v.vReads x op).contains e.1 && decide (e.2.st = .full)) := by
  unfold Wave.took Wave.consume
  by_cases h : v.active x op.g = 0
  · simp [h]
  · by_cases h2 : op.pops .qz = true
    · have h3 : ¬ v.active x op.g = 0#96 := h
      simp [h2, h3]
    · have h3 : ¬ v.active x op.g = 0#96 := h
      simp [h2, h3]
theorem foldl_or_bit (l : List Nat) (f : Nat → BitVec 6) (z : BitVec 6) (b : Nat) :
    (l.foldl (fun a t => a ||| f t) z).getLsbD b = (z.getLsbD b || l.any fun t => (f t).getLsbD b) := by
  induction l generalizing z with
  | nil => simp
  | cons a l ih => simp [ih, Bool.or_assoc]

theorem Wave.afterV_eq (s : State) (w : Nat) (x : SlotId) (v : Wave) (op : VOp) (r : Nat → Res Word) :
    s.vDone w x v op r =
      let s1 := s.setWave w (v.afterV x op r)
      let s2 := if v.active x op.g ≠ 0 ∧ op.pops .qp then s1.ringPop w else s1
      if v.active x op.g ≠ 0 ∧ op.pushes .qn then
        s2.ringPush (v.afterV x op r) (pushEntry (v.active x op.g) fun t => (r t).val) else s2 := rfl

/-- The results of a V instruction as b0 takes them. -/
theorem Wave.vPut_last (v : Wave) (x : SlotId) (op : VOp) (act : Mask) (r : Nat → Word) (t : Nat) (ht : t < 96) :
    laneAt (v.vPut x act op.tgt r).2 t = lastOf (v.vPut x act op.tgt r).1 x op act r v t := by
  obtain ⟨g, srcs, tgt, c, d⟩ := op
  match tgt with
  | .reg (.v n) => rfl
  | .reg (.o n) => rfl
  | .reg .qa => simp only [Wave.vPut, lastOf, pushEntry, laneAt_mergeLanes _ _ _ _ ht]; rfl
  | .reg .qg => simp only [Wave.vPut, lastOf, pushEntry, laneAt_mergeLanes _ _ _ _ ht]; rfl
  | .reg .ql => simp only [Wave.vPut, lastOf, pushEntry, laneAt_mergeLanes _ _ _ _ ht]; rfl
  | .reg .qn => simp only [Wave.vPut, lastOf, pushEntry, laneAt_mergeLanes _ _ _ _ ht]; rfl
  | .pred p => simp only [Wave.vPut, lastOf, laneAt_ofLanes _ _ ht]; rfl
  | .preds => simp only [Wave.vPut, lastOf, laneAt_ofLanes _ _ ht]
theorem any_lanesOf (m : Mask) (f : Nat → Bool) :
    ((lanesOf m).any f) = (List.range 96).any fun t => mbit m t && f t := by
  simp [lanesOf, List.any_filter]


theorem Wave.afterV_facts (v : Wave) (x : SlotId) (op : VOp) (r : Nat → Res Word) : VWave v (v.afterV x op r) x op r := by
  simp only [Wave.afterV]
  obtain ⟨e1, e2, e3⟩ := v.took_eq x op
  generalize v.took x op = v2 at e1 e2 e3 ⊢
  obtain ⟨p1, p2, p3, p4, p5, p6, p7⟩ := v2.vPut_facts x (v.active x op.g) op.tgt fun t => (r t).val
  have p8 := fun t ht => v2.vPut_last x op (v.active x op.g) (fun t => (r t).val) t ht
  generalize v2.vPut x (v.active x op.g) op.tgt (fun t => (r t).val) = a at p1 p2 p3 p4 p5 p6 p7 p8 ⊢
  obtain ⟨a, l⟩ := a
  simp only at p1 p2 p3 p4 p5 p6 p7 p8 ⊢
  obtain ⟨fl, hfl⟩ : ∃ fl, (lanesOf (v.active x op.g)).foldl (fun f t => f ||| (r t).fl) 0 = fl := ⟨_, rfl⟩
  have hb : ∀ b, fl.getLsbD b = (List.range 96).any fun t => mbit (v.active x op.g) t && (r t).fl.getLsbD b := by
    intro b; rw [← hfl, foldl_or_bit]; simp [any_lanesOf]
  rw [hfl]
  clear hfl
  obtain ⟨mb, hmb⟩ : ∃ mb, v2.mb = mb := ⟨_, rfl⟩
  obtain ⟨qz, hqz⟩ : ∃ qz, v2.mat.qz = qz := ⟨_, rfl⟩
  rw [hmb] at e3
  rw [hqz] at e2
  rw [hmb, hqz] at e1
  subst e1
  obtain ⟨av, ao, ap, aqa, aqg, aql, rfl⟩ : ∃ av ao ap aqa aqg aql, a = { v with
      regs := { v.regs with v := av, o := ao, p := ap }, mat := { v.mat with qz := qz, qa := aqa },
      feed := { v.feed with qg := aqg, ql := aql }, mb := mb } := ⟨_, _, _, _, _, _, p1⟩
  clear p1 hmb hqz
  obtain ⟨q, hq, hqs⟩ : ∃ q, q = { v.slot x with due := (v.slot x).due || (op.queues && decide (v.active x op.g ≠ 0)) } ∧
      ∀ u : Wave, u.slot x = v.slot x →
        (if v.active x op.g ≠ 0 ∧ op.queues = true then u.markDue x else u) = u.setSlot x q := by
    refine ⟨_, rfl, fun u hu => ?_⟩
    rw [← hu]
    split
    · rename_i h
      have : (op.queues && decide (v.active x op.g ≠ 0)) = true := by simpa [h.2] using h.1
      simp only [Wave.markDue, Wave.modSlot, this, Bool.or_true]
    · rename_i h
      have : (op.queues && decide (v.active x op.g ≠ 0)) = false := by
        cases ho : op.queues
        · rfl
        · simp only [ho, and_true] at h
          simpa using h
      simp only [this, Bool.or_false]
      cases x <;> rfl
  rw [hqs _ (by cases x <;> rfl)]
  obtain ⟨n, hn⟩ := Wave.advance_cases (Wave.setSlot (Wave.raiseFlags { v with
      regs := { v.regs with v := av, o := ao, p := ap }, mat := { v.mat with qz := qz, qa := aqa },
      feed := { v.feed with qg := aqg, ql := aql }, mb := mb } fl) x q) x
  rw [hn]
  subst hq
  refine ⟨?_, ?_, ?_, ?_, ?_, ?_, ?_, ?_, ?_, ?_, ?_, ?_, ?_, ?_, ?_, ?_, ?_⟩
  · cases x <;> rfl
  · cases x <;> rfl
  · cases x <;> rfl
  · cases x <;> rfl
  · cases x <;> rfl
  · cases x <;> exact p2
  · cases x <;> exact p3
  · cases x <;> exact p4
  · intro b hb6
    have : (v.regs.flags ||| fl).getLsbD b = (v.regs.flags.getLsbD b || fl.getLsbD b) := by simp
    rw [← hb b, ← this]
    cases x <;> rfl
  · cases x <;> exact p5
  · cases x <;> exact p6
  · cases x <;> exact p7
  · cases x <;> exact e2
  · cases x <;> exact e3
  · cases x <;> rfl
  · cases x <;> rfl
  · intro t ht
    have := p8 t ht
    cases x <;> exact this

/-! ### The rings -/

theorem State.stageGone_congr (s t : State) (b : Block) (n : Nat)
    (h : ∀ u, (t.wave? u).map (fun v => (v.id.stage, v.ctl.live)) = (s.wave? u).map (fun v => (v.id.stage, v.ctl.live))) :
    t.stageGone b n = s.stageGone b n := by
  unfold State.stageGone
  congr 1
  funext u
  have := h u
  cases ht : t.wave? u <;> cases hs : s.wave? u <;> simp [ht, hs] at this ⊢
  simp [this.1, this.2]

theorem vWave_eos {v u : Wave} {x : SlotId} {op : VOp} {r : Nat → Res Word} (h : VWave v u x op r) :
    VWave { v with regs := { v.regs with eos := true } } { u with regs := { u.regs with eos := true } } x op r := by
  obtain ⟨h1, h2, h3, h4, h5, h6, h7, h8, h9, h10, h11, h12, h13, h14, h15, h16, h17⟩ := h
  refine ⟨?_, ?_, h3, h4, h5, h6, h7, h8, h9, h10, h11, h12, h13, h14, ?_, ?_, h17⟩
  · rw [h1]
  · rw [h2]
  · cases x <;> exact h15
  · cases x <;> exact h16

/-- The rings of a block once the wave's own has been popped. -/
def poppedRings (v : Wave) (b : Block) : Map (List Lanes) :=
  match mgetD b.rings v.id.stage [] with
  | _ :: l => mput b.rings v.id.stage l
  | [] => b.rings
theorem State.ringPop_facts (s : State) (w : Nat) (u : Wave) (h : s.wave? w = some u) :
    s.ringPop w = { s with waves := (s.ringPop w).waves, blocks := (s.ringPop w).blocks } ∧
    (∀ k, k ≠ w → (s.ringPop w).wave? k = s.wave? k) ∧
    (∀ k, mget (s.ringPop w).blocks k =
      if k = u.id.block then (mget s.blocks k).map fun b => { b with rings := poppedRings u b } else mget s.blocks k) ∧
    (s.ringPop w).wave? w = some (if ringOf s u = [] then { u with regs := { u.regs with eos := true } } else u) := by
  have hset : s.modWave w (fun v => { v with regs := { v.regs with eos := true } })
      = s.setWave w { u with regs := { u.regs with eos := true } } := State.modWave_of _ _ _ _ h
  cases hb : mget s.blocks u.id.block with
  | none =>
    have e : s.ringPop w = s.setWave w { u with regs := { u.regs with eos := true } } := by
      rw [← hset]; simp only [State.ringPop, h, hb, Option.map_none]
    rw [e]
    refine ⟨rfl, fun k hk => ?_, fun k => ?_, ?_⟩
    · simp [State.wave?_setWave, hk]
    · split
      · subst_vars; simp [hb]
      · rfl
    · simp [ringOf, hb]
  | some b =>
    cases hr : mgetD b.rings u.id.stage [] with
    | nil =>
      have e : s.ringPop w = s.setWave w { u with regs := { u.regs with eos := true } } := by
        rw [← hset]; simp only [State.ringPop, h, hb, Option.map_some, Block.ring, hr]
      rw [e]
      refine ⟨rfl, fun k hk => ?_, fun k => ?_, ?_⟩
      · simp [State.wave?_setWave, hk]
      · split
        · subst_vars; simp [hb, poppedRings, hr]
        · rfl
      · simp [ringOf, hb, hr]
    | cons a l =>
      have e : s.ringPop w = s.setBlock u.id.block { b with rings := mput b.rings u.id.stage l } := by
        simp only [State.ringPop, h, hb, Option.map_some, Block.ring, hr, State.modBlock]
      rw [e]
      refine ⟨rfl, fun k hk => rfl, fun k => ?_, ?_⟩
      · simp only [State.setBlock_blocks, mget_mput]
        split
        · subst_vars; simp [hb, poppedRings, hr]
        · rfl
      · simp only [ringOf, hb, hr]; simpa using h
theorem State.ringPush_facts (s : State) (u : Wave) (e : Lanes) :
    s.ringPush u e = { s with blocks := (s.ringPush u e).blocks } ∧
    ∀ k, mget (s.ringPush u e).blocks k = if k = u.id.block then (mget s.blocks k).map fun b =>
      if s.stageGone b (u.id.stage + 1) then b
      else { b with rings := mput b.rings (u.id.stage + 1) (mgetD b.rings (u.id.stage + 1) [] ++ [e]) }
      else mget s.blocks k := by
  cases hb : mget s.blocks u.id.block with
  | none =>
    have e' : s.ringPush u e = s := by simp only [State.ringPush, hb]
    rw [e']
    refine ⟨rfl, fun k => ?_⟩
    by_cases hk : k = u.id.block
    · subst hk; simp [hb]
    · simp [hk]
  | some b =>
    cases hg : s.stageGone b (u.id.stage + 1) with
    | true =>
      have e' : s.ringPush u e = s := by simp only [State.ringPush, hb, hg, if_true]
      rw [e']
      refine ⟨rfl, fun k => ?_⟩
      by_cases hk : k = u.id.block
      · subst hk; simp [hb, hg]
      · simp [hk]
    | false =>
      have e' : s.ringPush u e = s.setBlock u.id.block { b with rings := mput b.rings (u.id.stage + 1) (b.ring (u.id.stage + 1) ++ [e]) } := by
        simp only [State.ringPush, hb, hg, Bool.false_eq_true, if_false, State.modBlock]
      rw [e']
      refine ⟨rfl, fun k => ?_⟩
      simp only [State.setBlock_blocks, mget_mput, Block.ring]
      by_cases hk : k = u.id.block
      · subst hk; simp [hb, hg]
      · simp [hk]

/-- A V instruction that may execute does what VStep says. -/
theorem State.vDone_step (s : State) (w : Nat) (x : SlotId) (v : Wave) (op : VOp) (r : Nat → Res Word)
    (h : s.wave? w = some v) : VStep s (s.vDone w x v op r) w x v op r := by
  rw [Wave.afterV_eq]
  have hf := v.afterV_facts x op r
  have hid : (v.afterV x op r).id = v.id := by rw [hf.rest]
  have hlive : (v.afterV x op r).ctl.live = v.ctl.live := by rw [hf.ctl]
  generalize v.afterV x op r = u at *
  simp only
  -- the state after the pop
  obtain ⟨s2, hs2, hw2, ho2, hb2, u2, hu2, hv2⟩ : ∃ s2, (if v.active x op.g ≠ 0 ∧ op.pops .qp = true then (s.setWave w u).ringPop w else s.setWave w u) = s2 ∧
      s2 = { s with waves := s2.waves, blocks := s2.blocks } ∧ (∀ k, k ≠ w → s2.wave? k = s.wave? k) ∧
      (∀ k, mget s2.blocks k = if k = v.id.block then (mget s.blocks k).map fun b =>
        { b with rings := if op.pops .qp = true ∧ v.active x op.g ≠ 0 then poppedRings v b else b.rings } else mget s.blocks k) ∧
      ∃ u2, s2.wave? w = some u2 ∧ VWave (popped s v x op) u2 x op r := by
    refine ⟨_, rfl, ?_⟩
    split
    · rename_i hc
      obtain ⟨p1, p2, p3, p4⟩ := (s.setWave w u).ringPop_facts w u (by simp)
      refine ⟨p1, fun k hk => ?_, fun k => ?_, _, p4, ?_⟩
      · rw [p2 k hk]; simp [State.wave?_setWave, hk]
      · rw [p3 k, hid]
        simp only [hc.1, hc.2, ne_eq, not_false_eq_true, and_self, if_true, State.setWave_blocks, poppedRings, hid]
      · have hro : ringOf (s.setWave w u) u = ringOf s v := by unfold ringOf; rw [hid]; rfl
        simp only [hro, popped, hc.2, hc.1, ne_eq, not_false_eq_true, true_and]
        split
        · exact vWave_eos hf
        · exact hf
    · rename_i hc
      have hc' : ¬(op.pops .qp = true ∧ v.active x op.g ≠ 0) := fun h => hc ⟨h.2, h.1⟩
      refine ⟨rfl, fun k hk => by simp [State.wave?_setWave, hk], fun k => ?_, u, by simp, ?_⟩
      · simp only [if_neg hc', State.setWave_blocks]
        split
        · cases mget s.blocks k <;> rfl
        · rfl
      · have : popped s v x op = v := by
          unfold popped
          rw [if_neg fun h => hc' ⟨h.1, h.2.1⟩]
        rw [this]; exact hf
  rw [hs2]
  have hu2id : u2.id = v.id := by
    rw [hv2.rest]; unfold popped; split <;> rfl
  have hu2l : u2.ctl.live = v.ctl.live := by
    rw [hv2.ctl]; unfold popped; split <;> rfl
  by_cases hc : v.active x op.g ≠ 0 ∧ op.pushes .qn = true
  · rw [if_pos hc]
    obtain ⟨q1, q2⟩ := s2.ringPush_facts u (pushEntry (v.active x op.g) fun t => (r t).val)
    have hg : ∀ b n, s2.stageGone b n = s.stageGone b n := by
      intro b n
      apply State.stageGone_congr
      intro k
      by_cases hk : k = w
      · subst hk; rw [hu2, h]; simp [hu2id, hu2l]
      · rw [ho2 k hk]
    refine ⟨?_, ?_, ?_, ?_⟩
    · rw [q1, hw2]
    · intro k hk; rw [q1]; exact ho2 k hk
    · intro k
      rw [q2 k, hb2 k, hid]
      by_cases hk : k = v.id.block
      · subst hk
        simp only [if_true, Option.map_map]
        congr 1
        funext b
        simp only [Function.comp, hg]
        have hsg : s.stageGone { b with rings := if op.pops .qp = true ∧ v.active x op.g ≠ 0 then poppedRings v b else b.rings } (v.id.stage + 1) = s.stageGone b (v.id.stage + 1) := rfl
        rw [hsg]
        unfold ringsAfter
        simp only
        cases hgg : s.stageGone b (v.id.stage + 1)
        · rw [if_neg Bool.false_ne_true, if_pos (show op.pushes .qn = true ∧ v.active x op.g ≠ 0 ∧ false = false from ⟨hc.2, hc.1, rfl⟩)]; rfl
        · rw [if_pos rfl, if_neg (show ¬(op.pushes .qn = true ∧ v.active x op.g ≠ 0 ∧ true = false) from fun h => Bool.noConfusion h.2.2)]; rfl
      · simp [hk]
    · exact ⟨u2, by rw [q1]; exact hu2, hv2⟩
  · rw [if_neg hc]
    refine ⟨hw2, ho2, ?_, u2, hu2, hv2⟩
    intro k
    rw [hb2 k]
    split
    · congr 1
      funext b
      unfold ringsAfter
      simp only
      rw [if_neg (show ¬(op.pushes .qn = true ∧ v.active x op.g ≠ 0 ∧ s.stageGone b (v.id.stage + 1) = false) from
        fun h => hc ⟨h.2.1, h.1⟩)]
      rfl
    · rfl

/-! ### The statements' forms -/

theorem vRuns_of (i : Instr) (op : VOp) (f : List Lanes → Nat → Res Word) (h : ∀ s, exec i s = s.runV op f) : VRuns i op f := by
  intro s w x v hi hr
  rw [h, State.runV, s.issue_go _ _ w x v hi (s.vGate_go w v x op hr)]
  exact ⟨_, rfl, s.vDone_step w x v op _ hi.wave⟩
theorem vRunsW_of (i : Instr) (op : VOp) (f : State → Wave → SlotId → List Lanes → Nat → Res Word)
    (h : ∀ s, exec i s = s.runVW op f) : VRunsW i op f := by
  intro s w x v hi hr
  rw [h, State.runVW, s.issue_go _ _ w x v hi (s.vGate_go w v x op hr)]
  exact ⟨_, rfl, s.vDone_step w x v op _ hi.wave⟩

/-! ### Results that agree in the active lanes -/

/-- Two results agree where the instruction executes. -/
def Agree (act : Mask) (r q : Nat → Res Word) : Prop := ∀ t, t < 96 → mbit act t = true → r t = q t
theorem mergeLanes_congr (m : Mask) (f g : Nat → Word) (old : List Word) (h : ∀ t, t < 96 → mbit m t = true → f t = g t) :
    mergeLanes m f old = mergeLanes m g old := by
  unfold mergeLanes ofLanes
  apply List.map_congr_left
  intro t ht
  split
  · exact h t (by simpa using ht) ‹_›
  · rfl
theorem vWave_congr {v u : Wave} {x : SlotId} {op : VOp} {r q : Nat → Res Word} (e : Agree (v.active x op.g) r q)
    (h : VWave v u x op r) : VWave v u x op q := by
  obtain ⟨h1, h2, h3, h4, h5, h6, h7, h8, h9, h10, h11, h12, h13, h14, h15, h16, h17⟩ := h
  have hp : ∀ old new push, Pushed old new push (v.active x op.g) (fun t => (r t).val) →
      Pushed old new push (v.active x op.g) fun t => (q t).val := by
    intro old new push hh
    unfold Pushed at *
    split
    · rename_i hc
      rw [if_pos hc] at hh
      obtain ⟨n, hn, hl⟩ := hh
      refine ⟨n, hn, fun t ht => ?_⟩
      rw [hl t ht]
      split
      · simp only [e t ht ‹_›]
      · rfl
    · rename_i hc; rwa [if_neg hc] at hh
  have hw : ∀ old new n, Written old new n (v.active x op.g) (fun t => (r t).val) →
      Written old new n (v.active x op.g) fun t => (q t).val := by
    intro old new n hh m t ht
    rw [hh m t ht]
    split
    · rename_i hc; simp only [e t ht hc.2]
    · rfl
  refine ⟨h1, h2, h3, h4, h5, hw _ _ _ h6, hw _ _ _ h7, ?_, ?_, hp _ _ _ h10, hp _ _ _ h11, hp _ _ _ h12, h13, h14, h15, h16, ?_⟩
  · intro i t ht
    rw [h8 i t ht]
    split
    · simp only [e t ht ‹_›]
    · rfl
  · intro b hb
    rw [h9 b hb]
    congr 1
    rw [Bool.eq_iff_iff]
    simp only [List.any_eq_true, Bool.and_eq_true, List.mem_range]
    constructor
    · rintro ⟨t, ht, ha, hf⟩; exact ⟨t, ht, ha, by rw [← e t ht ha]; exact hf⟩
    · rintro ⟨t, ht, ha, hf⟩; exact ⟨t, ht, ha, by rw [e t ht ha]; exact hf⟩
  · intro t ht
    rw [h17 t ht]
    unfold lastOf
    split <;> first | rfl | (split <;> first | simp only [e t ht ‹_›] | rfl)
theorem popped_active (s : State) (v : Wave) (x : SlotId) (op : VOp) (g : Bool) :
    (popped s v x op).active x g = v.active x g := by
  unfold popped; split <;> rfl
theorem vStep_congr {s t : State} {w : Nat} {x : SlotId} {v : Wave} {op : VOp} {r q : Nat → Res Word}
    (e : Agree (v.active x op.g) r q) (h : VStep s t w x v op r) : VStep s t w x v op q := by
  obtain ⟨h1, h2, h3, u, h4, h5⟩ := h
  have hp : pushEntry (v.active x op.g) (fun t => (r t).val) = pushEntry (v.active x op.g) fun t => (q t).val :=
    mergeLanes_congr _ _ _ _ fun t ht ha => by simp only [e t ht ha]
  refine ⟨h1, h2, fun k => ?_, u, h4, vWave_congr (by rwa [popped_active]) h5⟩
  rw [h3 k]
  unfold ringsAfter
  simp only [hp]
theorem vRuns_congr {i : Instr} {op : VOp} {f g : List Lanes → Nat → Res Word} (e : ∀ l t, t < 96 → f l t = g l t)
    (h : VRuns i op f) : VRuns i op g := by
  intro s w x v hi hr
  obtain ⟨t, ht, hs⟩ := h s w x v hi hr
  exact ⟨t, ht, vStep_congr (fun t h _ => e _ t h) hs⟩
theorem vRunsW_congr {i : Instr} {op : VOp} {f g : State → Wave → SlotId → List Lanes → Nat → Res Word}
    (e : ∀ s v x l t, t < 96 → mbit (v.active x op.g) t = true → f s v x l t = g s v x l t)
    (h : VRunsW i op f) : VRunsW i op g := by
  intro s w x v hi hr
  obtain ⟨t, ht, hs⟩ := h s w x v hi hr
  exact ⟨t, ht, vStep_congr (fun t h a => e _ _ _ _ t h a) hs⟩
theorem lane1_of (i : V1 → Instr) (f g : Word → Res Word) (h : ∀ j s, exec (i j) s = s.runV1 j f) (e : ∀ a, f a = g a) :
    Lane1 i g := fun j => vRuns_congr (fun _ _ _ => e _) (vRuns_of (i j) (op1 j) _ fun s => h j s)
theorem lane2_of (i : V2 → Instr) (f g : Word → Word → Res Word) (h : ∀ j s, exec (i j) s = s.runV2 j f)
    (e : ∀ a b, f a b = g a b) : Lane2 i g :=
  fun j => vRuns_congr (fun _ _ _ => e _ _) (vRuns_of (i j) (op2 j) _ fun s => h j s)
theorem lane3_of (i : V2 → VSrc → Instr) (f g : Word → Word → Word → Res Word) (h : ∀ j c s, exec (i j c) s = s.runV3 j c f)
    (e : ∀ a b c, f a b c = g a b c) : Lane3 i g :=
  fun j c => vRuns_congr (fun _ _ _ => e _ _ _) (vRuns_of (i j c) (op3 j c) _ fun s => h j c s)
theorem laneD_of (i : V2 → Instr) (f g : Word → Word → Word → Res Word) (h : ∀ j s, exec (i j) s = s.runV2D j f)
    (e : ∀ a b c, f a b c = g a b c) : LaneD i g :=
  fun j => vRuns_congr (fun _ _ _ => e _ _ _) (vRuns_of (i j) (opD j) _ fun s => h j s)
theorem laneP_of (i : P2 → Instr) (f g : Word → Word → Res Bool) (h : ∀ j s, exec (i j) s = s.runP2 j f)
    (e : ∀ a b, f a b = g a b) : LaneP i g :=
  fun j => vRuns_congr (fun _ _ _ => by simp only [e]) (vRuns_of (i j) (opP j) _ fun s => h j s)

/-! ### A U instruction -/

theorem Wave.kreg_setK (v : Wave) (n i : Nat) (b : Bool) (hi : i < 8) (hn : n < 8) :
    (v.setK n b).kreg i = if i = n then b else v.kreg i := by
  have h8 : (2 : Nat) ^ n % 2 ^ 8 = 2 ^ n := Nat.mod_eq_of_lt (Nat.pow_lt_pow_right (by omega) hn)
  unfold Wave.setK Wave.kreg
  cases b
  · simp only [Bool.false_eq_true, if_false, BitVec.testBit_toNat, BitVec.getLsbD_and, BitVec.getLsbD_not, hi, decide_true,
      Bool.true_and, BitVec.getLsbD_ofNat, Nat.testBit_two_pow]
    by_cases h : i = n
    · subst h; simp
    · simp [h, Ne.symm h]
  · simp only [if_true, BitVec.testBit_toNat, BitVec.getLsbD_or, BitVec.getLsbD_ofNat, hi, decide_true, Bool.true_and,
      Nat.testBit_two_pow]
    by_cases h : i = n
    · subst h; simp
    · simp [h, Ne.symm h]
theorem Wave.uGate_go (v : Wave) (x : SlotId) (g : Bool) (d : UDst) (srcs : List USrc) (h : UReady v x g d srcs) :
    v.uGate x g d srcs = .go := by
  simp only [Wave.uGate, Gate.and_go, Wave.baseGate_go]
  refine ⟨⟨h.clear.window, trivial, trivial, h.operands, h.clear.region⟩, ?_⟩
  split
  · exact v.mbGate_go _ _ (h.mail ‹_›)
  · rfl
/-- A wave whose slot has stepped, nothing else of it changed. -/
theorem Wave.advance_stepped (v : Wave) (x : SlotId) :
    (v.advance x) = { v with ctl := (v.advance x).ctl } ∧
    (v.advance x).ctl = { v.ctl with a := (v.advance x).ctl.a, b := (v.advance x).ctl.b,
                                     issued := (v.advance x).ctl.issued, last := x } ∧
    (v.advance x).slot x.other = v.slot x.other ∧ Stepped (v.slot x) ((v.advance x).slot x) := by
  obtain ⟨n, hn⟩ := v.advance_cases x
  rw [hn]
  cases x <;> exact ⟨rfl, rfl, rfl, rfl⟩
theorem onlyWave_set (s : State) (w : Nat) (u : Wave) (P : Wave → Prop) (h : P u) : OnlyWave s (s.setWave w u) w P :=
  ⟨rfl, fun k hk => by simp [State.wave?_setWave, hk], u, by simp, h⟩
/-- A U instruction that may execute does what UWave says. -/
theorem State.uDone_step (s : State) (w : Nat) (x : SlotId) (v : Wave) (g : Bool) (d : UDst) (srcs : List USrc)
    (r : Res DWord) : OnlyWave s (s.uDone w x v g d srcs r) w fun v' => UWave v v' x g d srcs r := by
  unfold State.uDone
  split
  · rename_i ha
    apply onlyWave_set
    obtain ⟨h1, h2, h3, h4⟩ := (((v.consume (uReads srcs)).uPut d r.val).raiseFlags r.fl).advance_stepped x
    generalize (((v.consume (uReads srcs)).uPut d r.val).raiseFlags r.fl).advance x = u at *
    cases d with
    | s n =>
      have hr : u.regs = { v.regs with s := mput v.regs.s n.toNat r.val, flags := v.regs.flags ||| r.fl } := by rw [h1]; rfl
      have hm : u.mb = v.mb.filter fun e => !((uReads srcs).contains e.1 && decide (e.2.st = .full)) := by rw [h1]; rfl
      refine ⟨by rw [h1]; rfl, by rw [hr], by rw [h2]; rfl, ?_, ?_, by rw [hr]; simp [ha], by rw [hm]; simp [ha], ?_, ?_⟩
      · intro m; simp only [Wave.sreg, hr, mgetD_mput, ha, true_and]
      · intro i hi; simp only [Wave.kreg, hr]
      · rw [h3]; cases x <;> rfl
      · cases x <;> exact h4
    | k n =>
      have hr : u.regs = { v.regs with k := (v.setK n.toNat (r.val ≠ 0)).regs.k, flags := v.regs.flags ||| r.fl } := by
        rw [h1]; rfl
      have hm : u.mb = v.mb.filter fun e => !((uReads srcs).contains e.1 && decide (e.2.st = .full)) := by rw [h1]; rfl
      refine ⟨by rw [h1]; rfl, by rw [hr], by rw [h2]; rfl, ?_, ?_, by rw [hr]; simp [ha], by rw [hm]; simp [ha], ?_, ?_⟩
      · intro m; simp only [Wave.sreg, hr]
      · intro i hi
        have := v.kreg_setK n.toNat i (decide (r.val ≠ 0)) hi n.isLt
        simp only [ha, true_and]
        rw [← this]
        simp only [Wave.kreg, hr]
      · rw [h3]; cases x <;> rfl
      · cases x <;> exact h4
  · rename_i ha
    apply onlyWave_set
    obtain ⟨h1, h2, h3, h4⟩ := v.advance_stepped x
    generalize v.advance x = u at *
    have hr : u.regs = v.regs := by rw [h1]
    refine ⟨by rw [h1], by rw [hr], h2, ?_, ?_, by rw [hr]; simp [ha], by rw [h1]; simp [ha], h3, h4⟩
    · intro m; simp only [Wave.sreg, hr]; cases d <;> simp [ha]
    · intro i hi; simp only [Wave.kreg, hr]; cases d <;> simp [ha]
theorem uRuns_of (i : Instr) (g : Bool) (d : UDst) (srcs : List USrc) (f : List DWord → Res DWord)
    (h : ∀ s, exec i s = s.runU g d srcs f) : URuns i g d srcs f := by
  intro s w x v hi hr
  rw [h, State.runU, s.issue_go _ _ w x v hi (v.uGate_go x g d srcs hr)]
  exact ⟨_, rfl, s.uDone_step w x v g d srcs _⟩

end Sys2Proof.Machine
end

