-- ==== Sys2Proof/Laws/Access.lean ====
section
/-! SUPPORT. Laws/Access.lean: what address checks touch, and what issuing a load, a store and an atomic leaves. -/

namespace Sys2Proof.Says
open Sys2Proof.Machine

theorem Aside.refl (s : State) : Aside s s := rfl
theorem Aside.trans {s t u : State} (h : Aside s t) (k : Aside t u) : Aside s u := by
  unfold Aside at *
  rw [k, h]
theorem Aside.wave? {s t : State} (h : Aside s t) (w : Nat) : t.wave? w = s.wave? w := by
  unfold Aside at h; rw [h]; rfl

end Sys2Proof.Says

namespace Sys2Proof.Machine
open Sys2Proof.Says

/-! ### What address checks touch -/

theorem aside_fillTlb (s : State) (d : Nat) (t : TlbE) : Aside s (s.fillTlb d t) ∧ (s.fillTlb d t).mem = s.mem := by
  unfold State.fillTlb
  dsimp only
  split <;> exact ⟨rfl, rfl⟩
theorem aside_translate (s : State) (who : Who) (need : Need) (va : DWord) :
    Aside s (s.translate who need va).2 ∧ (s.translate who need va).2.mem = s.mem := by
  unfold State.translate
  dsimp only
  split
  · exact ⟨rfl, rfl⟩
  · split
    · exact ⟨rfl, rfl⟩
    · have fill : ∀ u : State, Aside s u ∧ u.mem = s.mem → ∀ t : Option TlbE,
          Aside s (match t with | some t => u.fillTlb (who.core / 40) t | none => u) ∧
          (match t with | some t => u.fillTlb (who.core / 40) t | none => u).mem = s.mem := by
        intro u hu t
        cases t with
        | none => exact hu
        | some t =>
          obtain ⟨h1, h2⟩ := aside_fillTlb u (who.core / 40) t
          exact ⟨hu.1.trans h1, h2.trans hu.2⟩
      split
      · exact fill s ⟨rfl, rfl⟩ _
      · split
        · exact ⟨rfl, rfl⟩
        · exact fill { s with fresh := s.fresh + 1 } ⟨rfl, rfl⟩ _
theorem aside_countAccess (s : State) (who : Who) (e : DWord) (ia : Nat) :
    Aside s (s.countAccess who e ia) ∧ (s.countAccess who e ia).mem = s.mem := by
  unfold State.countAccess
  split
  · exact ⟨rfl, rfl⟩
  · dsimp only; split <;> exact ⟨rfl, rfl⟩
theorem aside_poke (s : State) (l : List Host.Cell) : Aside s (s.poke l) := rfl
theorem aside_perform (s : State) (l : List Host.Cell) (r : List LineRef) : Aside s (s.perform l r) := rfl
theorem aside_setCtx (s : State) (k : Nat) (c : Ctx) : Aside s (s.setCtx k c) := rfl
theorem aside_vm (s : State) (v : Vm) : Aside s { s with vm := v } := rfl
theorem aside_setDie (s : State) (k : Nat) (c : Die) : Aside s (s.setDie k c) := rfl
theorem aside_copyBytes (s : State) (a b n k : Nat) : Aside s (s.copyBytes a b n k) := rfl
theorem aside_putLeaf (s : State) (c p a : Nat) (e : DWord) : Aside s (s.putLeaf c p a e) := rfl
theorem aside_toReserve (s : State) (f : Nat) : Aside s (s.toReserve f) := by
  unfold State.toReserve; dsimp only; repeat' split
  all_goals rfl
theorem aside_freeShared (s : State) (f : Nat) : Aside s (s.freeShared f) := by
  unfold State.freeShared
  dsimp only
  split
  · exact (aside_setDie _ _ _).trans (aside_toReserve _ _)
  · exact aside_toReserve _ _
theorem aside_releaseFrame (s : State) (f : Nat) : Aside s (s.releaseFrame f) := by
  unfold State.releaseFrame
  dsimp only
  split
  · exact Aside.trans (by rfl) (aside_freeShared _ f)
  · rfl
theorem aside_breakShare (s t : State) (c ia : Nat) (h : s.breakShare c ia = .ok t) : Aside s t := by
  unfold State.breakShare at h
  split at h
  · dsimp only at h
    split at h
    · cases h; exact Aside.refl _
    · split at h
      · cases h
      · cases h
      · split at h
        · cases h
          exact ((((aside_setCtx _ _ _).trans (aside_copyBytes _ _ _ _ _)).trans (aside_putLeaf _ _ _ _ _)).trans
            (aside_setCtx _ _ _)).trans (aside_releaseFrame _ _)
        · cases h
          exact ((aside_setCtx _ _ _).trans (aside_copyBytes _ _ _ _ _)).trans (aside_putLeaf _ _ _ _ _)
  · cases h; rfl
theorem breakShare_unshared (s t : State) (c ia : Nat) (hu : Unshared s c) (h : s.breakShare c ia = .ok t) : t = s := by
  unfold State.breakShare at h
  split at h
  · rename_i e pa _ hl
    have := hu ia e 0 pa hl
    dsimp only at h
    rw [if_pos (by simp [this])] at h
    exact (Except.ok.inj h).symm
  · exact (Except.ok.inj h).symm
theorem s2walk_congr (s t : State) (hm : t.mem = s.mem) (ia : Nat) : ∀ l a, t.s2walk ia l a = s.s2walk ia l a := by
  have hp : ∀ k n, t.peek k n = s.peek k n := by
    intro k n
    induction n generalizing k with
    | zero => rfl
    | succ n ih => simp only [State.peek, hm, ih]
  intro l
  induction l with
  | zero => intro a; simp only [State.s2walk, State.peekN, hp]; rfl
  | succ l ih => intro a; simp only [State.s2walk, State.peekN, hp, ih]; rfl
theorem unshared_congr {s t : State} {c : Nat} (ha : Aside s t) (hm : t.mem = s.mem) (h : Unshared s c) : Unshared t c := by
  intro ia e lvl pa hl
  refine h ia e lvl pa ?_
  rw [← hl]
  unfold State.s2leaf State.s2root State.reg
  rw [s2walk_congr s t hm]
  have : t.regs = s.regs := by unfold Aside at ha; rw [ha]
  rw [this]
theorem aside_refetch (s : State) (f : Nat) : Aside s (s.refetch f) := by
  unfold State.refetch; dsimp only
  split
  · split
    · rfl
    · exact ((aside_copyBytes _ _ _ _ _).trans (aside_vm _ _)).trans (aside_setDie _ _ _)
  · rfl
theorem aside_noteBias (s : State) (c p : Nat) (l : Bool) :
    Aside s (s.noteBias c p l) ∧ (s.noteBias c p l).mem = s.mem := by
  unfold State.noteBias; split <;> exact ⟨rfl, rfl⟩
theorem aside_refetched (s : State) (c : Nat) (e : DWord) : Aside s (s.refetched c e) := by
  unfold State.refetched
  split
  · exact aside_refetch _ _
  · rfl
theorem aside_virtAt (s : State) (who : Who) (need : Need) (t : Nat) (va : DWord) (n : Nat) :
    Aside s (s.virtAt who need t va n).2 ∧
    ∀ a, (s.virtAt who need t va n).1.1 = .ok a →
      a.lane = t ∧ a.va = va ∧ a.keys.length = n ∧
      ((need ≠ .wr ∨ Unshared s who.ctx) → (s.virtAt who need t va n).2.mem = s.mem) := by
  obtain ⟨h1, h2⟩ := aside_translate s who need va
  unfold State.virtAt
  dsimp only
  split
  · exact ⟨h1, by simp⟩
  · exact ⟨h1, by simp⟩
  · rename_i k label e ia _
    obtain ⟨h3, h4⟩ := aside_countAccess (s.translate who need va).2 who e ia
    split
    · exact ⟨(h1.trans h3).trans (aside_refetched _ _ _), by simp⟩
    · rename_i s2 hb
      have h5 : Aside s s2 ∧ ((need ≠ .wr ∨ Unshared s who.ctx) → s2.mem = s.mem) := by
        split at hb
        · rename_i hn
          refine ⟨(h1.trans h3).trans (aside_breakShare _ _ _ _ hb), fun h => ?_⟩
          rcases h with h | h
          · exact absurd hn h
          · rw [breakShare_unshared _ _ _ _ (unshared_congr (h1.trans h3) (by rw [h4, h2]) h) hb, h4, h2]
        · cases hb; exact ⟨h1.trans h3, fun _ => by rw [h4, h2]⟩
      constructor
      · dsimp only
        split
        · exact h5.1
        · exact h5.1.trans (aside_noteBias _ _ _ _).1
      · intro a ha
        cases ha
        refine ⟨rfl, rfl, by simp [keysAt], fun h => ?_⟩
        dsimp only
        split
        · exact h5.2 h
        · rw [(aside_noteBias _ _ _ _).2, h5.2 h]
theorem aside_virtChk (s : State) (who : Who) (need : Need) (t : Nat) (va : DWord) (n : Nat) :
    Aside s (s.virtChk who need t va n).2 ∧
    ∀ a, (s.virtChk who need t va n).1 = .ok a →
      a.lane = t ∧ a.va = va ∧ a.keys.length = n ∧
      ((need ≠ .wr ∨ Unshared s who.ctx) → (s.virtChk who need t va n).2.mem = s.mem) := by
  obtain ⟨h1, h2⟩ := aside_virtAt s who need t va n
  unfold State.virtChk
  dsimp only
  split
  · rename_i a ha
    split
    · exact ⟨h1.trans (aside_refetched _ _ _), by simp⟩
    · exact ⟨h1, fun b hb => h2 b (by rw [ha]; exact hb)⟩
  · rename_i hno
    exact ⟨h1, fun a ha => absurd ha (hno a)⟩
/-- An access that passes is the lane's, at its address, of its bytes; a read writes nothing. -/
def Good (s t : State) (ctx : Nat) (wr : Bool) (lane : Nat) (va : DWord) (n : Nat) (c : Chk) : Prop :=
  Aside s t ∧ ∀ a, c = .ok a → a.lane = lane ∧ a.va = va ∧ a.keys.length = n ∧ (wr = false ∨ Unshared s ctx → t.mem = s.mem)
theorem good_access (s : State) (who : Who) (need : Need) (vok : Bool) (t : Nat) (va : DWord) (n : Nat) :
    Good s (s.access who need vok t va n).2 who.ctx (decide (need = .wr)) t va n (s.access who need vok t va n).1 := by
  unfold State.access
  split
  · exact ⟨rfl, by simp⟩
  · split
    · refine ⟨rfl, ?_⟩
      intro a ha
      simp only [State.vaultChk] at ha
      split at ha
      · cases ha
      · split at ha
        · cases ha
        · split at ha
          · cases ha
          · cases ha; exact ⟨rfl, rfl, by simp [keysAt], fun _ => rfl⟩
    · obtain ⟨h1, h2⟩ := aside_virtChk s who need t va n
      refine ⟨h1, fun a ha => ?_⟩
      obtain ⟨p, q, r, m⟩ := h2 a ha
      exact ⟨p, q, r, fun h => m (h.imp_left (by simp))⟩
theorem good_atomicChk (s : State) (who : Who) (vok : Bool) (t : Nat) (va : DWord) (n : Nat) :
    Good s (s.atomicChk who vok t va n).2 who.ctx true t va n (s.atomicChk who vok t va n).1 := by
  unfold State.atomicChk
  split
  · exact ⟨rfl, by simp⟩
  · dsimp only
    obtain ⟨h1, h2⟩ := good_access s who .wr true t va n
    split
    · rename_i a ha
      obtain ⟨h3, _⟩ := good_access (s.access who .wr true t va n).2 who .rd true t va n
      split
      · exact ⟨h1, fun b hb => ⟨(h2 b hb).1, (h2 b hb).2.1, (h2 b hb).2.2.1, fun h => (h2 b hb).2.2.2 (h.imp_left (by simp))⟩⟩
      · refine ⟨h1.trans h3, fun b hb => ?_⟩
        rename_i hno
        exact absurd hb (hno b)
    · refine ⟨h1, fun b hb => ?_⟩
      rename_i hno
      exact absurd hb (hno b)
theorem good_padChk (s : State) (v : Wave) (c : Nat) (wr : Bool) (t : Nat) (va : DWord) (n : Nat) :
    Good s s c false t va n (s.padChk v wr t va n) := by
  refine ⟨rfl, fun a ha => ?_⟩
  simp only [State.padChk] at ha
  split at ha
  · cases ha
  · split at ha
    · cases ha
    · split at ha
      · cases ha
      · split at ha
        · cases ha
        · split at ha
          · cases ha
          · cases ha; exact ⟨rfl, rfl, by simp [keysAt], fun _ => rfl⟩
/-- The checks of this kind may copy a page. -/
def Reach.writes : Reach → Bool
  | .memory need _ => decide (need = .wr)
  | .atomic _ => true
  | .pad _ => false
theorem good_laneChk (s : State) (v : Wave) (who : Who) (how : Reach) (t : Nat) (va : DWord) (n : Nat) :
    Good s (s.laneChk v who how t va n).2 who.ctx how.writes t va n (s.laneChk v who how t va n).1 := by
  cases how with
  | memory need vok => exact good_access s who need vok t va n
  | atomic vok => exact good_atomicChk s who vok t va n
  | pad wr => exact good_padChk s v _ wr t va n

/-! ### All lanes -/

/-- What the checks of all lanes give: the failed and missed lanes only grow; where none fails or misses, every lane has
its access, in order. -/
theorem chkLanes_facts (v : Wave) (who : Who) (how : Reach) (n : Nat) (l : List (Nat × DWord)) :
    ∀ (s : State) (acc : Served), Aside s (s.chkLanes v who how n l acc).2 ∧
      ((s.chkLanes v who how n l acc).1.whole = true →
        acc.whole = true ∧ (how.writes = false ∨ Unshared s who.ctx → (s.chkLanes v who how n l acc).2.mem = s.mem) ∧
        ∃ k, (s.chkLanes v who how n l acc).1.ok = acc.ok ++ k ∧ AccessesAre k l n) := by
  induction l with
  | nil => intro s acc; exact ⟨rfl, fun h => ⟨h, fun _ => rfl, [], by simp [State.chkLanes], rfl, by simp⟩⟩
  | cons e l ih =>
    intro s acc
    obtain ⟨t, va⟩ := e
    simp only [State.chkLanes]
    obtain ⟨g1, g2⟩ := good_laneChk s v who how t va n
    obtain ⟨h1, h2⟩ := ih (s.laneChk v who how t va n).2 (acc.add t va (s.laneChk v who how t va n).1)
    refine ⟨g1.trans h1, fun hw => ?_⟩
    obtain ⟨h3, h4, k, h5, h6, h7⟩ := h2 hw
    cases hc : (s.laneChk v who how t va n).1 with
    | ok a =>
      rw [hc] at h3 h5
      obtain ⟨p, q, r, m⟩ := g2 a hc
      refine ⟨?_, fun hh => by
          rw [← hc, h4 (hh.imp_right (unshared_congr g1 (m hh))), m hh], a :: k, ?_, ?_, ?_⟩
      · simpa [Served.add, Served.whole] using h3
      · rw [← hc] at h5 ⊢
        rw [h5, hc]; simp [Served.add]
      · simp [h6, p, q]
      · intro b hb
        rcases List.mem_cons.mp hb with rfl | hb
        · exact r
        · exact h7 b hb
    | fault c sub => rw [hc] at h3; simp [Served.add, Served.whole] at h3
    | miss p o => rw [hc] at h3; simp [Served.add, Served.whole] at h3
theorem reached_facts (s : State) (v : Wave) (x : SlotId) (how : Reach) (n : Nat) (addrs : List (Nat × DWord)) :
    Aside s (reached s v x how n addrs).2 ∧ ((reached s v x how n addrs).1.whole = true →
      (how.writes = false ∨ Unshared s v.id.ctx → (reached s v x how n addrs).2.mem = s.mem) ∧
      AccessesAre (reached s v x how n addrs).1.ok addrs n ∧
      (reached s v x how n addrs).1.lanes = addrs.map Prod.fst ∧
      (reached s v x how n addrs).1.gone = []) := by
  obtain ⟨h1, h2⟩ := chkLanes_facts v (v.who x) how n addrs s .none
  refine ⟨h1, fun hw => ?_⟩
  obtain ⟨-, h3, k, h4, h5, h6⟩ := h2 hw
  have hk : (reached s v x how n addrs).1.ok = k := by simpa [reached, Served.none] using h4
  have hg : (reached s v x how n addrs).1.gone = [] := by
    have : ((reached s v x how n addrs).1.bad.isEmpty && (reached s v x how n addrs).1.gone.isEmpty) = true := hw
    simp at this; exact this.2
  refine ⟨h3, ⟨by rw [hk]; exact h5, by rw [hk]; exact h6⟩, ?_, hg⟩
  simp only [Served.lanes, hk, hg, List.map_nil, List.append_nil]
  rw [← h5, List.map_map]; rfl

/-! ### Issuing a load -/

theorem Wave.mGate_go (v : Wave) (x : SlotId) (g operands : Bool) (reads writes : List Nat) (rest : Gate)
    (h : MReady v x g operands reads writes) (hr : v.active x g ≠ 0 → rest = .go) :
    v.mGate x g true operands reads writes rest = .go := by
  simp only [Wave.mGate, Gate.and_go, Wave.baseGate_go]
  refine ⟨⟨h.clear.window, trivial, trivial, h.operands, h.clear.region⟩, ?_⟩
  split
  · rfl
  · rename_i ha
    refine (Gate.and_go _ _).mpr ⟨v.mbGate_go _ _ (h.mail ha).1, (Gate.and_go _ _).mpr ⟨?_, hr ha⟩⟩
    rw [Gate.need_go]
    simpa using (h.mail ha).2
theorem roomGate_go (n : Nat) : roomGate n = .go ↔ n < 63 := by simp [roomGate]
theorem Wave.advance_past (v : Wave) (x : SlotId) : Past v (v.advance x) x false := by
  obtain ⟨h1, h2, h3, h4⟩ := v.advance_stepped x
  refine ⟨h2, h3, ?_⟩
  unfold SteppedDue
  rw [Bool.or_false]
  exact h4
/-- A wave that leaves an instruction whose effect changed no control state. -/
theorem past_adv (v u : Wave) (x : SlotId) (due : Bool) (h : u.ctl = v.ctl) :
    Past v ((if due = true then u.markDue x else u).advance x) x due ∧
    (if due = true then u.markDue x else u).advance x
      = { u with ctl := ((if due = true then u.markDue x else u).advance x).ctl } := by
  have hs : ∀ y, u.slot y = v.slot y := by intro y; cases y <;> simp only [Wave.slot, h]
  cases due
  · simp only [Bool.false_eq_true, if_false]
    obtain ⟨h1, h2, h3, h4⟩ := u.advance_stepped x
    refine ⟨⟨by rw [h2, h], by rw [h3, hs], ?_⟩, h1⟩
    unfold SteppedDue
    rw [Bool.or_false, ← hs]
    exact h4
  · simp only [if_true]
    obtain ⟨h1, h2, h3, h4⟩ := (u.markDue x).advance_stepped x
    refine ⟨⟨?_, ?_, ?_⟩, ?_⟩
    · rw [h2, ← h]; cases x <;> rfl
    · rw [h3, ← hs]; cases x <;> rfl
    · unfold SteppedDue
      rw [Bool.or_true, ← hs]
      unfold Stepped at h4
      rw [h4]
      cases x <;> rfl
    · rw [h1]; cases x <;> rfl
theorem Wave.advance_passed (v : Wave) (x : SlotId) : Passed v (v.advance x) x :=
  ⟨(v.advance_stepped x).1, v.advance_past x⟩
theorem passes (s : State) (w : Nat) (x : SlotId) (v : Wave) :
    OnlyWave s (s.setWave w (v.advance x)) w fun v' => Passed v v' x := onlyWave_set _ _ _ _ (v.advance_passed x)
theorem State.setWave_setWave (s : State) (w : Nat) (u v : Wave) : (s.setWave w u).setWave w v = s.setWave w v := by
  have : ∀ m : Map Wave, mput (mput m w u) w v = mput m w v := by
    intro m
    induction m with
    | nil => simp [mput]
    | cons e m ih =>
      obtain ⟨k, b⟩ := e
      simp only [mput]
      by_cases h1 : w < k
      · simp [h1, mput]
      · by_cases h2 : w = k
        · simp [h2, mput]
        · simp [h1, h2, mput, ih]
  simp [State.setWave, this]
/-- An instruction counted as issued is not counted again. -/
theorem Wave.countIssue_counted (v : Wave) (x : SlotId) : ∃ i l,
    v.countIssue x = ({ v with ctl := { v.ctl with issued := i, last := l } } : Wave).setSlot x { v.slot x with counted := true } := by
  unfold Wave.countIssue
  split
  · rename_i hc
    refine ⟨v.ctl.issued, v.ctl.last, ?_⟩
    rw [← hc]
    cases x <;> rfl
  · refine ⟨v.ctl.issued + 1, x, ?_⟩
    cases x <;> rfl
theorem Wave.advance_counted (v : Wave) (x : SlotId) (h : (v.slot x).counted = true) : v.advance x =
    { v.modSlot x PcSlot.stepped with ctl := { (v.modSlot x PcSlot.stepped).ctl with last := x } } := by
  simp only [Wave.advance, Wave.complete, Wave.countIssue, h, if_true]
/-- An access all of whose lanes are served ends by leaving the instruction. -/
theorem State.endAccess_whole (s : State) (w : Nat) (x : SlotId) (v u : Wave) (need : Need) (r : Served)
    (h : r.whole = true) (hu : s.wave? w = some u) : s.endAccess w x v need r = s.setWave w (u.advance x) := by
  rw [State.endAccess, if_pos h, State.modWave_of _ _ _ _ hu]
theorem lanes_empty (r : Served) (l : List (Nat × DWord)) (h : r.lanes = l.map Prod.fst) (hl : l ≠ []) :
    r.lanes.isEmpty = false := by
  rw [h]; cases l <;> simp_all
theorem State.issueLoad_done (s : State) (w : Nat) (x : SlotId) (v : Wave) (u : LoadUse) (act : Mask) (h : s.wave? w = some v)
    (ha : u.op.all.getD (maskOf fun t => decide (t ∈ u.addrs.map Prod.fst)) = act) (hl : u.addrs ≠ [])
    (hw : (reached s v x u.how u.bytes u.addrs).1.whole = true) :
    OnlyWave (reached s v x u.how u.bytes u.addrs).2 (s.issueLoad w x v u.op u.how u.bytes u.addrs u.reads) w fun v' =>
      LoadIssued v v' x act u (reached s v x u.how u.bytes u.addrs).1.ok := by
  obtain ⟨h1, h2⟩ := reached_facts s v x u.how u.bytes u.addrs
  obtain ⟨-, -, h3, h4⟩ := h2 hw
  have hv := h1.wave? w
  rw [h] at hv
  unfold State.issueLoad
  have hr : s.chkLanes v (v.who x) u.how u.bytes u.addrs .none = reached s v x u.how u.bytes u.addrs := rfl
  simp only [hr]
  generalize reached s v x u.how u.bytes u.addrs = r at *
  have he := lanes_empty r.1 u.addrs h3 hl
  rw [State.modWave_of _ _ _ _ hv, State.endAccess_whole _ _ _ _ _ _ _ hw (State.wave?_setWave_self _ _ _),
    State.setWave_setWave]
  apply onlyWave_set
  have hm : r.1.mask = maskOf fun t => decide (t ∈ u.addrs.map Prod.fst) := by
    simp only [Served.mask, h3, List.contains_eq_mem]
  simp only [he, Bool.false_eq_true, if_false, Wave.addLoad, h4, missAccs, List.map_nil, List.append_nil, hm, ha]
  obtain ⟨i, l, hi⟩ := (v.consume u.reads).countIssue_counted x
  rw [hi]
  rw [Wave.advance_counted]
  · refine ⟨?_, ⟨?_, ?_, ?_⟩, ?_⟩
    · cases x <;> rfl
    · cases x <;> rfl
    · cases x <;> rfl
    · unfold SteppedDue; rw [Bool.or_false]; cases x <;> rfl
    · cases x <;> rfl
  · cases x <;> rfl

theorem loads_of (i : Instr) (g : Bool) (k : State → Wave → SlotId → LoadUse) (rest : Wave → Gate)
    (h : ∀ s, exec i s = s.issue (fun s _ x v => v.mGate x g true (k s v x).operands (k s v x).reads (k s v x).writes (rest v))
      fun s w x v => if v.active x g = 0 then s.setWave w (v.advance x)
        else s.issueLoad w x v (k s v x).op (k s v x).how (k s v x).bytes (k s v x).addrs (k s v x).reads)
    (hr : ∀ s v x, (k s v x).room = true → rest v = .go)
    (hw : ∀ s v x, (k s v x).how.writes = false)
    (ha : ∀ s v x, v.active x g ≠ 0 → (k s v x).addrs ≠ [] ∧
      (k s v x).op.all.getD (maskOf fun t => decide (t ∈ (k s v x).addrs.map Prod.fst)) = v.active x g) :
    Loads i g k := by
  intro s w x v hi u hm
  rw [h]
  constructor
  · intro h0
    refine ⟨_, s.issue_go _ _ w x v hi (v.mGate_go x g _ _ _ _ hm fun h => absurd h0 h), ?_⟩
    simp only [h0, if_true]
    exact passes s w x v
  · intro h0 hroom r hwh
    refine ⟨_, s.issue_go _ _ w x v hi (v.mGate_go x g _ _ _ _ hm fun _ => hr s v x hroom), ?_⟩
    simp only [if_neg h0]
    obtain ⟨f1, f2⟩ := reached_facts s v x u.how u.bytes u.addrs
    obtain ⟨f3, f4, -, -⟩ := f2 hwh
    have hd := s.issueLoad_done w x v u (v.active x g) hi.wave (ha s v x h0).2 (ha s v x h0).1 hwh
    refine ⟨f1, fun k => ?_, f4, hd⟩
    rw [hd.1, f3 (.inl (hw s v x))]

/-! ### Issuing a store -/

theorem State.issueStore_done (s : State) (w : Nat) (x : SlotId) (v : Wave) (u : StoreUse) (h : s.wave? w = some v)
    (hl : u.addrs ≠ [])
    (hw : (reached s v x (if u.pad = true then .pad true else .memory .wr true) u.bytes u.addrs).1.whole = true) :
    let r := reached s v x (if u.pad = true then .pad true else .memory .wr true) u.bytes u.addrs
    OnlyWave r.2 (s.issueStore w x v u.pad u.acq u.bytes u.addrs u.data u.reads) w fun v' =>
      StoreIssued v v' w x u r.1.ok (!u.pad && r.2.anyWindow v.id.ctx r.1.ok) := by
  intro r
  obtain ⟨h1, h2⟩ := reached_facts s v x (if u.pad = true then .pad true else .memory .wr true) u.bytes u.addrs
  obtain ⟨-, h5, h3, h4⟩ := h2 hw
  have hv := h1.wave? w
  rw [h] at hv
  unfold State.issueStore
  have hr : s.chkLanes v (v.who x) (if u.pad = true then .pad true else .memory .wr true) u.bytes u.addrs .none = r := rfl
  simp only [hr]
  change r.1.whole = true at hw
  change r.2.wave? w = some v at hv
  change r.1.lanes = _ at h3
  change r.1.gone = [] at h4
  change AccessesAre r.1.ok _ _ at h5
  clear_value r
  have he := lanes_empty r.1 u.addrs h3 hl
  have hok : r.1.ok.isEmpty = false := by
    have := h5.1
    cases hk : r.1.ok with
    | nil => rw [hk] at this; exact absurd this.symm hl
    | cons => rfl
  rw [State.modWave_of _ _ _ _ hv, State.endAccess_whole _ _ _ _ _ _ _ hw (State.wave?_setWave_self _ _ _),
    State.setWave_setWave]
  apply onlyWave_set
  simp only [he, Bool.false_eq_true, if_false, h4, missAccs, List.map_nil, List.append_nil, Wave.pushStore, hok, Wave.push]
  have hd : (!u.pad && r.2.anyWindow (v.consume u.reads).id.ctx r.1.ok) = (!u.pad && r.2.anyWindow v.id.ctx r.1.ok) := rfl
  simp only [hd] at *
  generalize (!u.pad && r.2.anyWindow v.id.ctx r.1.ok) = due
  obtain ⟨p1, p2⟩ := past_adv v { v.consume u.reads with mem := _ } x due rfl
  refine ⟨?_, p1, ?_⟩
  · rw [p2]; rfl
  · rw [p2]; rfl
theorem stores_of (i : Instr) (g : Bool) (k : State → Wave → SlotId → StoreUse) (rest : Wave → Gate)
    (eff : State → Nat → SlotId → Wave → State)
    (h : ∀ s, exec i s = s.issue (fun s _ x v => v.mGate x g true (k s v x).operands (k s v x).reads [] (rest v)) eff)
    (h0 : ∀ s w x v, v.active x g = 0 → eff s w x v = s.setWave w (v.advance x))
    (h1 : ∀ s w x v, v.active x g ≠ 0 → (k s v x).room = true →
      eff s w x v = s.issueStore w x v (k s v x).pad (k s v x).acq (k s v x).bytes (k s v x).addrs (k s v x).data (k s v x).reads)
    (hr : ∀ s v x, (k s v x).room = true → rest v = .go)
    (ha : ∀ s v x, v.active x g ≠ 0 → (k s v x).addrs ≠ []) : Stores i g k := by
  intro s w x v hi u hm
  rw [h]
  constructor
  · intro h2
    refine ⟨_, s.issue_go _ _ w x v hi (v.mGate_go x g _ _ _ _ hm fun h => absurd h2 h), ?_⟩
    rw [h0 _ _ _ _ h2]
    exact passes s w x v
  · intro h2 hroom r hwh
    refine ⟨_, s.issue_go _ _ w x v hi (v.mGate_go x g _ _ _ _ hm fun _ => hr s v x hroom), ?_⟩
    rw [h1 _ _ _ _ h2 hroom]
    obtain ⟨f1, f2⟩ := reached_facts s v x (if u.pad = true then .pad true else .memory .wr true) u.bytes u.addrs
    obtain ⟨f3, f4, -, -⟩ := f2 hwh
    have hd := s.issueStore_done w x v u hi.wave (ha s v x h2) hwh
    refine ⟨f1, fun hu k => ?_, f4, hd⟩
    rw [hd.1]
    have := f3 (hu.imp_left fun hp => by rw [if_pos hp]; rfl)
    exact congrArg (memByte · k) this

/-! ### Issuing an atomic -/

@[simp] theorem LaneAcc.atScope_lane (b : Bool) (a : LaneAcc) : (a.atScope b).lane = a.lane := by
  unfold LaneAcc.atScope; split <;> rfl
@[simp] theorem LaneAcc.atScope_va (b : Bool) (a : LaneAcc) : (a.atScope b).va = a.va := by
  unfold LaneAcc.atScope; split <;> rfl
@[simp] theorem LaneAcc.atScope_keys (b : Bool) (a : LaneAcc) : (a.atScope b).keys = a.keys := by
  unfold LaneAcc.atScope; split <;> rfl
theorem atScope_accs (r : Served) (b : Bool) (l : List (Nat × DWord)) (n : Nat) (h : AccessesAre r.ok l n) :
    AccessesAre (r.atScope b).ok l n := by
  obtain ⟨h1, h2⟩ := h
  constructor
  · rw [← h1, Served.atScope, List.map_map]
    apply List.map_congr_left
    intro a _
    simp
  · intro a ha
    simp only [Served.atScope, List.mem_map] at ha
    obtain ⟨b', hb, rfl⟩ := ha
    simpa using h2 b' hb
/-- A wave that leaves an instruction which has counted its own issue. -/
theorem past_counted (v z : Wave) (x : SlotId) (i : Nat) (l : SlotId)
    (h : z.ctl = (({ v with ctl := { v.ctl with issued := i, last := l } } : Wave).setSlot x { v.slot x with counted := true }).ctl) :
    Past v ((z.markDue x).advance x) x true ∧
    (z.markDue x).advance x = { z with ctl := ((z.markDue x).advance x).ctl } ∧
    ((z.markDue x).advance x).ctl.issued = i := by
  obtain ⟨zi, zr, zc, zm, zt, zcp, zma, zf, zb, zs, zl, zg, zv⟩ := z
  obtain ⟨vi, vr, vc, vm, vt, vcp, vma, vf, vb, vs, vl, vg, vv⟩ := v
  obtain ⟨a, b, c3, c4, c5, c6, c7, c8, c9, c10, c11, c12, c13⟩ := vc
  cases x
  · change zc = _ at h
    subst h
    exact ⟨⟨rfl, rfl, by unfold SteppedDue; rw [Bool.or_true]; rfl⟩, rfl, rfl⟩
  · change zc = _ at h
    subst h
    exact ⟨⟨rfl, rfl, by unfold SteppedDue; rw [Bool.or_true]; rfl⟩, rfl, rfl⟩
theorem State.issueAtomic_done (s : State) (w : Nat) (x : SlotId) (v : Wave) (u : AtomUse) (h : s.wave? w = some v)
    (hl : u.addrs ≠ []) (hall : ∀ o ∈ u.ret, o.all = none)
    (hw : (reached s v x (if u.pad = true then .pad true else .atomic u.vault) (atomBytes u.op) u.addrs).1.whole = true) :
    let r := reached s v x (if u.pad = true then .pad true else .atomic u.vault) (atomBytes u.op) u.addrs
    OnlyWave r.2 (s.issueAtomic w x v u.op u.pad u.vault (atomBytes u.op) u.addrs u.operand u.ret u.reads) w fun v' =>
      AtomIssued v v' w x u (r.1.atScope u.vault).ok := by
  intro r
  obtain ⟨h1, h2⟩ := reached_facts s v x (if u.pad = true then .pad true else .atomic u.vault) (atomBytes u.op) u.addrs
  obtain ⟨-, h5, h3, h4⟩ := h2 hw
  have hv := h1.wave? w
  rw [h] at hv
  unfold State.issueAtomic
  have hr : s.chkLanes v (v.who x) (if u.pad = true then .pad true else .atomic u.vault) (atomBytes u.op) u.addrs .none = r := rfl
  simp only [hr]
  change r.1.whole = true at hw
  change r.2.wave? w = some v at hv
  change r.1.lanes = _ at h3
  change r.1.gone = [] at h4
  change AccessesAre r.1.ok _ _ at h5
  clear_value r
  have hw' : (r.1.atScope u.vault).whole = true := hw
  have h4' : (r.1.atScope u.vault).gone = [] := h4
  have h3' : (r.1.atScope u.vault).lanes = u.addrs.map Prod.fst := by
    rw [← h3]
    simp only [Served.lanes, Served.atScope, List.map_map]
    congr 1
    apply List.map_congr_left
    intro a _
    simp
  have h5' := atScope_accs r.1 u.vault _ _ h5
  generalize r.1.atScope u.vault = q at *
  have he := lanes_empty q u.addrs h3' hl
  have hok : q.ok.isEmpty = false := by
    have := h5'.1
    cases hk : q.ok with
    | nil => rw [hk] at this; exact absurd this.symm hl
    | cons => rfl
  have hm : q.mask = maskOf fun t => decide (t ∈ u.addrs.map Prod.fst) := by
    simp only [Served.mask, h3', List.contains_eq_mem]
  rw [State.modWave_of _ _ _ _ hv, State.endAccess_whole _ _ _ _ _ _ _ hw' (State.wave?_setWave_self _ _ _),
    State.setWave_setWave]
  apply onlyWave_set
  simp only [he, Bool.false_eq_true, if_false, h4', missAccs, List.map_nil, List.append_nil, Wave.pushAtomic, hok, Wave.push]
  cases hret : u.ret with
  | none =>
    obtain ⟨p1, p2⟩ := past_adv v { v.consume u.reads with mem := _ } x true rfl
    simp only [if_true] at p1 p2
    refine ⟨?_, p1, ?_⟩
    · rw [p2]; rfl
    · rw [p2]; simp only [hret, Option.isSome_none, Bool.false_eq_true, if_false, Option.map_none, Option.toList_none, List.append_nil]; rfl
  | some o =>
    have ho := hall o (by simp [hret])
    simp only [Wave.addLoad, he, Bool.false_eq_true, if_false, h4', missAccs, List.map_nil, List.append_nil, hm, ho, Option.getD_none]
    obtain ⟨i, l, hi⟩ := (v.consume u.reads).countIssue_counted x
    rw [hi]
    generalize hz : Wave.mk _ _ _ _ _ _ _ _ _ _ _ _ _ = z
    obtain ⟨p1, p2, p3⟩ := past_counted v z x i l (by rw [← hz]; cases x <;> rfl)
    generalize (z.markDue x).advance x = y at *
    have pm : y.mem = z.mem := by rw [p2]
    refine ⟨?_, p1, ?_⟩
    · refine p2.trans ?_
      rw [pm, ← hz]; cases x <;> rfl
    · simp only [hret, Option.isSome_some, if_true, Option.map_some, Option.toList_some, p3]
      rw [pm, ← hz]; cases x <;> rfl
theorem atoms_of (i : Instr) (g : Bool) (k : State → Wave → SlotId → AtomUse) (rest : Wave → Gate)
    (h : ∀ s, exec i s = s.issue (fun s _ x v => v.mGate x g true (k s v x).operands (k s v x).reads (k s v x).writes (rest v))
      fun s w x v => if v.active x g = 0 then s.setWave w (v.advance x)
        else s.issueAtomic w x v (k s v x).op (k s v x).pad (k s v x).vault (atomBytes (k s v x).op) (k s v x).addrs
          (k s v x).operand (k s v x).ret (k s v x).reads)
    (hr : ∀ s v x, (k s v x).room = true → rest v = .go)
    (ha : ∀ s v x, v.active x g ≠ 0 → (k s v x).addrs ≠ []) (hall : ∀ s v x, ∀ o ∈ (k s v x).ret, o.all = none) :
    Atoms i g k := by
  intro s w x v hi u hm
  rw [h]
  constructor
  · intro h2
    refine ⟨_, s.issue_go _ _ w x v hi (v.mGate_go x g _ _ _ _ hm fun h => absurd h2 h), ?_⟩
    simp only [h2, if_true]
    exact passes s w x v
  · intro h2 hroom r ok hwh
    refine ⟨_, s.issue_go _ _ w x v hi (v.mGate_go x g _ _ _ _ hm fun _ => hr s v x hroom), ?_⟩
    simp only [if_neg h2]
    obtain ⟨f1, f2⟩ := reached_facts s v x (if u.pad = true then .pad true else .atomic u.vault) (atomBytes u.op) u.addrs
    obtain ⟨f3, f4, -, -⟩ := f2 hwh
    have hd := s.issueAtomic_done w x v u hi.wave (ha s v x h2) (hall s v x) hwh
    refine ⟨f1, fun hu k => ?_, atScope_accs _ _ _ _ f4, hd⟩
    rw [hd.1]
    have := f3 (hu.imp_left fun hp => by rw [if_pos hp]; rfl)
    exact congrArg (memByte · k) this

/-! ### Lanes of an instruction -/

theorem act_ne (act : Mask) (h : act ≠ 0) : lanesOf act ≠ [] := by
  intro hl
  apply h
  apply mask_ext
  intro t ht
  have : t ∉ lanesOf act := by rw [hl]; simp
  rw [mem_lanesOf] at this
  simp only [ht, true_and, Bool.not_eq_true] at this
  rw [this]
  simp [mbit]
theorem mAddrs_ne (v : Wave) (x : SlotId) (m : MAddr) (act : Mask) (h : act ≠ 0) : v.mAddrs x m act ≠ [] := by
  simp only [Wave.mAddrs, ne_eq, List.map_eq_nil_iff]
  exact act_ne act h
theorem mAddrs_mask (v : Wave) (x : SlotId) (m : MAddr) (act : Mask) :
    (maskOf fun t => decide (t ∈ (v.mAddrs x m act).map Prod.fst)) = act := by
  apply mask_ext
  intro t ht
  rw [mbit_maskOf _ _ ht]
  simp only [Wave.mAddrs, List.map_map, List.mem_map, Function.comp, exists_eq_right, mem_lanesOf, ht, true_and]
  simp

end Sys2Proof.Machine
end

