-- ==== Sys2Proof/Laws/Dispatch.lean ====
section
/-! SUPPORT. Laws/Dispatch.lean: the meaning each instruction is dispatched to. -/

namespace Sys2Proof.Machine

theorem exec_mov f (s : State) : exec (.mov f) s = execMov f s := rfl
theorem exec_sel f nc p (s : State) : exec (.sel f nc p) s = execSel f nc p s := rfl
theorem exec_sread g d k (s : State) : exec (.sread g d k) s = execSread g d k s := rfl
theorem exec_plop g pd pa pb op (s : State) : exec (.plop g pd pa pb op) s = execPlop g pd pa pb op s := rfl
theorem exec_pset g pd a (s : State) : exec (.pset g pd a) s = execPset g pd a s := rfl
theorem exec_pmov g d (s : State) : exec (.pmov g d) s = execPmov g d s := rfl
theorem exec_pmovPreds g a (s : State) : exec (.pmovPreds g a) s = execPmovPreds g a s := rfl
theorem exec_fadd f m (s : State) : exec (.fadd f m) s = execFadd f m s := rfl
theorem exec_fsub f m (s : State) : exec (.fsub f m) s = execFsub f m s := rfl
theorem exec_fmul f m (s : State) : exec (.fmul f m) s = execFmul f m s := rfl
theorem exec_ffma f m nc (s : State) : exec (.ffma f m nc) s = execFfma f m nc s := rfl
theorem exec_fma3 f m nc c (s : State) : exec (.fma3 f m nc c) s = execFma3 f m nc c s := rfl
theorem exec_fmin f n (s : State) : exec (.fmin f n) s = execFmin f n s := rfl
theorem exec_fmax f n (s : State) : exec (.fmax f n) s = execFmax f n s := rfl
theorem exec_fcmp f cond n (s : State) : exec (.fcmp f cond n) s = execFcmp f cond n s := rfl
theorem exec_frnd f rnd na absa (s : State) : exec (.frnd f rnd na absa) s = execFrnd f rnd na absa s := rfl
theorem exec_ffract f na absa (s : State) : exec (.ffract f na absa) s = execFfract f na absa s := rfl
theorem exec_fscale f rnd sat na absa (s : State) : exec (.fscale f rnd sat na absa) s = execFscale f rnd sat na absa s := rfl
theorem exec_frcp f na absa (s : State) : exec (.frcp f na absa) s = execFrcp f na absa s := rfl
theorem exec_frsq f na absa (s : State) : exec (.frsq f na absa) s = execFrsq f na absa s := rfl
theorem exec_fsqrt f na absa (s : State) : exec (.fsqrt f na absa) s = execFsqrt f na absa s := rfl
theorem exec_fexp2 f na absa (s : State) : exec (.fexp2 f na absa) s = execFexp2 f na absa s := rfl
theorem exec_flog2 f na absa (s : State) : exec (.flog2 f na absa) s = execFlog2 f na absa s := rfl
theorem exec_fsin f na absa (s : State) : exec (.fsin f na absa) s = execFsin f na absa s := rfl
theorem exec_fcos f na absa (s : State) : exec (.fcos f na absa) s = execFcos f na absa s := rfl
theorem exec_hadd2 f m (s : State) : exec (.hadd2 f m) s = execHadd2 f m s := rfl
theorem exec_hsub2 f m (s : State) : exec (.hsub2 f m) s = execHsub2 f m s := rfl
theorem exec_hmul2 f m (s : State) : exec (.hmul2 f m) s = execHmul2 f m s := rfl
theorem exec_hfma2 f m nc (s : State) : exec (.hfma2 f m nc) s = execHfma2 f m nc s := rfl
theorem exec_hmin2 f n (s : State) : exec (.hmin2 f n) s = execHmin2 f n s := rfl
theorem exec_hmax2 f n (s : State) : exec (.hmax2 f n) s = execHmax2 f n s := rfl
theorem exec_hcmp2 f cond n (s : State) : exec (.hcmp2 f cond n) s = execHcmp2 f cond n s := rfl
theorem exec_badd2 f m (s : State) : exec (.badd2 f m) s = execBadd2 f m s := rfl
theorem exec_bmul2 f m (s : State) : exec (.bmul2 f m) s = execBmul2 f m s := rfl
theorem exec_bfma2 f m nc (s : State) : exec (.bfma2 f m nc) s = execBfma2 f m nc s := rfl
theorem exec_dot4i f sat c (s : State) : exec (.dot4i f sat c) s = execDot4i f sat c s := rfl
theorem exec_dot4u f sat c (s : State) : exec (.dot4u f sat c) s = execDot4u f sat c s := rfl
theorem exec_dot2h f m nc c (s : State) : exec (.dot2h f m nc c) s = execDot2h f m nc c s := rfl
theorem exec_dot2b f m nc c (s : State) : exec (.dot2b f m nc c) s = execDot2b f m nc c s := rfl
theorem exec_cvt f rnd sat fmt src (s : State) : exec (.cvt f rnd sat fmt src) s = execCvt f rnd sat fmt src s := rfl
theorem exec_qnt f fmt (s : State) : exec (.qnt f fmt) s = execQnt f fmt s := rfl
theorem exec_dqnt f fmt (s : State) : exec (.dqnt f fmt) s = execDqnt f fmt s := rfl
theorem exec_iadd f (s : State) : exec (.iadd f) s = execIadd f s := rfl
theorem exec_isub f (s : State) : exec (.isub f) s = execIsub f s := rfl
theorem exec_iaddx f op (s : State) : exec (.iaddx f op) s = execIaddx f op s := rfl
theorem exec_imul f (s : State) : exec (.imul f) s = execImul f s := rfl
theorem exec_imulh f (s : State) : exec (.imulh f) s = execImulh f s := rfl
theorem exec_umulh f (s : State) : exec (.umulh f) s = execUmulh f s := rfl
theorem exec_imad f sat u (s : State) : exec (.imad f sat u) s = execImad f sat u s := rfl
theorem exec_imad3 f sat u c (s : State) : exec (.imad3 f sat u c) s = execImad3 f sat u c s := rfl
theorem exec_imin f (s : State) : exec (.imin f) s = execImin f s := rfl
theorem exec_imax f (s : State) : exec (.imax f) s = execImax f s := rfl
theorem exec_umin f (s : State) : exec (.umin f) s = execUmin f s := rfl
theorem exec_umax f (s : State) : exec (.umax f) s = execUmax f s := rfl
theorem exec_iabs f (s : State) : exec (.iabs f) s = execIabs f s := rfl
theorem exec_iadds f u (s : State) : exec (.iadds f u) s = execIadds f u s := rfl
theorem exec_isubs f u (s : State) : exec (.isubs f u) s = execIsubs f u s := rfl
theorem exec_icmp f cond (s : State) : exec (.icmp f cond) s = execIcmp f cond s := rfl
theorem exec_ucmp f cond (s : State) : exec (.ucmp f cond) s = execUcmp f cond s := rfl
theorem exec_and f (s : State) : exec (.and f) s = execAnd f s := rfl
theorem exec_or f (s : State) : exec (.or f) s = execOr f s := rfl
theorem exec_xor f (s : State) : exec (.xor f) s = execXor f s := rfl
theorem exec_ltab f tab c (s : State) : exec (.ltab f tab c) s = execLtab f tab c s := rfl
theorem exec_shl f (s : State) : exec (.shl f) s = execShl f s := rfl
theorem exec_shr f (s : State) : exec (.shr f) s = execShr f s := rfl
theorem exec_sar f (s : State) : exec (.sar f) s = execSar f s := rfl
theorem exec_rot f (s : State) : exec (.rot f) s = execRot f s := rfl
theorem exec_bfe f sx (s : State) : exec (.bfe f sx) s = execBfe f sx s := rfl
theorem exec_bfi f c (s : State) : exec (.bfi f c) s = execBfi f c s := rfl
theorem exec_popc f (s : State) : exec (.popc f) s = execPopc f s := rfl
theorem exec_clz f (s : State) : exec (.clz f) s = execClz f s := rfl
theorem exec_brev f (s : State) : exec (.brev f) s = execBrev f s := rfl
theorem exec_shfl f seg (s : State) : exec (.shfl f seg) s = execShfl f seg s := rfl
theorem exec_shflx f seg (s : State) : exec (.shflx f seg) s = execShflx f seg s := rfl
theorem exec_shflup f seg (s : State) : exec (.shflup f seg) s = execShflup f seg s := rfl
theorem exec_shfldn f seg (s : State) : exec (.shfldn f seg) s = execShfldn f seg s := rfl
theorem exec_vote g op pa (s : State) : exec (.vote g op pa) s = execVote g op pa s := rfl
theorem exec_rdlane f (s : State) : exec (.rdlane f) s = execRdlane f s := rfl
theorem exec_wrlane f (s : State) : exec (.wrlane f) s = execWrlane f s := rfl
theorem exec_red f seg op rnd (s : State) : exec (.red f seg op rnd) s = execRed f seg op rnd s := rfl
theorem exec_scan f seg op rnd (s : State) : exec (.scan f seg op rnd) s = execScan f seg op rnd s := rfl
theorem exec_smov f (s : State) : exec (.smov f) s = execSmov f s := rfl
theorem exec_ssel f nc k (s : State) : exec (.ssel f nc k) s = execSsel f nc k s := rfl
theorem exec_klop f op (s : State) : exec (.klop f op) s = execKlop f op s := rfl
theorem exec_sadd f (s : State) : exec (.sadd f) s = execSadd f s := rfl
theorem exec_ssub f (s : State) : exec (.ssub f) s = execSsub f s := rfl
theorem exec_smul f (s : State) : exec (.smul f) s = execSmul f s := rfl
theorem exec_smulh f u (s : State) : exec (.smulh f u) s = execSmulh f u s := rfl
theorem exec_smad f c (s : State) : exec (.smad f c) s = execSmad f c s := rfl
theorem exec_smin f u (s : State) : exec (.smin f u) s = execSmin f u s := rfl
theorem exec_smax f u (s : State) : exec (.smax f u) s = execSmax f u s := rfl
theorem exec_scmp f cond (s : State) : exec (.scmp f cond) s = execScmp f cond s := rfl
theorem exec_slea f sh (s : State) : exec (.slea f sh) s = execSlea f sh s := rfl
theorem exec_sand f (s : State) : exec (.sand f) s = execSand f s := rfl
theorem exec_sor f (s : State) : exec (.sor f) s = execSor f s := rfl
theorem exec_sxor f (s : State) : exec (.sxor f) s = execSxor f s := rfl
theorem exec_sshl f (s : State) : exec (.sshl f) s = execSshl f s := rfl
theorem exec_sshr f (s : State) : exec (.sshr f) s = execSshr f s := rfl
theorem exec_ssar f (s : State) : exec (.ssar f) s = execSsar f s := rfl
theorem exec_srot f (s : State) : exec (.srot f) s = execSrot f s := rfl
theorem exec_sbfe f sx (s : State) : exec (.sbfe f sx) s = execSbfe f sx s := rfl
theorem exec_sbfi f c (s : State) : exec (.sbfi f c) s = execSbfi f c s := rfl
theorem exec_spopc f (s : State) : exec (.spopc f) s = execSpopc f s := rfl
theorem exec_sclz f (s : State) : exec (.sclz f) s = execSclz f s := rfl
theorem exec_sfadd f m (s : State) : exec (.sfadd f m) s = execSfadd f m s := rfl
theorem exec_sfmul f m (s : State) : exec (.sfmul f m) s = execSfmul f m s := rfl
theorem exec_sffma f m nc c (s : State) : exec (.sffma f m nc c) s = execSffma f m nc c s := rfl
theorem exec_sfcmp f cond n (s : State) : exec (.sfcmp f cond n) s = execSfcmp f cond n s := rfl
theorem exec_scvt f rnd sat fmt src (s : State) : exec (.scvt f rnd sat fmt src) s = execScvt f rnd sat fmt src s := rfl
theorem exec_ld g d m la sz scope pol (s : State) : exec (.ld g d m la sz scope pol) s = execLd g d m la sz scope pol s := rfl
theorem exec_st g d m sz scope pol (s : State) : exec (.st g d m sz scope pol) s = execSt g d m sz scope pol s := rfl
theorem exec_sld g d base ofs la sz scope pol (s : State) : exec (.sld g d base ofs la sz scope pol) s = execSld g d base ofs la sz scope pol s := rfl
theorem exec_sst g d base ofs sz scope pol (s : State) : exec (.sst g d base ofs sz scope pol) s = execSst g d base ofs sz scope pol s := rfl
theorem exec_ldp g d m la sz acq (s : State) : exec (.ldp g d m la sz acq) s = execLdp g d m la sz acq s := rfl
theorem exec_stp g d m sz rel (s : State) : exec (.stp g d m sz rel) s = execStp g d m sz rel s := rfl
theorem exec_pref g m lvl pol (s : State) : exec (.pref g m lvl pol) s = execPref g m lvl pol s := rfl
theorem exec_atom g op d m scope (s : State) : exec (.atom g op d m scope) s = execAtom g op d m scope s := rfl
theorem exec_atomp g op d m (s : State) : exec (.atomp g op d m) s = execAtomp g op d m s := rfl
theorem exec_fenceAcq scope (s : State) : exec (.fenceAcq scope) s = execFenceAcq scope s := rfl
theorem exec_fenceRel scope (s : State) : exec (.fenceRel scope) s = execFenceRel scope s := rfl
theorem exec_fenceAr scope (s : State) : exec (.fenceAr scope) s = execFenceAr scope s := rfl
theorem exec_tex g mode d x base ofs la pol (s : State) : exec (.tex g mode d x base ofs la pol) s = execTex g mode d x base ofs la pol s := rfl
theorem exec_tld g d x base ofs la pol (s : State) : exec (.tld g d x base ofs la pol) s = execTld g d x base ofs la pol s := rfl
theorem exec_tq g d x base ofs la pol (s : State) : exec (.tq g d x base ofs la pol) s = execTq g d x base ofs la pol s := rfl
theorem exec_cpy base pol (s : State) : exec (.cpy base pol) s = execCpy base pol s := rfl
theorem exec_cpyb base (s : State) : exec (.cpyb base) s = execCpyb base s := rfl
theorem exec_cpyw base (s : State) : exec (.cpyw base) s = execCpyw base s := rfl
theorem exec_qstat k d (s : State) : exec (.qstat k d) s = execQstat k d s := rfl
theorem exec_bari e base ofs (s : State) : exec (.bari e base ofs) s = execBari e base ofs s := rfl
theorem exec_bara c b base ofs (s : State) : exec (.bara c b base ofs) s = execBara c b base ofs s := rfl
theorem exec_barw ph base ofs (s : State) : exec (.barw ph base ofs) s = execBarw ph base ofs s := rfl
theorem exec_bart pd ph base ofs (s : State) : exec (.bart pd ph base ofs) s = execBart pd ph base ofs s := rfl
theorem exec_mmaMac m x (s : State) : exec (.mmaMac m x) s = execMmaMac m x s := rfl
theorem exec_mmaZero m (s : State) : exec (.mmaZero m) s = execMmaZero m s := rfl
theorem exec_mmaDrain m (s : State) : exec (.mmaDrain m) s = execMmaDrain m s := rfl
theorem exec_mldb m x (s : State) : exec (.mldb m x) s = execMldb m x s := rfl
theorem exec_mrel m (s : State) : exec (.mrel m) s = execMrel m s := rfl
theorem exec_mwait id (s : State) : exec (.mwait id) s = execMwait id s := rfl
theorem exec_mstat slot d (s : State) : exec (.mstat slot d) s = execMstat slot d s := rfl
theorem exec_sendv g pd cap d (s : State) : exec (.sendv g pd cap d) s = execSendv g pd cap d s := rfl
theorem exec_mkcap d reg (s : State) : exec (.mkcap d reg) s = execMkcap d reg s := rfl
theorem exec_dropcap scalar (s : State) : exec (.dropcap scalar) s = execDropcap scalar s := rfl
theorem exec_arm reg (s : State) : exec (.arm reg) s = execArm reg s := rfl
theorem exec_pemit g n d seq (s : State) : exec (.pemit g n d seq) s = execPemit g n d seq s := rfl
theorem exec_segl g move d (s : State) : exec (.segl g move d) s = execSegl g move d s := rfl
theorem exec_segq g d (s : State) : exec (.segq g d) s = execSegq g d s := rfl
theorem exec_segc g d (s : State) : exec (.segc g d) s = execSegc g d s := rfl
theorem exec_pathend eo seq tgt (s : State) : exec (.pathend eo seq tgt) s = execPathend eo seq tgt s := rfl
theorem exec_splat g n d seq (s : State) : exec (.splat g n d seq) s = execSplat g n d seq s := rfl
theorem exec_ordb (s : State) : exec .ordb s = execOrdb s := rfl
theorem exec_orde (s : State) : exec .orde s = execOrde s := rfl
theorem exec_blnd g mode d tgt (s : State) : exec (.blnd g mode d tgt) s = execBlnd g mode d tgt s := rfl
theorem exec_nop (s : State) : exec .nop s = execNop s := rfl
theorem exec_bra cond sense ofs (s : State) : exec (.bra cond sense ofs) s = execBra cond sense ofs s := rfl
theorem exec_brp p sense ofs join (s : State) : exec (.brp p sense ofs join) s = execBrp p sense ofs join s := rfl
theorem exec_join (s : State) : exec .join s = execJoin s := rfl
theorem exec_jmpi s_ (s : State) : exec (.jmpi s_) s = execJmpi s_ s := rfl
theorem exec_call ofs (s : State) : exec (.call ofs) s = execCall ofs s := rfl
theorem exec_calli s_ (s : State) : exec (.calli s_) s = execCalli s_ s := rfl
theorem exec_ret (s : State) : exec .ret s = execRet s := rfl
theorem exec_exit (s : State) : exec .exit s = execExit s := rfl
theorem exec_yield (s : State) : exec .yield s = execYield s := rfl
theorem exec_sleep n (s : State) : exec (.sleep n) s = execSleep n s := rfl
theorem exec_loop s_ cx (s : State) : exec (.loop s_ cx) s = execLoop s_ cx s := rfl
theorem exec_loopi c cx (s : State) : exec (.loopi c cx) s = execLoopi c cx s := rfl
theorem exec_lbrk p sense (s : State) : exec (.lbrk p sense) s = execLbrk p sense s := rfl
theorem exec_regn live (s : State) : exec (.regn live) s = execRegn live s := rfl
theorem exec_claim n (s : State) : exec (.claim n) s = execClaim n s := rfl
theorem exec_release n (s : State) : exec (.release n) s = execRelease n s := rfl
theorem exec_launch a d (s : State) : exec (.launch a d) s = execLaunch a d s := rfl
theorem exec_tbfull form s_ idx (s : State) : exec (.tbfull form s_ idx) s = execTbfull form s_ idx s := rfl
theorem exec_tbempty form s_ idx (s : State) : exec (.tbempty form s_ idx) s = execTbempty form s_ idx s := rfl
theorem exec_trap code (s : State) : exec (.trap code) s = execTrap code s := rfl
theorem exec_sret skip (s : State) : exec (.sret skip) s = execSret skip s := rfl
theorem exec_rdsr d idx (s : State) : exec (.rdsr d idx) s = execRdsr d idx s := rfl
theorem exec_wrsr s_ idx (s : State) : exec (.wrsr s_ idx) s = execWrsr s_ idx s := rfl
theorem exec_tlbi s_ (s : State) : exec (.tlbi s_) s = execTlbi s_ s := rfl
theorem exec_tlbiAll (s : State) : exec .tlbiAll s = execTlbiAll s := rfl
theorem exec_mapp d a t (s : State) : exec (.mapp d a t) s = execMapp d a t s := rfl
theorem exec_cflush s_ (s : State) : exec (.cflush s_) s = execCflush s_ s := rfl
theorem exec_cflushL1 (s : State) : exec .cflushL1 s = execCflushL1 s := rfl
theorem exec_cflushMem s_ (s : State) : exec (.cflushMem s_) s = execCflushMem s_ s := rfl
theorem exec_clauseFetch w x (s : State) : exec (.clauseFetch w x) s = execClauseFetch w x s := rfl
theorem exec_headerWaitEnd w x (s : State) : exec (.headerWaitEnd w x) s = execHeaderWaitEnd w x s := rfl
theorem exec_backEdge w x (s : State) : exec (.backEdge w x) s = execBackEdge w x s := rfl
theorem exec_waveRetire w (s : State) : exec (.waveRetire w) s = execWaveRetire w s := rfl
theorem exec_loadLanding w id lanes (s : State) : exec (.loadLanding w id lanes) s = execLoadLanding w id lanes s := rfl
theorem exec_storeLeavesQueue w (s : State) : exec (.storeLeavesQueue w) s = execStoreLeavesQueue w s := rfl
theorem exec_storeAck core ix (s : State) : exec (.storeAck core ix) s = execStoreAck core ix s := rfl
theorem exec_atomicPerform w id lanes (s : State) : exec (.atomicPerform w id lanes) s = execAtomicPerform w id lanes s := rfl
theorem exec_sendArrival w (s : State) : exec (.sendArrival w) s = execSendArrival w s := rfl
theorem exec_sendOutcome w (s : State) : exec (.sendOutcome w) s = execSendOutcome w s := rfl
theorem exec_sleepTimeout w x (s : State) : exec (.sleepTimeout w x) s = execSleepTimeout w x s := rfl
theorem exec_copyJobStart core id (s : State) : exec (.copyJobStart core id) s = execCopyJobStart core id s := rfl
theorem exec_copyLanding core id ofs len late (s : State) : exec (.copyLanding core id ofs len late) s = execCopyLanding core id ofs len late s := rfl
theorem exec_copyJobComplete core id (s : State) : exec (.copyJobComplete core id) s = execCopyJobComplete core id s := rfl
theorem exec_matrixCommandStart core uid (s : State) : exec (.matrixCommandStart core uid) s = execMatrixCommandStart core uid s := rfl
theorem exec_matrixCommandRetire core uid (s : State) : exec (.matrixCommandRetire core uid) s = execMatrixCommandRetire core uid s := rfl
theorem exec_matrixWatchdog core (s : State) : exec (.matrixWatchdog core) s = execMatrixWatchdog core s := rfl
theorem exec_sectionTimeout w (s : State) : exec (.sectionTimeout w) s = execSectionTimeout w s := rfl
theorem exec_preemptRequest cl (s : State) : exec (.preemptRequest cl) s = execPreemptRequest cl s := rfl
theorem exec_switchOutCapture w (s : State) : exec (.switchOutCapture w) s = execSwitchOutCapture w s := rfl
theorem exec_clusterRestore cl (s : State) : exec (.clusterRestore cl) s = execClusterRestore cl s := rfl
theorem exec_pageReply fn (s : State) : exec (.pageReply fn) s = execPageReply fn s := rfl
theorem exec_pageMigration ctx page (s : State) : exec (.pageMigration ctx page) s = execPageMigration ctx page s := rfl
theorem exec_pinExpiry ctx page (s : State) : exec (.pinExpiry ctx page) s = execPinExpiry ctx page s := rfl
theorem exec_pagePromotion ctx page (s : State) : exec (.pagePromotion ctx page) s = execPagePromotion ctx page s := rfl
theorem exec_pageHash ctx page (s : State) : exec (.pageHash ctx page) s = execPageHash ctx page s := rfl
theorem exec_daymarkMerge ctx page (s : State) : exec (.daymarkMerge ctx page) s = execDaymarkMerge ctx page s := rfl
theorem exec_taskDispatch t (s : State) : exec (.taskDispatch t) s = execTaskDispatch t s := rfl
theorem exec_lightPeriod (s : State) : exec .lightPeriod s = execLightPeriod s := rfl
theorem exec_batchSend t die (s : State) : exec (.batchSend t die) s = execBatchSend t die s := rfl
theorem exec_buoyReport die (s : State) : exec (.buoyReport die) s = execBuoyReport die s := rfl
theorem exec_blockPlacement die ix (s : State) : exec (.blockPlacement die ix) s = execBlockPlacement die ix s := rfl
theorem exec_carveChangeStart die (s : State) : exec (.carveChangeStart die) s = execCarveChangeStart die s := rfl
theorem exec_carveChange core (s : State) : exec (.carveChange core) s = execCarveChange core s := rfl
theorem exec_donationRequest die peer (s : State) : exec (.donationRequest die peer) s = execDonationRequest die peer s := rfl
theorem exec_donationAnswer die peer (s : State) : exec (.donationAnswer die peer) s = execDonationAnswer die peer s := rfl
theorem exec_gangReport gang remote (s : State) : exec (.gangReport gang remote) s = execGangReport gang remote s := rfl
theorem exec_gangStart gang (s : State) : exec (.gangStart gang) s = execGangStart gang s := rfl
theorem exec_l2Resend ix (s : State) : exec (.l2Resend ix) s = execL2Resend ix s := rfl
theorem exec_taskEnd t (s : State) : exec (.taskEnd t) s = execTaskEnd t s := rfl
theorem exec_pixelWaveLaunch t die core (s : State) : exec (.pixelWaveLaunch t die core) s = execPixelWaveLaunch t die core s := rfl
theorem exec_pathFill ix (s : State) : exec (.pathFill ix) s = execPathFill ix s := rfl
theorem exec_blendCommit ix (s : State) : exec (.blendCommit ix) s = execBlendCommit ix s := rfl
theorem exec_lanternComposite ix tx ty (s : State) : exec (.lanternComposite ix tx ty) s = execLanternComposite ix tx ty s := rfl
theorem exec_clearJob t j (s : State) : exec (.clearJob t j) s = execClearJob t j s := rfl
theorem exec_splatJob t j (s : State) : exec (.splatJob t j) s = execSplatJob t j s := rfl
theorem exec_copyClassJob t j (s : State) : exec (.copyClassJob t j) s = execCopyClassJob t j s := rfl
theorem exec_encodeJob t j (s : State) : exec (.encodeJob t j) s = execEncodeJob t j s := rfl
theorem exec_hostLaunch f (s : State) : exec (.hostLaunch f) s = execHostLaunch f s := rfl
theorem exec_frame f (s : State) : exec (.frame f) s = execFrame f s := rfl
theorem exec_seal f (s : State) : exec (.seal f) s = execSeal f s := rfl
theorem exec_fork f (s : State) : exec (.fork f) s = execFork f s := rfl
theorem exec_migrate f (s : State) : exec (.migrate f) s = execMigrate f s := rfl
theorem exec_snapshot f (s : State) : exec (.snapshot f) s = execSnapshot f s := rfl
theorem exec_snapshotHostCopy ix (s : State) : exec (.snapshotHostCopy ix) s = execSnapshotHostCopy ix s := rfl
theorem exec_restore f (s : State) : exec (.restore f) s = execRestore f s := rfl
theorem exec_s2inv f (s : State) : exec (.s2inv f) s = execS2inv f s := rfl
theorem exec_create f (s : State) : exec (.create f) s = execCreate f s := rfl
theorem exec_destroy f (s : State) : exec (.destroy f) s = execDestroy f s := rfl
theorem exec_grant f (s : State) : exec (.grant f) s = execGrant f s := rfl
theorem exec_pooladd f (s : State) : exec (.pooladd f) s = execPooladd f s := rfl
theorem exec_ringKeyRotation f secured ix (s : State) : exec (.ringKeyRotation f secured ix) s = execRingKeyRotation f secured ix s := rfl
theorem exec_getMeasurements f block (s : State) : exec (.getMeasurements f block) s = execGetMeasurements f block s := rfl
theorem exec_challenge nonce (s : State) : exec (.challenge nonce) s = execChallenge nonce s := rfl
theorem exec_lockInterfaceRequest f (s : State) : exec (.lockInterfaceRequest f) s = execLockInterfaceRequest f s := rfl
theorem exec_tdispUnlock f (s : State) : exec (.tdispUnlock f) s = execTdispUnlock f s := rfl
theorem exec_tdispError f (s : State) : exec (.tdispError f) s = execTdispError f s := rfl
theorem exec_ideKm use key (s : State) : exec (.ideKm use key) s = execIdeKm use key s := rfl
theorem exec_logKeyRequest ctx (s : State) : exec (.logKeyRequest ctx) s = execLogKeyRequest ctx s := rfl
theorem exec_lamplighterWalk f (s : State) : exec (.lamplighterWalk f) s = execLamplighterWalk f s := rfl
theorem exec_tournSwitch (s : State) : exec .tournSwitch s = execTournSwitch s := rfl
theorem exec_thermalTrip die (s : State) : exec (.thermalTrip die) s = execThermalTrip die s := rfl
theorem exec_tripClear die (s : State) : exec (.tripClear die) s = execTripClear die s := rfl
theorem exec_monitorEvent die k v (s : State) : exec (.monitorEvent die k v) s = execMonitorEvent die k v s := rfl
theorem exec_pwrreq v (s : State) : exec (.pwrreq v) s = execPwrreq v s := rfl
theorem exec_tourn v (s : State) : exec (.tourn v) s = execTourn v s := rfl
theorem exec_ttrip v (s : State) : exec (.ttrip v) s = execTtrip v s := rfl
theorem exec_cmdtail f v (s : State) : exec (.cmdtail f v) s = execCmdtail f v s := rfl
theorem exec_rpqtail f v (s : State) : exec (.rpqtail f v) s = execRpqtail f v s := rfl
theorem exec_prqhead f v (s : State) : exec (.prqhead f v) s = execPrqhead f v s := rfl
theorem exec_registerWrite f ofs width v (s : State) : exec (.registerWrite f ofs width v) s = execRegisterWrite f ofs width v s := rfl
theorem exec_hostAccess pa data len (s : State) : exec (.hostAccess pa data len) s = execHostAccess pa data len s := rfl
theorem exec_flitSend link payload kind (s : State) : exec (.flitSend link payload kind) s = execFlitSend link payload kind s := rfl
theorem exec_flitReceive link fl (s : State) : exec (.flitReceive link fl) s = execFlitReceive link fl s := rfl
theorem exec_nak link n (s : State) : exec (.nak link n) s = execNak link n s := rfl
theorem exec_resendTimeout link (s : State) : exec (.resendTimeout link) s = execResendTimeout link s := rfl
theorem exec_ptpMessage link note (s : State) : exec (.ptpMessage link note) s = execPtpMessage link note s := rfl
theorem exec_snapshotStep die (s : State) : exec (.snapshotStep die) s = execSnapshotStep die s := rfl
theorem exec_dieLost die (s : State) : exec (.dieLost die) s = execDieLost die s := rfl
theorem exec_coldReset (s : State) : exec .coldReset s = execColdReset s := rfl
theorem exec_trep w v (s : State) : exec (.trep w v) s = execTrep w v s := rfl
theorem exec_startInterfaceRequest f (s : State) : exec (.startInterfaceRequest f) s = execStartInterfaceRequest f s := rfl
theorem exec_linkTraining link terms (s : State) : exec (.linkTraining link terms) s = execLinkTraining link terms s := rfl
theorem exec_boostThrottle die mhz (s : State) : exec (.boostThrottle die mhz) s = execBoostThrottle die mhz s := rfl
theorem exec_snapshotStepComplete die (s : State) : exec (.snapshotStepComplete die) s = execSnapshotStepComplete die s := rfl
theorem exec_spdmSecuredSession both (s : State) : exec (.spdmSecuredSession both) s = execSpdmSecuredSession both s := rfl

end Sys2Proof.Machine
end

