-- ==== Sys2Proof/Laws/Control.lean ====
section
/-! SUPPORT. Laws/Control.lean: what the gate of a C instruction, a transfer, and an operation on the reconvergence list
do, for a list on chip (R33 to R38, R103, R129). -/

namespace Sys2Proof.Machine
open Sys2Proof.Says

theorem Wave.cGate_go (v : Wave) (x : SlotId) (operands : Bool) (reads writes : List Nat)
    (h : CReady v x operands reads writes) : v.cGate x true operands reads writes = .go := by
  rw [Wave.cGate, Gate.and_go, Wave.baseGate_go]
  exact ⟨⟨h.clear.window, rfl, rfl, h.operands, h.clear.region⟩, v.mbGate_go _ _ h.mail⟩
theorem Gate.go_and (a b : Gate) (h : a = .go) : a.and b = b := by rw [h]; rfl
theorem State.issue_trap (s : State) (g : State → Nat → SlotId → Wave → Gate) (e : State → Nat → SlotId → Wave → State)
    (w : Nat) (x : SlotId) (v : Wave) (c : Nat) (h : Issues s w x v) (hg : g s w x v = .trap c) :
    s.issue g e = .next (s.trapC w x c) := by
  have h1 := h.cur; have h2 := h.wave
  simp only [State.issue, h1, h2, hg]
theorem State.issue_wait (s : State) (g : State → Nat → SlotId → Wave → Gate) (e : State → Nat → SlotId → Wave → State)
    (w : Nat) (x : SlotId) (v : Wave) (c : Wait) (h : Issues s w x v) (hg : g s w x v = .wait c) :
    s.issue g e = .next (s.hold w x c) := by
  have h1 := h.cur; have h2 := h.wave
  simp only [State.issue, h1, h2, hg]

/-- Leaving an instruction by a transfer, with what the wave's other control state became. -/
theorem Wave.transfer_goes (v u : Wave) (x : SlotId) (pc : CAddr) (h : u.ctl = v.ctl) :
    Goes v (u.transfer x pc) x pc ∧ u.transfer x pc = { u with ctl := (u.transfer x pc).ctl } := by
  obtain ⟨n, hn⟩ := u.advance_cases x
  unfold Wave.transfer
  rw [hn]
  cases x <;> refine ⟨⟨?_, ?_, ?_⟩, rfl⟩ <;>
    simp [Wave.modSlot, Wave.setSlot, Wave.slot, SteppedDue, PcSlot.stepped, SlotId.other, h]

/-! ### The list on chip -/

theorem State.listGate_go (s : State) (v : Wave) (n : Nat) (h : ListHere s v n) : s.listGate v = .go := by
  rw [State.listGate, h.pages]
theorem State.issueList_go (s : State) (g : State → Nat → SlotId → Wave → Gate)
    (e : State → Nat → SlotId → Wave → State) (w : Nat) (x : SlotId) (v : Wave) (n : Nat) (h : Issues s w x v)
    (hl : ListHere s v n) (hg : g s w x v = .go) : s.issueList g e = .next (e s w x v) := by
  rw [State.issueList, State.issue_go _ _ _ _ _ _ h hg, s.listGate_go v n hl]
theorem State.readList_here (s : State) (w : Nat) (v : Wave) (hw : s.wave? w = some v) (h : v.ctl.spilled = []) :
    s.readList w = (.ok v.ctl.recon, s) := by
  simp only [State.readList, hw, h, State.readSpill, List.nil_append]
theorem fireMerges_length (live : Mask) (l : List REntry) : (fireMerges live l).length ≤ l.length :=
  List.length_filterMap_le _ _
theorem takePath_length (own : REntry → Bool) (l : List REntry) (e : REntry) (r : List REntry)
    (h : takePath own l = some (e, r)) :
    r.length ≤ l.length := by
  unfold takePath at h
  split at h
  · cases h
  · cases h
    rw [List.length_reverse]
    exact (List.length_eraseP_le).trans (by rw [List.length_reverse])
theorem fillSlot_length (x : SlotId) (a : Wave × List REntry) : (fillSlot x a).2.length ≤ a.2.length := by
  unfold fillSlot
  split
  · exact Nat.le_refl _
  · cases h : takePath (a.1.mayTake x) a.2 with
    | none => exact Nat.le_refl _
    | some p => exact takePath_length _ _ _ _ h
theorem settleWave_length (v : Wave) (l : List REntry) : (settleWave v l).2.length ≤ l.length :=
  ((fillSlot_length _ _).trans (fillSlot_length _ _)).trans (fireMerges_length _ _)
/-- Changing a list on chip spills nothing while at most 6 entries are left. -/
theorem State.modSettle_here (s : State) (w : Nat) (v : Wave) (f : Wave → List REntry → Wave × List REntry)
    (hw : s.wave? w = some v) (h : v.ctl.spilled = []) (hl : (f v v.ctl.recon).2.length ≤ 6) :
    Settled s (s.modSettle w f) w (f v v.ctl.recon).1 (f v v.ctl.recon).2 := by
  have hn : (settleWave (f v v.ctl.recon).1 (f v v.ctl.recon).2).2.length - 6 = 0 := by
    have := settleWave_length (f v v.ctl.recon).1 (f v v.ctl.recon).2
    omega
  simp only [Settled, State.modSettle, hw, s.readList_here w v hw h, State.writeList, State.wave?_setWave_self, hn,
    List.take_zero, List.drop_zero, List.map_nil, State.writeSpill, State.setWave_setWave]

end Sys2Proof.Machine
end

