-- ==== Sys2Proof/Tests/Slice0.lean ====
section
/-! SUPPORT. Tests/Slice0.lean: words the spec's encodings give, refused terms, and a state that meets the hypotheses of each
statement. -/

open Sys2Proof Sys2Proof.Machine Sys2Proof.Says

namespace Sys2Proof.Tests

set_option Elab.async false

/-- Words written out from R105, R106, R165 to R167. -/
theorem test_words_moves :
    decode .v 0x00079F00 [] = .ok (.mov ⟨false, .v 7, .v 159⟩) ∧
    decode .v 0x03A3A9B5 [0x04000900] = .ok (.sel ⟨true, .o 3, .b1, .const 5⟩ true 9) ∧
    decode .v 0x0410A000 [] = .ok (.sread false (.v 16) .timehi) ∧
    decode .v 0x061F0203 [0x00030000] = .ok (.plop false 31 2 3 3) ∧
    decode .v 0x0806C100 [] = .ok (.pset false 6 (.s 1)) ∧
    decode .v 0x0A090000 [] = .ok (.pmov false (.v 9)) ∧
    decode .v 0x0A000901 [] = .ok (.pmovPreds false (.v 9)) := by
  decide
/-- Words written out from R107, R168, R169. -/
theorem test_words_floats :
    decode .v 0x11A3A9B5 [0xB1000000] = .ok (.fadd ⟨true, .o 3, .b1, .const 5⟩ ⟨2, true, ⟨true, false, false, true⟩⟩) ∧
    decode .v 0x13A3A9B5 [0xB1000000] = .ok (.fsub ⟨true, .o 3, .b1, .const 5⟩ ⟨2, true, ⟨true, false, false, true⟩⟩) ∧
    decode .v 0x15A3A9B5 [0xB1000000] = .ok (.fmul ⟨true, .o 3, .b1, .const 5⟩ ⟨2, true, ⟨true, false, false, true⟩⟩) ∧
    decode .v 0x1605A8B6 [0x40000000] = .ok (.ffma ⟨false, .v 5, .b0, .const 6⟩ ⟨1, false, ⟨false, false, false, false⟩⟩ false) ∧
    decode .v 0x19A3A9B5 [0xB5009F00] = .ok (.fma3 ⟨true, .o 3, .b1, .const 5⟩ ⟨2, true, ⟨true, false, false, true⟩⟩ true (.v 159)) ∧
    decode .v 0x1BA3A9B5 [0x0A000000] = .ok (.fmin ⟨true, .o 3, .b1, .const 5⟩ ⟨false, true, true, false⟩) ∧
    decode .v 0x1DA3A9B5 [0x0A000000] = .ok (.fmax ⟨true, .o 3, .b1, .const 5⟩ ⟨false, true, true, false⟩) ∧
    decode .v 0x1E11FFBE [0x0A070000] = .ok (.fcmp ⟨false, 17, .s 63, .lane⟩ 7 ⟨false, true, true, false⟩) ∧
    decode .v 0x20079F00 [0xD0000000] = .ok (.frnd ⟨false, .v 7, .v 159⟩ 3 true false) ∧
    decode .v 0x22079F00 [0x02000000] = .ok (.ffract ⟨false, .v 7, .v 159⟩ false true) ∧
    decode .v 0x25A3A9B5 [0x62000000] = .ok (.fscale ⟨true, .o 3, .b1, .const 5⟩ 1 true false true) := by
  decide
/-- Words written out from R107, R170. -/
theorem test_words_specials :
    decode .v 0x28079F00 [0x12000000] = .ok (.frcp ⟨false, .v 7, .v 159⟩ true true) ∧
    decode .v 0x2A079F00 [0x12000000] = .ok (.frsq ⟨false, .v 7, .v 159⟩ true true) ∧
    decode .v 0x2C079F00 [0x12000000] = .ok (.fsqrt ⟨false, .v 7, .v 159⟩ true true) ∧
    decode .v 0x2E079F00 [0x12000000] = .ok (.fexp2 ⟨false, .v 7, .v 159⟩ true true) ∧
    decode .v 0x30079F00 [0x12000000] = .ok (.flog2 ⟨false, .v 7, .v 159⟩ true true) ∧
    decode .v 0x32079F00 [0x12000000] = .ok (.fsin ⟨false, .v 7, .v 159⟩ true true) ∧
    decode .v 0x34079F00 [0x12000000] = .ok (.fcos ⟨false, .v 7, .v 159⟩ true true) := by
  decide
/-- Words written out from R171 to R175. -/
theorem test_words_packed_1 :
    decode .v 0x41A3A9B5 [0xB1000000] = .ok (.hadd2 ⟨true, .o 3, .b1, .const 5⟩ ⟨2, true, ⟨true, false, false, true⟩⟩) ∧
    decode .v 0x43A3A9B5 [0xB1000000] = .ok (.hsub2 ⟨true, .o 3, .b1, .const 5⟩ ⟨2, true, ⟨true, false, false, true⟩⟩) ∧
    decode .v 0x45A3A9B5 [0xB1000000] = .ok (.hmul2 ⟨true, .o 3, .b1, .const 5⟩ ⟨2, true, ⟨true, false, false, true⟩⟩) ∧
    decode .v 0x4FA3A9B5 [0xB1000000] = .ok (.badd2 ⟨true, .o 3, .b1, .const 5⟩ ⟨2, true, ⟨true, false, false, true⟩⟩) ∧
    decode .v 0x51A3A9B5 [0xB1000000] = .ok (.bmul2 ⟨true, .o 3, .b1, .const 5⟩ ⟨2, true, ⟨true, false, false, true⟩⟩) ∧
    decode .v 0x47A3A9B5 [0xB5000000] = .ok (.hfma2 ⟨true, .o 3, .b1, .const 5⟩ ⟨2, true, ⟨true, false, false, true⟩⟩ true) ∧
    decode .v 0x53A3A9B5 [0xB5000000] = .ok (.bfma2 ⟨true, .o 3, .b1, .const 5⟩ ⟨2, true, ⟨true, false, false, true⟩⟩ true) ∧
    decode .v 0x49A3A9B5 [0x0A000000] = .ok (.hmin2 ⟨true, .o 3, .b1, .const 5⟩ ⟨false, true, true, false⟩) ∧
    decode .v 0x4BA3A9B5 [0x0A000000] = .ok (.hmax2 ⟨true, .o 3, .b1, .const 5⟩ ⟨false, true, true, false⟩) ∧
    decode .v 0x4DA3A9B5 [0x0A060000] = .ok (.hcmp2 ⟨true, .o 3, .b1, .const 5⟩ 6 ⟨false, true, true, false⟩) ∧
    decode .v 0x59A3A9B5 [0x2000A200] = .ok (.dot4i ⟨true, .o 3, .b1, .const 5⟩ true (.o 2)) ∧
    decode .v 0x5BA3A9B5 [0x2000A200] = .ok (.dot4u ⟨true, .o 3, .b1, .const 5⟩ true (.o 2)) := by
  decide
/-- Words written out from R171 to R175. -/
theorem test_words_packed_2 :
    decode .v 0x5DA3A9B5 [0xB5002100] = .ok (.dot2h ⟨true, .o 3, .b1, .const 5⟩ ⟨2, true, ⟨true, false, false, true⟩⟩ true (.v 33)) ∧
    decode .v 0x5FA3A9B5 [0xB5002100] = .ok (.dot2b ⟨true, .o 3, .b1, .const 5⟩ ⟨2, true, ⟨true, false, false, true⟩⟩ true (.v 33)) ∧
    decode .v 0x60079F00 [0x603C0000] = .ok (.cvt ⟨false, .v 7, .v 159⟩ 1 true .e4m3 .u32) ∧
    decode .v 0x62079F00 [0x00600000] = .ok (.qnt ⟨false, .v 7, .v 159⟩ .se5) ∧
    decode .v 0x64079F00 [0x00700000] = .ok (.dqnt ⟨false, .v 7, .v 159⟩ .se3) := by
  decide
/-- Words written out from R176 to R178. -/
theorem test_words_integers_1 :
    decode .v 0x71A3A9B5 [] = .ok (.iadd ⟨true, .o 3, .b1, .const 5⟩) ∧
    decode .v 0x73A3A9B5 [] = .ok (.isub ⟨true, .o 3, .b1, .const 5⟩) ∧
    decode .v 0x77A3A9B5 [] = .ok (.imul ⟨true, .o 3, .b1, .const 5⟩) ∧
    decode .v 0x79A3A9B5 [] = .ok (.imulh ⟨true, .o 3, .b1, .const 5⟩) ∧
    decode .v 0x7BA3A9B5 [] = .ok (.umulh ⟨true, .o 3, .b1, .const 5⟩) ∧
    decode .v 0x81A3A9B5 [] = .ok (.imin ⟨true, .o 3, .b1, .const 5⟩) ∧
    decode .v 0x83A3A9B5 [] = .ok (.imax ⟨true, .o 3, .b1, .const 5⟩) ∧
    decode .v 0x85A3A9B5 [] = .ok (.umin ⟨true, .o 3, .b1, .const 5⟩) ∧
    decode .v 0x87A3A9B5 [] = .ok (.umax ⟨true, .o 3, .b1, .const 5⟩) ∧
    decode .v 0x75A3A9B5 [0x00020000] = .ok (.iaddx ⟨true, .o 3, .b1, .const 5⟩ 2) ∧
    decode .v 0x7DA3A9B5 [0x20010000] = .ok (.imad ⟨true, .o 3, .b1, .const 5⟩ true true) ∧
    decode .v 0x7FA3A9B5 [0x00010B00] = .ok (.imad3 ⟨true, .o 3, .b1, .const 5⟩ false true (.v 11)) := by
  decide
/-- Words written out from R176 to R178. -/
theorem test_words_integers_2 :
    decode .v 0x88079F00 [] = .ok (.iabs ⟨false, .v 7, .v 159⟩) ∧
    decode .v 0x8BA3A9B5 [0x00010000] = .ok (.iadds ⟨true, .o 3, .b1, .const 5⟩ true) ∧
    decode .v 0x8DA3A9B5 [0x00000000] = .ok (.isubs ⟨true, .o 3, .b1, .const 5⟩ false) ∧
    decode .v 0x8E11FFBE [0x00050000] = .ok (.icmp ⟨false, 17, .s 63, .lane⟩ 5) ∧
    decode .v 0x9011FFBE [0x00020000] = .ok (.ucmp ⟨false, 17, .s 63, .lane⟩ 2) := by
  decide
/-- Words written out from R179 to R181, with LTAB's word as R180 has it. -/
theorem test_words_logic_1 :
    decode .v 0xA1A3A9B5 [] = .ok (.and ⟨true, .o 3, .b1, .const 5⟩) ∧
    decode .v 0xA3A3A9B5 [] = .ok (.or ⟨true, .o 3, .b1, .const 5⟩) ∧
    decode .v 0xA5A3A9B5 [] = .ok (.xor ⟨true, .o 3, .b1, .const 5⟩) ∧
    decode .v 0xA9A3A9B5 [] = .ok (.shl ⟨true, .o 3, .b1, .const 5⟩) ∧
    decode .v 0xABA3A9B5 [] = .ok (.shr ⟨true, .o 3, .b1, .const 5⟩) ∧
    decode .v 0xADA3A9B5 [] = .ok (.sar ⟨true, .o 3, .b1, .const 5⟩) ∧
    decode .v 0xAFA3A9B5 [] = .ok (.rot ⟨true, .o 3, .b1, .const 5⟩) ∧
    decode .v 0xA6090102 [0x00D80300] = .ok (.ltab ⟨false, .v 9, .v 1, .v 2⟩ 0xD8 (.v 3)) ∧
    decode .v 0xB1A3A9B5 [0x00010000] = .ok (.bfe ⟨true, .o 3, .b1, .const 5⟩ true) ∧
    decode .v 0xB20102BF [0x00000804, 0x00000300] = .ok (.bfi ⟨false, .v 1, .v 2, .imm 0x804⟩ (.v 3)) ∧
    decode .v 0xB4079F00 [] = .ok (.popc ⟨false, .v 7, .v 159⟩) ∧
    decode .v 0xB6079F00 [] = .ok (.clz ⟨false, .v 7, .v 159⟩) := by
  decide
/-- Words written out from R179 to R181, with LTAB's word as R180 has it. -/
theorem test_words_logic_2 :
    decode .v 0xB8079F00 [] = .ok (.brev ⟨false, .v 7, .v 159⟩) := by
  decide
/-- Words written out from R182 to R186, with RED's word as R186 has it. -/
theorem test_words_exchange :
    decode .v 0xC1A3A9B5 [0x00800000] = .ok (.shfl ⟨true, .o 3, .b1, .const 5⟩ 8) ∧
    decode .v 0xC3A3A9B5 [0x00700000] = .ok (.shflx ⟨true, .o 3, .b1, .const 5⟩ 7) ∧
    decode .v 0xC5A3A9B5 [0x00600000] = .ok (.shflup ⟨true, .o 3, .b1, .const 5⟩ 6) ∧
    decode .v 0xC7A3A9B5 [0x00500000] = .ok (.shfldn ⟨true, .o 3, .b1, .const 5⟩ 5) ∧
    decode .v 0xC8A11E00 [0x00050000] = .ok (.vote false (.ballot 2 (.o 1)) 30) ∧
    decode .v 0xC9051E00 [0x00020000] = .ok (.vote true (.eq 5) 30) ∧
    decode .v 0xCBA3A9B5 [] = .ok (.rdlane ⟨true, .o 3, .b1, .const 5⟩) ∧
    decode .v 0xCDA3A9B5 [] = .ok (.wrlane ⟨true, .o 3, .b1, .const 5⟩) ∧
    decode .v 0xCE080700 [0x00080000] = .ok (.red ⟨false, .v 8, .v 7⟩ 0 8 0) ∧
    decode .v 0xD0079F00 [0xC0780000] = .ok (.scan ⟨false, .v 7, .v 159⟩ 7 8 3) := by
  decide
/-- Words written out from R114, R154 to R159. -/
theorem test_words_scalars_1 :
    decode .u 0x017F8C00 [] = .ok (.smov ⟨true, .s 127, .rb⟩) ∧
    decode .u 0x02858ABF [0xFFFFFFFF, 0x04008700] = .ok (.ssel ⟨false, .k 5, .lc 2, .imm 0xFFFFFFFF⟩ true 7) ∧
    decode .u 0x04858ABF [0xFFFFFFFF, 0x00070000] = .ok (.klop ⟨false, .k 5, .lc 2, .imm 0xFFFFFFFF⟩ 7) ∧
    decode .u 0x10858ABF [0xFFFFFFFF] = .ok (.sadd ⟨false, .k 5, .lc 2, .imm 0xFFFFFFFF⟩) ∧
    decode .u 0x12858ABF [0xFFFFFFFF] = .ok (.ssub ⟨false, .k 5, .lc 2, .imm 0xFFFFFFFF⟩) ∧
    decode .u 0x14858ABF [0xFFFFFFFF] = .ok (.smul ⟨false, .k 5, .lc 2, .imm 0xFFFFFFFF⟩) ∧
    decode .u 0x30858ABF [0xFFFFFFFF] = .ok (.sand ⟨false, .k 5, .lc 2, .imm 0xFFFFFFFF⟩) ∧
    decode .u 0x32858ABF [0xFFFFFFFF] = .ok (.sor ⟨false, .k 5, .lc 2, .imm 0xFFFFFFFF⟩) ∧
    decode .u 0x34858ABF [0xFFFFFFFF] = .ok (.sxor ⟨false, .k 5, .lc 2, .imm 0xFFFFFFFF⟩) ∧
    decode .u 0x36858ABF [0xFFFFFFFF] = .ok (.sshl ⟨false, .k 5, .lc 2, .imm 0xFFFFFFFF⟩) ∧
    decode .u 0x38858ABF [0xFFFFFFFF] = .ok (.sshr ⟨false, .k 5, .lc 2, .imm 0xFFFFFFFF⟩) ∧
    decode .u 0x3A858ABF [0xFFFFFFFF] = .ok (.ssar ⟨false, .k 5, .lc 2, .imm 0xFFFFFFFF⟩) := by
  decide
/-- Words written out from R114, R154 to R159. -/
theorem test_words_scalars_2 :
    decode .u 0x3C858ABF [0xFFFFFFFF] = .ok (.srot ⟨false, .k 5, .lc 2, .imm 0xFFFFFFFF⟩) ∧
    decode .u 0x16858ABF [0xFFFFFFFF, 0x00010000] = .ok (.smulh ⟨false, .k 5, .lc 2, .imm 0xFFFFFFFF⟩ true) ∧
    decode .u 0x1A858ABF [0xFFFFFFFF, 0x00010000] = .ok (.smin ⟨false, .k 5, .lc 2, .imm 0xFFFFFFFF⟩ true) ∧
    decode .u 0x1C858ABF [0xFFFFFFFF, 0x00010000] = .ok (.smax ⟨false, .k 5, .lc 2, .imm 0xFFFFFFFF⟩ true) ∧
    decode .u 0x3E858ABF [0xFFFFFFFF, 0x00010000] = .ok (.sbfe ⟨false, .k 5, .lc 2, .imm 0xFFFFFFFF⟩ true) ∧
    decode .u 0x18858ABF [0xFFFFFFFF, 0x00009C00] = .ok (.smad ⟨false, .k 5, .lc 2, .imm 0xFFFFFFFF⟩ (.special 12)) ∧
    decode .u 0x1E858ABF [0xFFFFFFFF, 0x00090000] = .ok (.scmp ⟨false, .k 5, .lc 2, .imm 0xFFFFFFFF⟩ 9) ∧
    decode .u 0x20858ABF [0xFFFFFFFF, 0x000F0000] = .ok (.slea ⟨false, .k 5, .lc 2, .imm 0xFFFFFFFF⟩ 15) ∧
    decode .u 0x40858ABF [0xFFFFFFFF, 0x00000100] = .ok (.sbfi ⟨false, .k 5, .lc 2, .imm 0xFFFFFFFF⟩ (.s 1)) ∧
    decode .u 0x437F8C00 [] = .ok (.spopc ⟨true, .s 127, .rb⟩) ∧
    decode .u 0x457F8C00 [] = .ok (.sclz ⟨true, .s 127, .rb⟩) ∧
    decode .u 0x50858ABF [0xFFFFFFFF, 0xB1000000] = .ok (.sfadd ⟨false, .k 5, .lc 2, .imm 0xFFFFFFFF⟩ ⟨2, true, ⟨true, false, false, true⟩⟩) := by
  decide
/-- Words written out from R114, R154 to R159. -/
theorem test_words_scalars_3 :
    decode .u 0x52858ABF [0xFFFFFFFF, 0xB1000000] = .ok (.sfmul ⟨false, .k 5, .lc 2, .imm 0xFFFFFFFF⟩ ⟨2, true, ⟨true, false, false, true⟩⟩) ∧
    decode .u 0x54858ABF [0xFFFFFFFF, 0xB500BD00] = .ok (.sffma ⟨false, .k 5, .lc 2, .imm 0xFFFFFFFF⟩ ⟨2, true, ⟨true, false, false, true⟩⟩ true (.const 13)) ∧
    decode .u 0x56858ABF [0xFFFFFFFF, 0x0A060000] = .ok (.sfcmp ⟨false, .k 5, .lc 2, .imm 0xFFFFFFFF⟩ 6 ⟨false, true, true, false⟩) ∧
    decode .u 0x597F8C00 [0x60B10000] = .ok (.scvt ⟨true, .s 127, .rb⟩ 1 true .i32 .fp16) := by
  decide
/-- Words written out from R109, R110, R188 to R217, with the words of LD and CPY as the spec has them. -/
theorem test_words_accesses_1 :
    decode .m 0x00080732 [0x08800040] = .ok (.ld false (.v 8) ⟨4, .v 7, 2, 0x40⟩ 3 2 0 0) ∧
    decode .m 0x030A0703 [0x08AC0040] = .ok (.st true (.v 10) ⟨4, .v 7, 2, 0x40⟩ 3 5 4) ∧
    decode .m 0x047EB0F4 [0xFE13FFF8] = .ok (.sld false 126 127 0xFFF8 15 4 2 3) ∧
    decode .m 0x0606B003 [0x08000008] = .ok (.sst false 6 4 8 3 0 0) ∧
    decode .m 0x08A20716 [0x08880040] = .ok (.ldp false (.o 2) ⟨4, .v 7, 2, 0x40⟩ 1 6 true) ∧
    decode .m 0x0AC30700 [0x08800040] = .ok (.stp false (.s 3) ⟨4, .v 7, 2, 0x40⟩ 0 false) ∧
    decode .m 0x0C000701 [0x08820040] = .ok (.pref false ⟨4, .v 7, 2, 0x40⟩ 1 2) ∧
    decode .m 0x10050720 [0x08980040] = .ok (.atom false 0 (.ret (.v 5) 2) ⟨4, .v 7, 2, 0x40⟩ 3) ∧
    decode .m 0x13B1070F [0x08800040] = .ok (.atomp true 15 (.const 1) ⟨4, .v 7, 2, 0x40⟩) ∧
    decode .m 0x1400B000 [0x00180000] = .ok (.fenceAcq 3) ∧
    decode .m 0x1400B001 [0x00200000] = .ok (.fenceRel 4) ∧
    decode .m 0x1400B002 [0x00280000] = .ok (.fenceAr 5) := by
  decide
/-- Words written out from R109, R110, R188 to R217, with the words of LD and CPY as the spec has them. -/
theorem test_words_accesses_2 :
    decode .m 0x20140412 [0x10010040] = .ok (.tex false 2 20 4 8 0x40 1 1) ∧
    decode .m 0x22140400 [0x10000000] = .ok (.tld false 20 4 8 0 0 0) ∧
    decode .m 0x2414B000 [0x10000000] = .ok (.tq false 20 none 8 0 0 0) ∧
    decode .m 0x3000B000 [0x20000000] = .ok (.cpy 16 0) ∧
    decode .m 0x3200B000 [0x22000000] = .ok (.cpyb 17) ∧
    decode .m 0x3400B000 [0x24000000] = .ok (.cpyw 18) ∧
    decode .m 0x3603B002 [0x28000000] = .ok (.qstat (.batch 20) 3) ∧
    decode .m 0x40BFB000 [0x00000180, 0x04000040] = .ok (.bari (.imm 384) 2 0x40) ∧
    decode .m 0x42B10400 [0x04000040] = .ok (.bara (.const 1) (.v 4) 2 0x40) ∧
    decode .m 0x4400BE00 [0x04000040] = .ok (.barw .lane 2 0x40) ∧
    decode .m 0x4604B000 [0x04000040] = .ok (.bart 4 (.const 0) 2 0x40) := by
  decide
/-- Words written out from R218 to R232, with the words of MMA and SENDV as the spec has them. -/
theorem test_words_commands_1 :
    decode .m 0x5000CA00 [0x0504FF40] = .ok (.mmaMac ⟨5, 4, 255, 1, 0⟩ 10) ∧
    decode .m 0x5000B001 [0x06FFFF03] = .ok (.mmaZero ⟨6, 255, 255, 0, 3⟩) ∧
    decode .m 0x5000B002 [0x0705FF80] = .ok (.mmaDrain ⟨7, 5, 255, 2, 0⟩) ∧
    decode .m 0x5200CC00 [0x04FFFF00] = .ok (.mldb ⟨4, 255, 255, 0, 0⟩ 12) ∧
    decode .m 0x5400B000 [0x0807FF80] = .ok (.mrel ⟨8, 7, 255, 2, 0⟩) ∧
    decode .m 0x5600B000 [0x09000000] = .ok (.mwait 9) ∧
    decode .m 0x5803B001 [0x05000000] = .ok (.mstat (some 5) 3) ∧
    decode .m 0x600CB000 [0x28600000] = .ok (.sendv false 6 20 (.v 12)) ∧
    decode .m 0x6200B000 [0x28000029] = .ok (.mkcap 20 41) ∧
    decode .m 0x6400B001 [0x00000000] = .ok (.dropcap true) ∧
    decode .m 0x6600B000 [0x00000100] = .ok (.arm 0x100) ∧
    decode .m 0x7103B006 [0x10000000] = .ok (.pemit true 6 (.v 3) 8) := by
  decide
/-- Words written out from R218 to R232, with the words of MMA and SENDV as the spec has them. -/
theorem test_words_commands_2 :
    decode .m 0x7228B001 [0x00000000] = .ok (.segl false true 40) ∧
    decode .m 0x7428B000 [0x00000000] = .ok (.segq false 40) ∧
    decode .m 0x7728B000 [0x00000000] = .ok (.segc true 40) ∧
    decode .m 0x7800B001 [0x10240000] = .ok (.pathend true 8 9) ∧
    decode .m 0x7A03B004 [0x10000000] = .ok (.splat false 4 (.v 3) 8) ∧
    decode .m 0x7C00B000 [0x00000000] = .ok (.ordb) ∧
    decode .m 0x7E00B000 [0x00000000] = .ok (.orde) ∧
    decode .m 0x8014B001 [0x12000000] = .ok (.blnd false 1 20 9) := by
  decide
/-- Words written out from R111, R112, R129 to R153, with the words of R159's loop and of the march. -/
theorem test_words_control_1 :
    decode .c 0x00000000 [] = .ok (.nop) ∧
    decode .c 0x03F7FFFF [] = .ok (.bra .always false 0x7FFFF) ∧
    decode .c 0x04580003 [0x00FFFFFE] = .ok (.brp 5 true 3 0xFFFFFE) ∧
    decode .c 0x06000000 [] = .ok (.join) ∧
    decode .c 0x08180000 [] = .ok (.jmpi 6) ∧
    decode .c 0x0A040000 [] = .ok (.call 0x40000) ∧
    decode .c 0x0DFC0000 [] = .ok (.calli 127) ∧
    decode .c 0x0E000000 [] = .ok (.ret) ∧
    decode .c 0x10000000 [] = .ok (.exit) ∧
    decode .c 0x12000000 [] = .ok (.yield) ∧
    decode .c 0x140FFFFF [] = .ok (.sleep 0xFFFFF) ∧
    decode .c 0x20180000 [0x8E000009] = .ok (.loop 6 ⟨8, 7, 9⟩) := by
  decide
/-- Words written out from R111, R112, R129 to R153, with the words of R159's loop and of the march. -/
theorem test_words_control_2 :
    decode .c 0x22000064 [0x00000003] = .ok (.loopi 100 ⟨0, 0, 3⟩) ∧
    decode .c 0x25F80000 [] = .ok (.lbrk 31 true) ∧
    decode .c 0x26000000 [0x00080001] = .ok (.regn 0x80001) ∧
    decode .c 0x30000010 [] = .ok (.claim 16) ∧
    decode .c 0x32000018 [] = .ok (.release 24) ∧
    decode .c 0x34183800 [] = .ok (.launch 6 7) ∧
    decode .c 0x361A0000 [] = .ok (.tbfull true 6 0) ∧
    decode .c 0x38000005 [] = .ok (.tbempty false 0 5) ∧
    decode .c 0x4000FFFF [] = .ok (.trap 0xFFFF) ∧
    decode .c 0x42000001 [] = .ok (.sret true) ∧
    decode .c 0x44602080 [] = .ok (.rdsr 24 0x82) ∧
    decode .c 0x466C20C0 [] = .ok (.wrsr 27 0x83) := by
  decide
/-- Words written out from R111, R112, R129 to R153, with the words of R159's loop and of the march. -/
theorem test_words_control_3 :
    decode .c 0x48180000 [] = .ok (.tlbi 6) ∧
    decode .c 0x48000001 [] = .ok (.tlbiAll) ∧
    decode .c 0x4A0C2050 [] = .ok (.mapp 3 4 5) ∧
    decode .c 0x4C180000 [] = .ok (.cflush 6) ∧
    decode .c 0x4C000001 [] = .ok (.cflushL1) ∧
    decode .c 0x4C180002 [] = .ok (.cflushMem 6) := by
  decide
/-! ### States the witnesses stand in -/

/-- A wave at the one instruction of a clause, in a block of context 0, and the state in which it is under issue. -/
def wv : Wave := testWave (testClause .v [0])
def cx : Ctx := { fn := 0, home := 0, skey := 1, dkey := 0, dom := none, ekey := some 0 }
def st (v : Wave) : State :=
  { State.reset with
    agenda := [], waves := [(0, v)], blocks := [(0, testBlock)], ctxs := [(0, cx)], cur := some (0, .A)
    trust := { State.reset.trust with boot_step := 6 } }
/-- The wave in supervisor mode, with s0 to s3 and s8 as given, and with one active lane. -/
def wSup : Wave := wv.setSlot .A { wv.slot .A with sup := true }
def wS (l : List DWord) : Wave := { wv with regs := { wv.regs with s := (List.range l.length).zip l } }
def wOne (v : Wave) (t : Nat) : Wave := v.setSlot .A { v.slot .A with mask := oneLane t }
theorem issues (v : Wave) : Issues (st v) 0 .A v := ⟨rfl, rfl⟩
theorem mailFree {v : Wave} (h : v.mb = []) (r w : List Nat) : MailFree v r w := by
  constructor <;> intro c _ <;> simp [Wave.mbState, h]
/-- What the witnesses' waves share: no window is shut, no region is pending, no mailbox register holds a value. -/
def idle (v : Wave) : Prop := v.windowShut .A = false ∧ (v.slot .A).pend = false ∧ v.ctl.b.phase = .empty ∧ v.mb = []
theorem clear {v : Wave} (h : idle v) : Clear v .A := ⟨h.1, by simp [h.2.1]⟩
/-- A V instruction without queues may execute in such a wave. -/
theorem vReady {v : Wave} {op : VOp} (h : idle v) (ho : v.vOperandsOk .A op = true)
    (hq : (op.pushes .qa || op.pushes .qg || op.pushes .ql || op.pops .qz || op.pops .qp || op.pushes .qn) = false) :
    VReady (st v) v .A op := by
  simp only [Bool.or_eq_false_iff] at hq
  refine ⟨clear h, ho, fun _ => ?_, fun _ => mailFree h.2.2.2 _ _, fun _ => ?_⟩
  · simp [Wave.slot, SlotId.other, h.2.2.1]
  · constructor <;> simp_all
theorem uReady {v : Wave} {g d srcs} (h : idle v) (ho : (srcs.all v.uSrcOk && v.uDstOk d) = true) : UReady v .A g d srcs :=
  ⟨clear h, ho, fun _ => mailFree h.2.2.2 _ _⟩
theorem mReady {v : Wave} {g o} (h : idle v) (ho : o = true) (r w) : MReady v .A g o r w :=
  ⟨clear h, ho, fun _ => ⟨mailFree h.2.2.2 _ _, fun c _ => by simp [Wave.mbState, h.2.2.2]⟩⟩
theorem cReady {v : Wave} {o} (h : idle v) (ho : o = true) (r w) : CReady v .A o r w := ⟨clear h, ho, mailFree h.2.2.2 _ _⟩
theorem bits32 (p : Nat → Bool) : ∃ f : Word, ∀ i, i < 32 → f.getLsbD i = p i :=
  ⟨BitVec.ofFnLE fun i => p i, fun i h => by simp [h]⟩
theorem bits64 (p : Nat → Bool) : ∃ f : DWord, ∀ i, i < 64 → f.getLsbD i = p i :=
  ⟨BitVec.ofFnLE fun i => p i, fun i h => by simp [h]⟩
theorem idle_wv : idle wv := by unfold idle; decide +kernel
theorem list_here {s : State} {v : Wave} {n} (h : v.ctl.spilled = [] ∧ v.ctl.recon.length ≤ n ∧ s.listMiss v = none) :
    ListHere s v n := ⟨h.1, h.2.1, h.2.2⟩

/-! ### What meets the hypotheses of the statements (Certificates/Slice0/Obligations) -/

theorem test_meets_MovesAndSelectors :
    Issues (st wv) 0 .A wv ∧ VReady (st wv) wv .A (op1 ⟨false, .v 159, .v 0⟩) ∧ wv.active .A false ≠ 0 ∧
    VReady (st wv) wv .A (op1 ⟨true, .o 7, .lane⟩) ∧ wv.active .A true = 0 ∧
    VReady (st wv) wv .A { g := false, srcs := [.s 63], tgt := .preds } ∧
    (∃ f : Wave → Nat → Word, ∀ (v : Wave) t i, i < 32 → (f v t).getLsbD i = mbit (v.preg i) t) := by
  refine ⟨issues _, vReady idle_wv (by decide +kernel) (by decide), by decide +kernel,
    vReady idle_wv (by decide +kernel) (by decide), by decide +kernel, vReady idle_wv (by decide +kernel) (by decide),
    ⟨fun v t => (bits32 fun i => mbit (v.preg i) t).choose, fun v t => (bits32 _).choose_spec⟩⟩
theorem test_meets_IntegersAndLogic :
    Issues (st wv) 0 .A wv ∧ VReady (st wv) wv .A (op2 ⟨false, .v 159, .imm 0xFFFFFFFF, .s 63⟩) ∧
    VReady (st wv) wv .A (opD ⟨false, .v 0, .v 0, .v 0⟩) ∧ VReady (st wv) wv .A (op3 ⟨false, .o 0, .lane, .lane⟩ (.v 159)) ∧
    VReady (st wv) wv .A (opP ⟨true, 31, .const 13, .o 7⟩) ∧
    (∀ tab : BitVec 8, ∃ f : Word → Word → Word → Word, ∀ a b c i, i < 32 → (f a b c).getLsbD i =
      tab.getLsbD ((a.getLsbD i).toNat + 2 * (b.getLsbD i).toNat + 4 * (c.getLsbD i).toNat)) ∧
    ∃ f : Word → Word → Word → Word, ∀ a b c i, i < 32 → (f a b c).getLsbD i =
      if c.toNat % 32 ≤ i ∧ i < c.toNat % 32 + fieldWidth c then b.getLsbD (i - c.toNat % 32) else a.getLsbD i := by
  refine ⟨issues _, vReady idle_wv (by decide +kernel) (by decide), vReady idle_wv (by decide +kernel) (by decide),
    vReady idle_wv (by decide +kernel) (by decide), vReady idle_wv (by decide +kernel) (by decide),
    fun tab => ⟨fun a b c => (bits32 _).choose, fun a b c => (bits32 _).choose_spec⟩,
    ⟨fun a b c => (bits32 _).choose, fun a b c => (bits32 _).choose_spec⟩⟩
theorem test_meets_FloatArithmetic :
    Issues (st wv) 0 .A wv ∧ VReady (st wv) wv .A (op2 ⟨false, .v 159, .v 0, .const 7⟩) ∧
    VReady (st wv) wv .A (opP ⟨false, 0, .const 8, .v 1⟩) ∧ VReady (st wv) wv .A (op1 ⟨true, .v 1, .v 1⟩) :=
  ⟨issues _, vReady idle_wv (by decide +kernel) (by decide), vReady idle_wv (by decide +kernel) (by decide),
    vReady idle_wv (by decide +kernel) (by decide)⟩
theorem test_meets_PackedAndConversions :
    Issues (st wv) 0 .A wv ∧ VReady (st wv) wv .A (op3 ⟨false, .v 2, .v 0, .s 0⟩ (.o 1)) ∧
    VReady (st wv) wv .A (opD ⟨false, .o 1, .v 0, .v 1⟩) ∧ VReady (st wv) wv .A (op1 ⟨false, .v 0, .imm 0⟩) :=
  ⟨issues _, vReady idle_wv (by decide +kernel) (by decide), vReady idle_wv (by decide +kernel) (by decide),
    vReady idle_wv (by decide +kernel) (by decide)⟩
theorem test_meets_ShufflesAndLaneMoves :
    Issues (st wv) 0 .A wv ∧ VReady (st wv) wv .A (collected (op2 ⟨false, .v 0, .v 1, .imm 95⟩)) ∧
    wv.active .A false ≠ 0 ∧ (namedBy (st wv) wv .A ⟨false, .v 0, .v 1, .imm 95⟩).toNat = 95 ∧
    VReady (st wv) wv .A (collected (op2 ⟨false, .v 0, .v 1, .imm 96⟩)) ∧
    (namedBy (st wv) wv .A ⟨false, .v 0, .v 1, .imm 96⟩).toNat = 96 :=
  ⟨issues _, vReady idle_wv (by decide +kernel) (by decide), by decide +kernel, by decide +kernel,
    vReady idle_wv (by decide +kernel) (by decide), by decide +kernel⟩
theorem test_meets_VotesAndReductions :
    Issues (st wv) 0 .A wv ∧ VReady (st wv) wv .A (collected { g := false, srcs := [], tgt := .pred 31 }) ∧
    VReady (st wv) wv .A (collected (op1 ⟨false, .v 8, .v 7⟩)) ∧
    (∀ n : Fin 3, ∃ f : Mask → Word, ∀ m i, i < 32 → (f m).getLsbD i = mbit m (32 * n.val + i)) :=
  ⟨issues _, vReady idle_wv (by decide +kernel) (by decide), vReady idle_wv (by decide +kernel) (by decide),
    fun _ => ⟨fun _ => (bits32 _).choose, fun _ => (bits32 _).choose_spec⟩⟩
theorem test_meets_ScalarArithmetic :
    Issues (st wv) 0 .A wv ∧ UReady wv .A false (.s 127) [.s 0, .imm 0xFFFFFFFF] ∧ wv.uActive .A false = true ∧
    UReady wv .A true (.k 7) [.lc 3, .rb, .k 0] ∧ wv.uActive .A true = false ∧
    ∃ f : DWord → DWord → DWord → DWord, ∀ a b c i, i < 64 → (f a b c).getLsbD i =
      if c.toNat % 64 ≤ i ∧ i < c.toNat % 64 + scalarWidth c then b.getLsbD (i - c.toNat % 64) else a.getLsbD i :=
  ⟨issues _, uReady idle_wv (by decide +kernel), by decide +kernel, uReady idle_wv (by decide +kernel), by decide +kernel,
    ⟨fun a b c => (bits64 _).choose, fun a b c => (bits64 _).choose_spec⟩⟩
/-- A state with page tables: page 1 of context 0, at 0x1000, is mapped readable and writable, through intermediate page 2,
to frame 0x3000, whose first bytes are a texture descriptor. -/
def mst (v : Wave) : State :=
  { st v with
    mem := pokeAll [] (cellsAt 0x1000 (bytesOfNat 8 0x1001 ++ bytesOfNat 8 0x000100000000201D ++ bytesOfNat 8 0x000100000000301D) ++
      cellsAt 0x2000 (bytesOfNat 8 0x1001 ++ bytesOfNat 8 0x2011) ++ cellsAt 0x3000 (bytesOfNat 8 0x1040))
    regs := [(regKey 0 (oCtx 0 0), 0x1000), (regKey 0 (oCtx 0 8), 0x1000)]
    vm := { State.reset.vm with grants := [(0, 0)] } }
theorem issuesM (v : Wave) : Issues (mst v) 0 .A v := ⟨rfl, rfl⟩
/-- One active lane, s0 to s3 at the mapped page. -/
def wAt : Wave := wOne (wS [0x1000, 0x1000, 0x1000, 0x1000]) 95
theorem idle_wAt : idle wAt := by unfold idle; decide +kernel
/-- An address in the mapped page, and one in the pad. -/
def here : MAddr := ⟨0, .const 0, 0, 8⟩

/-- Loads: LD and SLD in memory, LDP in the pad; an instruction without an active lane. -/
theorem test_meets_AccessesIssue_loads :
    Issues (mst wAt) 0 .A wAt ∧ wAt.active .A true = 0 ∧ wAt.active .A false ≠ 0 ∧ wAt.mem.nLd < 63 ∧
    MReady wAt .A false (wAt.addrOk .A here && wAt.mDstOk .A (.v 156) (szRegs 4)) (wAt.addrReads .A here)
      (wAt.mWrites .A (.v 156) (szRegs 4)) ∧
    (reached (mst wAt) wAt .A (.memory .rd true) 4 (wAt.mAddrs .A here (wAt.active .A false))).1.whole = true ∧
    MReady wAt .A false (wAt.sHeld 0 && wAt.sRegsOk 126 4) [regS 0] ((sRegs 126 4).map regS) ∧
    (reached (mst wAt) wAt .A (.memory .rd true) 8
      [((lowest (wAt.active .A false)).getD 0, wAt.sreg 0 + (8 : BitVec 16).signExtend 64)]).1.whole = true ∧
    (reached (mst wAt) wAt .A (.pad false) 4 (wAt.mAddrs .A here (wAt.active .A false))).1.whole = true := by
  refine ⟨issuesM _, by decide +kernel, by decide +kernel, by decide +kernel, mReady idle_wAt (by decide +kernel) _ _,
    by decide +kernel, mReady idle_wAt (by decide +kernel) _ _, by decide +kernel, by decide +kernel⟩
/-- Stores and atomics, whose waits are over; no page of the context is shared. -/
theorem test_meets_AccessesIssue_stores :
    MReady wAt .A false (wAt.addrOk .A here && wAt.mSrcOk .A (.v 158) (szRegs 3))
      (wAt.addrReads .A here ++ wAt.mSrcReads .A (.v 158) (szRegs 3)) [] ∧
    wAt.mem.nSt < 63 ∧ wAt.mem.nUa < 63 ∧ (mst wAt).released wAt .A 5 = true ∧ wAt.padDrained = true ∧
    (reached (mst wAt) wAt .A (.memory .wr true) 8 (wAt.mAddrs .A here (wAt.active .A false))).1.whole = true ∧
    (reached (mst wAt) wAt .A (.pad true) 8 (wAt.mAddrs .A here (wAt.active .A false))).1.whole = true ∧
    MReady wAt .A false (wAt.addrOk .A here && wAt.atomDOk .A 12 (.ret (.v 156) 15)) (wAt.addrReads .A here ++
      wAt.atomReads .A 12 (.ret (.v 156) 15)) (wAt.atomWrites .A 12 (.ret (.v 156) 15)) ∧
    (reached (mst wAt) wAt .A (.atomic true) (atomBytes 12) (wAt.mAddrs .A here (wAt.active .A false))).1.whole = true ∧
    Unshared (st wAt) 0 := by
  refine ⟨mReady idle_wAt (by decide +kernel) _ _, by decide +kernel, by decide +kernel, by decide +kernel, by decide +kernel,
    by decide +kernel, by decide +kernel, mReady idle_wAt (by decide +kernel) _ _, by decide +kernel, ?_⟩
  intro ia e lvl pa h
  have h0 (k n : Nat) : (st wAt).peekN k n = 0 := by
    unfold State.peekN
    induction n generalizing k with
    | zero => rfl
    | succ n ih =>
      have hm : memByte (st wAt).mem k = 0 := rfl
      simp [State.peek, natOfBytes, ih, hm]
  simp [State.s2leaf, State.s2walk, h0, eBit] at h
/-- A texture instruction at a legal descriptor in the mapped page. -/
theorem test_meets_AccessesIssue_textures :
    let c := (mst wAt).access (wAt.who .A) .rd false ((lowest (wAt.active .A false)).getD 0) (wAt.sreg 0 + 0) 64
    MReady wAt .A false (wAt.sHeld 0 && decide (156 % 4 = 0) && wAt.groupOk .A 156 4 && true) [regS 0]
      ((wAt.groupRegs .A 156 4).map regV) ∧ wAt.noAcquire = true ∧
    ∃ a, c.1 = .ok a ∧ c.2.atomicAhead wAt wAt.mem.nextId a.keys = false ∧
      let b := c.2.loadBytes wAt.core wAt.mem.queue a true true
      texLegal b.1 = true ∧
      (({ b.2 with fresh := b.2.fresh + 1 } : State).texLanes wAt (wAt.who .A) .tq b.1 [[]] (lanesOf (wAt.active .A false)) []
        .none).1.1.whole = true := by
  refine ⟨mReady idle_wAt (by decide +kernel) _ _, by decide +kernel, ⟨_, rfl, ?_⟩⟩
  decide +kernel
theorem test_meets_PrefetchAndFences :
    MReady wAt .A false (wAt.addrOk .A here) (wAt.addrReads .A here) [] ∧ Clear wAt .A ∧ wAt.mem.nLd = 0 ∧
    (st wAt).released wAt .A 5 = true ∧
    (let v : Wave := { wv with mem := { wv.mem with nLd := 1 } };
      Issues (st v) 0 .A v ∧ Clear v .A ∧ v.mem.nLd ≠ 0) ∧
    let v : Wave := { wv with mem := { wv.mem with nSt := 1 } };
    Issues (st v) 0 .A v ∧ Clear v .A ∧ (st v).released v .A 1 = false :=
  ⟨mReady idle_wAt (by decide +kernel) _ _, clear idle_wAt, rfl, by decide +kernel,
    ⟨issues _, clear (by unfold idle; decide +kernel), by decide⟩, issues _, clear (by unfold idle; decide +kernel), by decide +kernel⟩

/-- A copy from memory to the pad of one unit at its least and at its greatest length. -/
def wCpy (len : Nat) : Wave := wS [0x1000, 0x40, BitVec.ofNat 64 (len + 2 ^ 36), 0]
theorem test_meets_CopyEngine :
    (∀ len ∈ [4, 65472], let v := wCpy len
      let a : CpyArgs := ⟨v.sreg 0, v.sreg 1, v.sreg 2, v.sreg 3⟩;
      a.legal = true ∧ a.ssp = 0 ∧ a.dsp = 1 ∧ (st v).spaceOf 0 testBlock a.ssp (a.f 41 40) (a.f 49 44) = some 0 ∧
      (st v).spaceOf 0 testBlock a.dsp (a.f 43 42) (a.f 55 50) = some 0 ∧ (st v).rangeIn 0 a.ssp 0 a.src a.len = true ∧
      (st v).rangeIn 0 a.dsp 0 a.dst a.len = true ∧ (st v).jobsOf 0 v < 64) ∧
    (let v := wCpy 4;
      MReady v .A false (decide ((0 : BitVec 7).toNat % 4 = 0) && (List.range 4).all fun i => v.sHeld ((0 : BitVec 7).toNat + i))
        ((List.range 4).map fun i => regS ((0 : BitVec 7).toNat + i)) [] ∧ mget (st v).blocks 0 = some testBlock) ∧
    (MReady wv .A false (wv.sHeld 127) [] [regS 127] ∧ MReady wv .A false (wv.sHeld 127) [regS 127] [] ∧
      wv.copy.counter ≠ 0xFFFFFFFF ∧ (wv.sreg 127).toNat % 2 ^ 32 ≤ wv.copy.counter.toNat) ∧
    (let v : Wave := { wS [1] with copy := { counter := 1, batches := [⟨1, [0], 1, 0, 0, false, []⟩] } };
      (v.sreg 0).toNat % 2 ^ 32 ≤ v.copy.counter.toNat ∧ ∃ b ∈ v.copy.batches, b.n ≤ 1 ∧ b.left ≠ 0) ∧
    (wv.copy.counter.toNat < ((wS [1]).sreg 0).toNat % 2 ^ 32) ∧
    MReady wv .A false (wv.qstatOk .feed && wv.groupOk .A 159 (qstatRegs .feed)) (qstatReads .feed)
      ((wv.groupRegs .A 159 (qstatRegs .feed)).map regV) ∧ ((st wv).qstatWords wv .feed).isSome = true := by
  refine ⟨by decide +kernel, ⟨mReady (by unfold idle; decide +kernel) (by decide +kernel) _ _, rfl⟩,
    ⟨mReady idle_wv (by decide +kernel) _ _, mReady idle_wv (by decide +kernel) _ _, by decide +kernel, by decide +kernel⟩,
    ⟨by decide +kernel, by decide +kernel⟩, by decide +kernel, mReady idle_wv (by decide +kernel) _ _, by decide +kernel⟩

/-- The pad holds a valid object at offset 0 that waits for two arrivals and has one. -/
def barBlock (valid : List Nat) : Block := { testBlock with valid := valid }
def barSt (v : Wave) (valid : List Nat) (arr : Nat) : State :=
  { st v with
    blocks := [(0, barBlock valid)], mem := pokeAll [] (cellsAt (padKey 0 0) (Bar.bytes ⟨0, 2, arr, false⟩)) }
theorem test_meets_Barriers :
    (∀ r, MReady wv .A false (wv.sHeld 0 && wv.mOpdOk .A (.imm 65535) && wv.mOpdOk .A (.imm 0)) r []) ∧
    wv.elected .A (.imm 1) = 1 ∧ wv.elected .A (.imm 65535) = 65535 ∧ (wv.sreg 0 + (0 : BitVec 16).signExtend 64).toNat = 0 ∧
    (barBlock []).isValid 0 = false ∧ (barBlock [0]).isValid 0 = true ∧ mget (barSt wv [0] 0).blocks 0 = some (barBlock [0]) ∧
    (barSt wv [0] 0).barAt (barBlock [0]) 0 = ⟨0, 2, 0, false⟩ ∧ (barSt wv [0] 1).barAt (barBlock [0]) 0 = ⟨0, 2, 1, false⟩ ∧
    -- arrivals that do not flip, that flip, and one too many; a phase that differs and one that does not
    0 + wv.elected .A (.const 1) < 2 ∧ 1 + wv.elected .A (.const 1) = 2 ∧ 2 < 0 + wv.elected .A (.imm 3) ∧
    wv.elected .A (.const 1) % 2 = 1 ∧ wv.elected .A (.const 0) % 2 = 0 ∧ (wv.slot .A).wait = none ∧ wv.mem.nSt = 0 ∧
    -- the faults
    ((wS [8]).sreg 0 + (0 : BitVec 16).signExtend 64).toNat % 16 ≠ 0 ∧
    ((wS [65536]).sreg 0 + (0 : BitVec 16).signExtend 64).toNat % 16 = 0 ∧
    testBlock.padLen < ((wS [65536]).sreg 0 + (0 : BitVec 16).signExtend 64).toNat + 16 ∧
    ((wS [65520]).sreg 0 + (0 : BitVec 16).signExtend 64).toNat + 16 ≤ testBlock.padLen ∧
    65535 < wv.elected .A (.imm 65536) ∧ wv.elected .A (.const 0) = 0 := by
  refine ⟨fun r => mReady idle_wv (by decide +kernel) _ _, ?_⟩
  decide +kernel

def mm (id : BitVec 8) : MMod := ⟨id, 255, 255, 0, 0⟩
/-- A command of wave 0 stands in its core's sequencer. -/
def aCmd (id : BitVec 8) (k : MatKind) : MatCmd :=
  ⟨0, 0, id, [], k, 0, 0, 255, none, false, false, [], 11, 0, none⟩
def cmdSt (v : Wave) (l : List MatCmd) : State := { st v with cores := [(0, { cmds := l, nextUid := 9 })] }
/-- The scalar word of a .mac with its descriptor at pad offset 0x20: FP16 by BF16, without scales. -/
def wMac : Wave := wS [0x20000000, 0x10000]
def macSt : State :=
  { st wMac with
    mem := pokeAll [] (cellsAt (padKey 0 0x20) (bytesOfNat 16 0xFFFFFFFF00000001 ++ bytesOfNat 16 0xFFFFFFFF00000002)) }
theorem test_meets_MatrixInstructions :
    CommandReady (st wv) 0 wv (mm 254) ∧ MReady wv .A false true [] [] ∧
    (let q := (wMac.sreg 0).toNat;
      MReady wMac .A false (wMac.sHeld 0) [regS 0] [] ∧ wMac.mem.nSt = 0 ∧ fieldOf q 23 22 = 0 ∧ fieldOf q 3 1 = 0 ∧
      fieldOf q 43 24 % 32 = 0 ∧ fieldOf q 63 44 % 64 = 0 ∧ (q.testBit 0 = false → fieldOf q 63 44 = 0) ∧
      fieldOf q 43 24 + 32 ≤ testBlock.padLen ∧
      mget macSt.blocks 0 = some testBlock ∧
      (descOf (macSt.peekN (padKey 0 (testBlock.padOfs + fieldOf q 43 24)) 32)).isSome = true) ∧
    (let q := (wMac.sreg 1).toNat;
      MReady wMac .A false (decide (0 % 2 = 0) && wMac.sHeld 0 && wMac.sHeld 1) [regS 0, regS 1] [] ∧
      fieldOf q 63 32 = 0 ∧ fieldOf q 15 14 = 0) ∧
    -- the three faults, and a full sequencer
    (∃ c ∈ ((cmdSt wv [aCmd 7 .zero]).core wv.core).cmds, c.wave = 0 ∧ c.id = (mm 7).id) ∧
    ((⟨1, 255, 255, 2, 0⟩ : MMod).am.val = 2 ∧ (⟨1, 255, 255, 2, 0⟩ : MMod).p0 = 255) ∧
    (let c := (cmdSt wv (List.replicate 64 (aCmd 7 .zero))).core wv.core;
      64 ≤ c.cmds.length ∧ ∀ e ∈ c.cmds, e.wave = 0 → e.id ≠ (mm 254).id) ∧
    -- MWAIT and MSTAT
    (∀ c ∈ ((st wv).core wv.core).cmds, c.wave = 0 → c.id ≠ 9) ∧
    MReady wv .A false (wv.groupOk .A 159 1) [] ((wv.groupRegs .A 159 1).map regV) ∧
    (let s : State := { st wv with cores := [(0, { acc := [(63, ⟨0, 5, 0, []⟩)] })] };
      ((s.core wv.core).acc.filter fun e => decide (e.2.owner = 0 ∧ e.2.lastId = 5)) = [(63, ⟨0, 5, 0, []⟩)]) := by
  refine ⟨⟨rfl, by decide, by decide +kernel, by decide, by decide +kernel⟩, mReady idle_wv rfl _ _,
    ⟨mReady (by unfold idle; decide +kernel) (by decide +kernel) _ _, by decide +kernel⟩,
    ⟨mReady (by unfold idle; decide +kernel) (by decide +kernel) _ _, by decide +kernel⟩,
    by decide +kernel, by decide, by decide +kernel, by decide +kernel, mReady idle_wv (by decide +kernel) _ _, by decide +kernel⟩
/-- A wave with the mailbox range v40 to v71, and the eyelet of its v71 with the MAC that fits, or the next number. -/
def wMb (s0 : DWord) : Wave :=
  { wS [s0] with id := { wv.id with kern := { testKernel with mbFirst := 40, mbCount := 32 } } }
def capOf (n : Nat) : DWord := BitVec.ofNat 64 (((st wv).eyeletMac 0 71 + n) % 2 ^ 32 * 2 ^ 32 + 71)
theorem parts (m : Nat) : (BitVec.ofNat 64 (m % 2 ^ 32 * 2 ^ 32 + 71)).toNat % 2 ^ 32 = 71 ∧
    (BitVec.ofNat 64 (m % 2 ^ 32 * 2 ^ 32 + 71)).toNat / 2 ^ 32 = m % 2 ^ 32 := by
  constructor <;> simp only [BitVec.toNat_ofNat] <;> omega
theorem cap_parts (n : Nat) : (capOf n).toNat % 2 ^ 32 = 71 ∧
    (capOf n).toNat / 2 ^ 32 = ((st wv).eyeletMac 0 71 + n) % 2 ^ 32 := by
  unfold capOf
  exact parts _
theorem mac_lt (s : State) (c n : Nat) : s.eyeletMac c n < 2 ^ 32 := by
  unfold State.eyeletMac
  dsimp only
  generalize (kmac128 _ _).toNat = n
  omega
theorem mac_st (v : Wave) (n : Nat) : (st v).eyeletMac 0 n = (st wv).eyeletMac 0 n := by
  have h : (st v).ctxs = (st wv).ctxs := rfl
  unfold State.eyeletMac
  rw [h]
theorem idle_wMb (a : DWord) : idle (wMb a) := ⟨by rfl, by rfl, by rfl, rfl⟩
/-- A send under way to v71 of the wave in slot 1, with the lanes of slot A. -/
def wSend (o : Option (BitVec 2)) : Wave :=
  { wMb 0 with send := some ⟨.A, allLanes, 31, BitVec.ofNat 64 (2 ^ 9 + 71), [], 0, o⟩ }
def toSt (m : Map Mailbox) : State := { st (wSend none) with waves := [(0, wSend none), (1, { wMb 0 with mb := m })] }
theorem test_meets_EyeletsAndSends :
    (let v := wMb (capOf 0);
      Issues (st v) 0 .A v ∧ v.id.kern.mailboxes = true ∧ MReady v .A false (v.sHeld 127) [] [regS 127] ∧
      v.mailReg 40 = true ∧ v.mailReg 71 = true ∧ MReady v .A false true [] [] ∧ v.stillWrites 71 = false) ∧
    (∀ n, MReady (wMb (capOf n)) .A false ((wMb (capOf n)).sHeld 0 && (wMb (capOf n)).mOpdOk .A (.v 12)) [regS 0, regV 12] []) ∧
    ((wMb (capOf 0)).active .A true = 0 ∧ (wMb (capOf 0)).active .A false ≠ 0) ∧
    ((capOf 0).toNat / 2 ^ 32 = (st (wMb (capOf 0))).eyeletMac 0 ((capOf 0).toNat % 2 ^ 32)) ∧
    ((capOf 0).toNat / 2 ^ 30 % 4 ≠ 1) ∧
    ((capOf 1).toNat / 2 ^ 32 ≠ (st (wMb (capOf 1))).eyeletMac 0 ((capOf 1).toNat % 2 ^ 32)) ∧
    (mget (st wv).ctxs 0).isSome = true ∧
    (∃ q, (wSend (some 0)).send = some q ∧ q.outcome = some 0) ∧
    (∀ m ∈ [[(71, (⟨.armed, false⟩ : Mailbox))], [(71, ⟨.full, true⟩)], []], ∃ v q u, (toSt m).wave? 0 = some v ∧ v.send = some q ∧
      q.outcome = none ∧ q.cap.toNat % 2 ^ 32 = 0 * 2 ^ 30 + 0 * 2 ^ 24 + 0 * 2 ^ 22 + 0 * 2 ^ 16 + 1 * 2 ^ 9 + 71 ∧
      (toSt m).wave? 1 = some u ∧ u.id.ctx = v.id.ctx ∧ mgetD ((toSt m).core 0).genV 1 0 = 0 ∧ u.mailReg 71 = true) ∧
    -- the receiver's slots wait for nothing, or slot A sleeps
    ((∀ y, ((wMb 0).slot y).wait ≠ some .sleep ∧ ((wMb 0).slot y).wait ≠ some .scoreboard) ∧
      let u := (wMb 0).setSlot .A { (wMb 0).slot .A with wait := some .sleep }
      (u.slot .A).sup = false ∧ (u.slot .A).wait = some .sleep) := by
  have h := mac_lt (st wv) 0 71
  refine ⟨⟨issues _, rfl, mReady (idle_wMb _) (by rfl) _ _, by rfl, by rfl, mReady (idle_wMb _) rfl _ _, by rfl⟩,
    fun n => mReady (idle_wMb _) (by rfl) _ _, by decide +kernel, ?_, ?_, ?_, rfl, ⟨_, rfl, rfl⟩, ?_,
    ⟨fun y => by cases y <;> decide +kernel, by decide +kernel⟩⟩
  · rw [(cap_parts 0).1, (cap_parts 0).2, mac_st (wMb _)]; omega
  · have h2 := (cap_parts 0).1
    generalize (capOf 0).toNat = c at h2
    omega
  · rw [(cap_parts 1).1, (cap_parts 1).2, mac_st (wMb _)]; omega
  · intro m hm
    simp only [List.mem_cons, List.not_mem_nil, or_false] at hm
    rcases hm with rfl | rfl | rfl <;> exact ⟨_, _, _, rfl, rfl, rfl, by decide, rfl, rfl, rfl, by decide +kernel⟩

/-- Raster state 0 of the context at 0x1040, with its target at 0x1080, of one pixel. -/
def gst (v : Wave) : State :=
  { mst v with
    mem := pokeAll (mst v).mem (cellsAt 0x3040 (bytesOfNat 64 (0x1080 + 0x1000 * 2 ^ 64 + 2 * 2 ^ 272)) ++
      cellsAt 0x3080 (bytesOfNat 16 (64 * 2 ^ 96)))
    regs := (mst v).regs ++ [(regKey 0 (oCtx 0 0x30), 0x1040)] }
def descAt (s : State) (v : Wave) (va : DWord) : Option (Bytes × State) :=
  match (s.access (v.who .A) .rd false 0 va 64).1 with
  | .ok a =>
    if va.toNat % 64 = 0 then some ((s.access (v.who .A) .rd false 0 va 64).2.loadBytes v.core v.mem.queue a true true)
    else none
  | _ => none
theorem descAt_reads {s v va b t} (h : descAt s v va = some (b, t)) : ReadsDesc s v .A va b t := by
  unfold descAt at h
  split at h
  · split at h
    · exact ⟨‹_›, _, ‹_›, Option.some.inj h⟩
    · cases h
  · cases h
def targetAt (s : State) (v : Wave) (va : DWord) : Option (Target × State) :=
  match descAt s v va with
  | some (b, t) => (targetOf va b).map fun g => (g, t)
  | none => none
theorem targetAt_reads {s v va g t} (h : targetAt s v va = some (g, t)) : ReadsTarget s v .A va g t := by
  unfold targetAt at h
  split at h
  · simp only [Option.map_eq_some_iff, Prod.mk.injEq] at h
    obtain ⟨g', hg, rfl, rfl⟩ := h
    exact ⟨_, descAt_reads ‹_›, hg⟩
  · cases h
def rasterAt (s : State) (v : Wave) (sel : DWord) : Option (Raster × State) :=
  match descAt s v (BitVec.ofNat 64 (s.reg 0 (oCtx v.id.ctx 0x30) / 64 * 64 + 64 * fieldOf sel.toNat 55 48)) with
  | some (b, u) =>
    match rasterOf b with
    | some (r, va) => if fieldOf sel.toNat 63 56 = 0 then (targetAt u v va).map fun q => ({ r with tgt := q.1 }, q.2) else none
    | none => none
  | none => none
theorem rasterAt_reads {s v sel r t} (h : rasterAt s v sel = some (r, t)) : ReadsRaster s v .A sel r t := by
  unfold rasterAt at h
  split at h
  · split at h
    · split at h
      · simp only [Option.map_eq_some_iff, Prod.mk.injEq] at h
        obtain ⟨⟨g, u⟩, hg, rfl, rfl⟩ := h
        exact ⟨‹_›, _, _, _, _, _, descAt_reads ‹_›, ‹_›, targetAt_reads hg, rfl⟩
      · cases h
    · cases h
  · cases h
theorem some_of_any {α} {o : Option α} {p : α → Bool} (h : o.any p = true) : ∃ a, o = some a ∧ p a = true := by
  cases o with
  | none => simp at h
  | some a => exact ⟨a, rfl, h⟩
/-- One active lane, seven entries of qg and nine of ql, the raster selector in s0 and the target's address in s1. -/
def wFeed : Wave :=
  { wOne (wS [0, 0x1080]) 95 with
    feed := { wv.feed with horizon := 5, qg := List.replicate 7 [], ql := List.replicate 9 [], tickets := [(95, ⟨0, 0, 5, 0x1080⟩)] } }
theorem idle_wFeed : idle wFeed := by unfold idle; decide +kernel
theorem test_meets_FeedAndPaths :
    Issues (gst wFeed) 0 .A wFeed ∧ MReady wFeed .A false (wFeed.sHeld 0 && wFeed.mOpdOk .A (.v 3)) [regS 0, regV 3] [] ∧
    wFeed.active .A true = 0 ∧ wFeed.active .A false ≠ 0 ∧
    (∃ rs u, ReadsRaster (gst wFeed) wFeed .A (wFeed.sreg 0) rs u ∧ rs.pkern ≠ 0) ∧ 7 ≤ wFeed.feed.qg.length ∧
    NeverFalls wFeed.feed.highest ((ascending (wFeed.active .A false)).map fun t =>
      sequenced 0 0 (laneAt (wFeed.readM .A (.v 3)) t).toNat) ∧
    (∀ t ∈ ascending (wFeed.active .A false), ((gathered wFeed.feed.qg 7 t).getD 0 0).toNat ∈ [0, 4, 8]) ∧
    9 ≤ wFeed.feed.ql.length ∧ wFeed.feed.highest.toNat ≤ (sequenced 0 0 0).toNat ∧
    -- segments: none open, one open, one too many
    MReady wFeed .A false (wFeed.groupOk .A 154 6) ((wFeed.groupRegs .A 154 6).map regV) [] ∧ wFeed.feed.path = [] ∧
    (∀ n ∈ [65535, 65536], ∃ v : Wave, idle v ∧ v.feed.path ≠ [] ∧ v.feed.segs = n ∧ (ascending (v.active .A false)).length = 1) ∧
    MReady wFeed .A false (wFeed.sHeld 0 && wFeed.sHeld 1) [regS 0, regS 1] [] ∧
    ∃ g u, ReadsTarget (gst wFeed) wFeed .A (wFeed.sreg 1) g u := by
  refine ⟨⟨rfl, rfl⟩, mReady idle_wFeed (by decide +kernel) _ _, by decide +kernel, by decide +kernel, ?_, by decide +kernel,
    by unfold NeverFalls; decide +kernel, by decide +kernel, by decide +kernel, by decide +kernel,
    mReady idle_wFeed (by decide +kernel) _ _, rfl, ?_, mReady idle_wFeed (by decide +kernel) _ _, ?_⟩
  · have h : (rasterAt (gst wFeed) wFeed (wFeed.sreg 0)).any (fun r => decide (r.1.pkern ≠ 0)) = true := by decide +kernel
    obtain ⟨⟨r, u⟩, hr, hp⟩ := some_of_any h
    exact ⟨r, u, rasterAt_reads hr, by simpa using hp⟩
  · intro n hn
    exact ⟨{ wFeed with feed := { wFeed.feed with path := [.move 0 0], segs := n } }, ⟨by rfl, by rfl, by rfl, rfl⟩, by simp, rfl,
      by show (ascending (wFeed.active .A false)).length = 1; decide +kernel⟩
  · have h : (targetAt (gst wFeed) wFeed (wFeed.sreg 1)).any (fun _ => true) = true := by decide +kernel
    obtain ⟨⟨g, u⟩, hg, -⟩ := some_of_any h
    exact ⟨g, u, targetAt_reads hg⟩
/-- The wave's ticket of lane 95, alone, and behind an earlier one of its pixel. -/
def ordSt (l : List (Nat × Nat × Nat × DWord × Nat × Nat)) : State :=
  { gst wFeed with gfx := { (gst wFeed).gfx with tickets := l } }
theorem test_meets_OrderedSections :
    Issues (ordSt []) 0 .A wFeed ∧ MReady wFeed .A false true [] [] ∧ wFeed.id.kern.ordered = true ∧
    (let need := (ascending (wFeed.active .A false)).filter fun t => !mbit wFeed.feed.section_ t && (mget wFeed.feed.tickets t).isSome;
      need = [95] ∧ (∀ t ∈ need, (ordSt [(0, 0, 0, 5, 0, 95)]).mayEnter wFeed t = true)) ∧
    wFeed.mem.nSt = 0 ∧ wFeed.mem.nUa = 0 ∧
    MReady wFeed .A false (wFeed.sHeld 1 && decide (156 % 4 = 0) && wFeed.groupOk .A 156 4)
      (regS 1 :: (wFeed.groupRegs .A 156 4).map regV) [] ∧
    (∀ t ∈ ascending (wFeed.active .A false), (mget wFeed.feed.tickets t).isSome = true) ∧
    (∃ k u, ReadsTarget (gst wFeed) wFeed .A (wFeed.sreg 1) k u ∧ k.format ≠ 3) ∧
    ∃ t ∈ ascending (wv.active .A false), mget wv.feed.tickets t = none := by
  refine ⟨⟨rfl, rfl⟩, mReady idle_wFeed rfl _ _, rfl, by decide +kernel, rfl, rfl, mReady idle_wFeed (by decide +kernel) _ _,
    by decide +kernel, ?_, ⟨0, by decide +kernel, rfl⟩⟩
  have h : (targetAt (gst wFeed) wFeed (wFeed.sreg 1)).any (fun q => decide (q.1.format ≠ 3)) = true := by decide +kernel
  obtain ⟨⟨g, u⟩, hg, hf⟩ := some_of_any h
  exact ⟨g, u, targetAt_reads hg, by simpa using hf⟩
/-- All lanes take, half of them, or none, by p0 to p2; entries of the list; a slot with a join address. -/
def half : Mask := maskOf fun l => l < 48
def wCtl (join : Option CAddr) (recon : List REntry) (frames : List Frame) (s0 : DWord) : Wave :=
  let q := { wv.slot .A with join := join }
  let v := (wS [s0]).setSlot .A q
  { v with
    regs := { v.regs with p := [(1, half), (2, allLanes)] }
    ctl := { v.ctl with recon := recon, frames := frames, ls := [(0, 0x100)], le := [(0, 0x200)], lc := [(0, 3)] } }
def anEntry : REntry := ⟨true, 0x80, allLanes, 0, none, 7⟩
theorem idle_wCtl {j r f a} : idle (wCtl j r f a) := ⟨by rfl, by rfl, by rfl, rfl⟩
theorem cCtl {j r f a o} (ho : o = true) (rd wr) : CReady (wCtl j r f a) .A o rd wr := cReady idle_wCtl ho _ _
theorem list_wCtl {j f a n} : ListHere (st (wCtl j [] f a)) (wCtl j [] f a) n ∧
    (1 ≤ n → ListHere (st (wCtl j [anEntry] f a)) (wCtl j [anEntry] f a) n) :=
  ⟨⟨rfl, Nat.zero_le _, rfl⟩, fun h => ⟨rfl, h, rfl⟩⟩
/-- A slot that is not at the last instruction of its clause. -/
def notLast : Wave := wv.setSlot .A { wv.slot .A with clause := some (let c := testClause .c [0]; { c with items := c.items ++ c.items }) }
theorem ready_notLast : CReady notLast .A true [] [] := by
  refine ⟨⟨by rfl, fun h => by cases h⟩, rfl, ?_⟩
  constructor <;> intro c h <;> cases h
/-- The lanes t of the slot take on predicate p, and n do not. -/
def takesOf (v : Wave) (p : Nat) (t n : Mask) : Prop :=
  (∀ l, l < 96 → mbit t l = (mbit (v.slot .A).mask l && (mbit (v.preg p) l ^^ false))) ∧
  ∀ l, l < 96 → mbit n l = (mbit (v.slot .A).mask l && !mbit t l)
theorem test_meets_BranchesAndArrivals_moves :
    (∀ j r f a, Issues (st (wCtl j r f a)) 0 .A (wCtl j r f a) ∧ CReady (wCtl j r f a) .A true [] [] ∧
      CReady (wCtl j r f a) .A ((wCtl j r f a).sHeld 0) [regS 0] [] ∧ ((wCtl j r f a).slot .A).isLast = true) ∧
    (Issues (st notLast) 0 .A notLast ∧ CReady notLast .A true [] [] ∧ (notLast.slot .A).isLast = false) ∧
    ∀ a, (wCtl none [] [] a).sreg 0 = a :=
  ⟨fun _ _ _ _ => ⟨issues _, cCtl rfl _ _, cCtl (by rfl) _ _, by rfl⟩, ⟨issues _, ready_notLast, by decide +kernel⟩, fun _ => by rfl⟩
theorem test_meets_BranchesAndArrivals_targets :
    let inLoop := wCtl none [] [.loop allLanes 1 0 0x300 1] 0x404;
      (wCtl none [] [] 0).targetOk (offset ((wCtl none [] [] 0).slot .A).nextPc 19 0x40000) = true ∧
      inLoop.targetOk 0x200 = true ∧ inLoop.targetOk 0x204 = false ∧ inLoop.targetOk 0xFC = false := by decide +kernel
theorem takes_none : takesOf (wCtl none [anEntry] [] 0) 0 0 allLanes := ⟨by decide +kernel, by decide +kernel⟩
theorem takes_half : takesOf (wCtl none [anEntry] [] 0) 1 half (~~~half) := ⟨by decide +kernel, by decide +kernel⟩
theorem takes_all : takesOf (wCtl none [anEntry] [] 0) 2 allLanes 0 := ⟨by decide +kernel, by decide +kernel⟩
theorem test_meets_BranchesAndArrivals_splits :
    ListHere (st (wCtl none [anEntry] [] 0)) (wCtl none [anEntry] [] 0) 4 ∧ takesOf (wCtl none [anEntry] [] 0) 0 0 allLanes ∧
    takesOf (wCtl none [anEntry] [] 0) 1 half (~~~half) ∧ takesOf (wCtl none [anEntry] [] 0) 2 allLanes 0 ∧
    ((wCtl none [anEntry] [] 0).slot .B).phase = .empty :=
  ⟨list_wCtl.2 (by decide), takes_none, takes_half, takes_all, rfl⟩
theorem test_meets_BranchesAndArrivals_joins :
    (let v := wCtl (some 0x80) [anEntry] [] 0;
      ListHere (st v) v 6 ∧ (v.slot .A).join = some 0x80 ∧ v.ctl.recon = [] ++ anEntry :: [] ∧ Fits (v.slot .A) anEntry) ∧
    ∀ e ∈ (wCtl (some 0x84) [anEntry] [] 0).ctl.recon, ¬Fits ((wCtl (some 0x84) [anEntry] [] 0).slot .A) e := by
  refine ⟨⟨list_wCtl.2 (by decide), rfl, rfl, rfl, rfl, by decide +kernel⟩, ?_⟩
  intro e he h
  rw [List.mem_singleton.mp he] at h
  exact absurd h.2.1 (by decide +kernel)

/-- Memory holds the header of a one-instruction clause at 0x1000. -/
def cst (v : Wave) : State := { mst v with mem := pokeAll (mst v).mem (cellsAt 0x2008 (bytesOfNat 8 0x2019) ++ cellsAt 0x3000 (bytesOfNat 8 0x080FC000)) }
def wLoop (f : List Frame) (a : DWord) : Wave :=
  let v := wCtl none [] f a
  let c := (v.slot .A).clause.map fun c => { c with next := 0xFFC }
  { v.setSlot .A { v.slot .A with clause := c } with ctl := { (v.setSlot .A { v.slot .A with clause := c }).ctl with le := [] } }
theorem test_meets_CallsAndLoops_calls :
    (∀ f a, Issues (st (wCtl none [] f a)) 0 .A (wCtl none [] f a) ∧
      CReady (wCtl none [] f a) .A ((wCtl none [] f a).sHeld 0) [regS 0] []) ∧
    (wCtl none [] [.call 0x40 0 allLanes 0] 0).frameWait .A = false ∧ (wCtl none [] [.call 0x40 0 half 0] 0).frameWait .A = false ∧
    (wCtl none [] [] 0).frameWait .A = false ∧ (wCtl none [] [.loop allLanes 1 0 0 1, .call 0 0 allLanes 0] 0).frameWait .A = false ∧
    (wCtl none [] (List.replicate 31 (.call 0 0 allLanes 0)) 0).calls < 32 ∧
    32 ≤ (wCtl none [] (List.replicate 32 (.call 0 0 allLanes 0)) 0).calls :=
  ⟨fun _ _ => ⟨issues _, cCtl (by rfl) _ _⟩, by decide +kernel, by decide +kernel, by decide +kernel, by decide +kernel,
    by decide +kernel, by decide +kernel⟩
/-- A loop whose last clause is the one at 0x1000, of 2 rotating granules and 8 stages, or plain. -/
theorem test_meets_CallsAndLoops_loops :
    (∀ a, ListHere (cst (wLoop [] a)) (wLoop [] a) 5) ∧
    (∀ a ∈ [0, 5], ∀ c ∈ [(⟨2, 7, 1⟩ : LoopCx), ⟨0, 0, 1⟩],
      (wLoop [] (BitVec.ofNat 64 a)).frameWait .A = false ∧ (wLoop [] (BitVec.ofNat 64 a)).depth < (wLoop [] (BitVec.ofNat 64 a)).id.kern.loopDepth ∧
      (((wLoop [] (BitVec.ofNat 64 a)).slot .A).nextPc + 4 * c.fin.setWidth 48 = 0x1000) ∧ (wLoop [] (BitVec.ofNat 64 a)).pastOuter 0x1000 = false ∧
      (openLoops (wLoop [] (BitVec.ofNat 64 a)).ctl.frames).any Frame.pipelined = false ∧ 32 + 8 * c.nb.val ≤ 8 * (wLoop [] (BitVec.ofNat 64 a)).regs.g ∧
      (wLoop [] (BitVec.ofNat 64 a)).rotMeetsMailbox (8 * c.nb.val) = false ∧ ((wLoop [] (BitVec.ofNat 64 a)).sreg 0).toNat % 2 ^ 32 = a) ∧
    ((cst (wLoop [] 5)).codeBytes (wLoop [] 5) .A 0x1000 4).1.isOk = true :=
  ⟨fun _ => ⟨rfl, Nat.zero_le _, rfl⟩, by decide +kernel, by decide +kernel⟩
/-- LBRK in a loop that owns the exit entry. -/
theorem test_meets_CallsAndLoops_break :
    let v := wCtl none [anEntry] [.loop allLanes 2 0 0x300 7] 0;
    ListHere (st v) v 6 ∧ v.frameWait .A = false ∧ v.ctl.recon = [] ++ anEntry :: [] ∧ anEntry.tag = 7 ∧
      (∀ l, l < 96 → mbit half l = (mbit (v.slot .A).mask l && (mbit (v.preg 1) l ^^ false))) :=
  ⟨list_wCtl.2 (by decide), by decide +kernel, rfl, rfl, by decide +kernel⟩
/-- A trap of slot A's lanes 0 to 47 is being handled. -/
def aTrap : TrapReq := ⟨.A, half, 0x0F, 0, 0, 0, 0, false⟩
theorem test_meets_ExitsAndSettling :
    let v := wCtl none [anEntry] [.call 0 0 allLanes 0] 0
    Issues (st v) 0 .A v ∧ CReady v .A true [] [] ∧ ListHere (st v) v 6 ∧ (v.slot .A).isLast = true ∧
      v.ctl.frames.length ≤ 36 ∧ v.trap.running = none ∧
      -- a handler some of whose lanes are not the slot's
      (let u := v.setSlot .A { v.slot .A with mask := ~~~half };
        ∃ t, t < 96 ∧ mbit u.ctl.live t = true ∧ mbit aTrap.lanes t = true ∧ mbit (u.slot .A).mask t = false) ∧
      -- the settle step with both slots empty and two paths
      (let u := v.setSlot .A {};
        (u.slot .A).phase = .empty ∧ (u.slot .B).phase = .empty ∧ u.trap.running = none ∧
        fires u.ctl.live [⟨false, 0, half, 0, none, 0⟩, ⟨false, 4, ~~~half, 0, none, 0⟩] =
          [] ++ [] ++ ⟨false, 0, half, 0, none, 0⟩ :: [] ++ ⟨false, 4, ~~~half, 0, none, 0⟩ :: []) :=
  ⟨issues _, cCtl rfl _ _, list_wCtl.2 (by decide), rfl, by decide, rfl, ⟨0, by decide +kernel⟩, by decide +kernel⟩
/-- Any slot without a handler may take any path, and an occupied slot takes none. -/
theorem test_meets_ExitsAndSettling_takes (v : Wave) (x : SlotId) (e : REntry) (h : v.trap.running = none) (he : e.merge = false) :
    Takes v x e ∧ ((v.slot x).phase ≠ .empty → Idle v x [e]) :=
  ⟨⟨he, fun r hr => by rw [h] at hr; cases hr⟩, .inl⟩
theorem test_meets_YieldSleepAndRegions :
    let v := wCtl none [] [] 0
    Issues (st v) 0 .A v ∧ CReady v .A true [] [] ∧ v.windowShut .A = false ∧ ListHere (st v) v 6 ∧
      (∀ i, i < 20 → (0xFFFFF : BitVec 20).toNat.testBit i = true → i < v.regs.g) ∧ v.mem.nLd = 0 ∧ v.windowsClosed = true ∧
      (st v).blendRoom v = true ∧ v.feed.held = [] ∧ (v.slot .A).sup = false :=
  ⟨issues _, cCtl rfl _ _, by rfl, list_wCtl.1, by decide +kernel, rfl, by rfl, by rfl, rfl, by rfl⟩

/-- A wave that holds n granules, in a core with room for four more, or with a request before it. -/
def wG (n : Nat) (sup march : Bool) : Wave :=
  let v := wCtl none [] [] 0x1000
  { v.setSlot .A { v.slot .A with sup := sup } with
    regs := { v.regs with g := n }
    id := { v.id with kern := { v.id.kern with mailboxes := false }, march := march } }
def poolSt (n free : Nat) : State := (st (wG n false false)).setCore 0 { free := free }
theorem idle_wG {n p m} : idle (wG n p m) := ⟨by rfl, by rfl, by rfl, rfl⟩
theorem test_meets_PoolAndSystem :
    (∀ n free, Issues (poolSt n free) 0 .A (wG n false false)) ∧ (∀ n p m, CReady (wG n p m) .A true [] []) ∧
    (8 * (wG 4 false false).regs.g + (32 : BitVec 8).toNat ≤ 160 ∧ ((poolSt 4 4).core 0).claims = [] ∧ 4 ≤ ((poolSt 4 4).core 0).free) ∧
    (((poolSt 4 3).core 0).claims ++ [⟨0, .A, 4⟩] = ⟨0, .A, 4⟩ :: [] ∧ ((poolSt 4 3).core 0).free < 4) ∧
    ((wG 4 false false).pinned (8 * (wG 4 false false).regs.g - 32) = false) ∧
    ((wG 4 false false).windowShut .A = false ∧ ((wG 4 false false).slot .A).sup = false) ∧
    Issues (st (wG 4 true false)) 0 .A (wG 4 true false) ∧ ((wG 4 true false).slot .A).sup = true ∧ (wG 4 true false).id.march = false ∧
    CReady (wG 4 true false) .A ((wG 4 true false).sHeld 0) [regS 0] [] ∧ (st (wG 4 true false)).accessing 0 = false :=
  ⟨fun _ _ => ⟨rfl, rfl⟩, fun _ _ _ => cReady idle_wG rfl _ _, by decide +kernel, by decide +kernel, by decide +kernel, by decide +kernel,
    issues _, by rfl, by rfl, cReady idle_wG (by rfl) _ _, by decide +kernel⟩
theorem test_meets_RepairReports :
    Issues (st (wG 4 true true)) 0 .A (wG 4 true true) ∧ (wG 4 true true).id.march = true ∧
    CReady (wG 4 true true) .A ((wG 4 true true).sHeld 0) [regS 0] [] ∧
    (st (wG 4 true false)).wave? 0 = some (wG 4 true false) ∧ (wG 4 true false).id.march = false ∧
    (0xC141A388 : Nat).testBit 31 = true ∧ ((st (wG 4 true true)).pair 0).repair.length < 64 :=
  ⟨issues _, rfl, cReady idle_wG (by rfl) _ _, rfl, rfl, by decide, by decide +kernel⟩
/-- A supervisor wave with an address, the attributes and another address in s0 to s2; the pool's frames; a window
whose next free page is its fifth. -/
def wMapp (va attr : DWord) : Wave := (wS [va, attr, 0x1000]).setSlot .A { wv.slot .A with sup := true }
def mapSt (v : Wave) (frames : List Nat) : State :=
  { mst v with
    mem := pokeAll (mst v).mem (cellsAt 0x1018 (bytesOfNat 8 0x1001))
    ctxs := [(0, { cx with pool := frames, poolUsed := (List.range 4).map fun i => (0x8000, some (3 * 2 ^ 27 + i)) })]
    regs := (mst v).regs ++ [(regKey 0 (oCtx 0 0x10), 3 * 2 ^ 39), (regKey 0 (oCtx 0 0x18), 4)] }
theorem idle_wMapp {a b} : idle (wMapp a b) := ⟨by rfl, by rfl, by rfl, rfl⟩
theorem memPut_zero (m : List Host.Cell) (k : Nat) (h : ∀ c ∈ m, k < c.1) : memPut m k 0 = m := by
  have hd : mdel m k = m := List.filter_eq_self.mpr fun c hc => by simpa using Nat.ne_of_gt (h c hc)
  simp [memPut, mset, hd]
theorem pokeAll_zeros (m l : List Host.Cell) (h : ∀ c ∈ m, 4096 ≤ c.1) (hl : ∀ c ∈ l, c.1 < 4096 ∧ c.2 = 0) : pokeAll m l = m := by
  induction l with
  | nil => rfl
  | cons c l ih =>
    obtain ⟨h1, h2⟩ := hl c (by simp)
    show pokeAll (memPut m c.1 c.2) l = m
    rw [h2, memPut_zero _ _ fun e he => Nat.lt_of_lt_of_le h1 (h e he)]
    exact ih fun e he => hl e (by simp [he])
theorem zeroFrame_mem (s : State) (c p n : Nat) :
    (s.zeroFrame c p n).mem = pokeAll s.mem ((List.range (4096 * n)).map fun i => (devKey (p + i), 0)) := rfl
theorem zero_first (s : State) (c : Nat) (h : ∀ e ∈ s.mem, 4096 ≤ e.1) : (s.zeroFrame c 0 1).mem = s.mem := by
  rw [zeroFrame_mem]
  refine pokeAll_zeros _ _ h fun e he => ?_
  obtain ⟨i, hi, rfl⟩ := List.mem_map.mp he
  have := List.mem_range.mp hi
  exact ⟨by show 0 + i < 4096; omega, rfl⟩
theorem modCtx_mem (s : State) (c : Nat) (f : Ctx → Ctx) : (s.modCtx c f).mem = s.mem := by
  unfold State.modCtx
  split <;> rfl
theorem eta_mem (s : State) (m) (h : s.mem = m) : s = { s with mem := m } := by subst h; rfl
/-- Taking frame 0 leaves a memory that lists no byte of it as it is. -/
theorem take_first (s : State) (c : Nat) (ia : Option Nat) (h : ∀ e ∈ s.mem, 4096 ≤ e.1) :
    s.takeRun c 0 1 ia = { s.takeRun c 0 1 ia with mem := s.mem } := by
  apply eta_mem
  unfold State.takeRun
  rw [zero_first _ _ (by rw [modCtx_mem]; exact h), modCtx_mem]
/-- With frame 0 taken for the window's page, its leaf has a place, the page's entry stands in a table of stage 1, and that
table in a page of stage 2 that is not shared. -/
def mapsAt (s : State) (ia va : Nat) : Bool :=
  let z := s.takeRun 0 0 1 (some ia)
  (leafPlace z ia 0 3 (z.s2root 0)).isSome && (z.s2frames 0 0 ia 1).any fun m =>
    let r := m.s1lacks 0 va 0 3 (m.s1root 0)
    decide (r.1 = 0) && match m.s2leaf 0 r.2 with
      | .leaf l _ _ => !eBit l 9
      | _ => false
theorem maps_first : mapsAt (mapSt (wMapp 0x3000 0xC) [0]) (3 * 2 ^ 39 + 4 * 4096) 0x3000 = true := by
  unfold mapsAt
  rw [take_first _ _ _ (by decide +kernel)]
  decide +kernel
theorem test_meets_MappingAndFlushes :
    (∀ a b f, Issues (mapSt (wMapp a b) f) 0 .A (wMapp a b) ∧ ((wMapp a b).slot .A).sup = true ∧
      CReady (wMapp a b) .A ((wMapp a b).sHeld 127 && (wMapp a b).sHeld 0 && (wMapp a b).sHeld 1) [regS 0, regS 1] [regS 127] ∧
      CReady (wMapp a b) .A true [] [] ∧
      CReady (wMapp a b) .A ((wMapp a b).sHeld 2) [regS 2] [] ∧ (wMapp a b).mem.nLd = 0 ∧ (wMapp a b).mem.nUa = 0) ∧
    (let s := mapSt (wMapp 0x1000 0) [];
      s.mapped 0 0x1000 1 3 (s.s1root 0) = .yes) ∧
    (let s := mapSt (wMapp 0x3000 0xC) [0];
      s.mapped 0 0x3000 1 3 (s.s1root 0) = .no ∧ s.mappLacks 0 0x3000 1 0 = none ∧
      (mget s.ctxs 0).bind (·.anyRun 1) = some 0 ∧ s.windowFree 0 1 = some (3 * 2 ^ 39 + 4 * 4096) ∧
      mapsAt s (3 * 2 ^ 39 + 4 * 4096) 0x3000 = true) ∧
    (mapSt (wMapp 0x3000 0xC) []).mappLacks 0 0x3000 1 0 = some (0x13, 1) ∧
    (match ((mapSt (wMapp 0x1000 0) []).access ((wMapp 0x1000 0).who .A) .rd true 0 0x1000 1).1 with
      | .ok a => a.keys
      | _ => []) = [devKey 0x3000] ∧
    (match ((mapSt (wMapp 0x1000 0) []).access ((wMapp 0x1000 0).who .A) .rd true 0 0x9000 1).1 with
      | .fault c _ => c
      | _ => 0) = 0x05 :=
  ⟨fun _ _ _ => ⟨⟨rfl, rfl⟩, by rfl, cReady idle_wMapp (by rfl) _ _, cReady idle_wMapp rfl _ _, cReady idle_wMapp (by rfl) _ _,
    rfl, rfl⟩, by decide +kernel, ⟨by decide +kernel, by decide +kernel, by decide +kernel, by decide +kernel, maps_first⟩,
    by decide +kernel, by decide +kernel, by decide +kernel⟩

/-- A card whose PRIVSZ is 2, and room for tasks of class 0; a task that has two tile operands runs in the wave's block. -/
def lst : State :=
  { mst wAt with
    mem := pokeAll (mst wAt).mem (cellsAt 0x301C [2])
    regs := (mst wAt).regs ++ [(regKey 0 (oSched 0 0), 16), (regKey 0 (oSched 0 0x10), 1)]
    sched := { State.reset.sched with tasks :=
      [(0, { ctx := 0, launch := 1, st := .dispatched, card := { cardOf (List.replicate 128 0) with tiles := [(0x1000, 0), (0x1040, 1)] } })] } }
/-- A checked access and the state after it. -/
def readOf (s : State) (v : Wave) (n : Machine.Need) (va : DWord) (k : Nat) : Option (LaneAcc × State) :=
  match (s.access (v.who .A) n false 0 va k).1 with
  | .ok a => some (a, (s.access (v.who .A) n false 0 va k).2)
  | _ => none
/-- The status of the card at 0x1000. -/
def statusOf (s : State) : Option Nat :=
  (readOf s wAt .rd 0x1000 128).map fun a => a.2.cardStatus 0 (a.1.keys.map (memByte a.2.mem))
theorem test_meets_LaunchAndTiles :
    Issues lst 0 .A wAt ∧ CReady wAt .A (wAt.sHeld 0 && wAt.sHeld 127) [regS 0] [regS 127] ∧
    (wAt.sreg 0).toNat % 128 = 0 ∧ lst.released wAt .A 3 = true ∧ statusOf lst = some 0 ∧ statusOf (mst wAt) = some 2 ∧
    (mget lst.ctxs 0).isSome = true ∧
    CReady wAt .A (!true || wAt.sHeld 0) [regS 0] [] ∧ CReady wAt .A (!false || wAt.sHeld 0) [] [] ∧
    (mget lst.sched.tasks wAt.id.task).bind (fun t => (t.card.tiles[1]?).map fun e => e.1) = some 0x1040 ∧
    (mget lst.sched.tasks wAt.id.task).bind (fun t => (t.card.tiles[2]?).map fun e => e.1) = none ∧
    (wAt.mem.nLd = 0 ∧ wAt.mem.nSt = 0 ∧ wAt.mem.nUa = 0) ∧
    ((readOf lst wAt .rd 0x1000 64).any fun a => (readOf a.2 wAt .wr 0x1000 64).any fun e =>
      decide (e.2.wave? 0 = some wAt) && !(e.2.peekN (e.1.keys.headD 0) 64).testBit 0) = true :=
  ⟨⟨rfl, rfl⟩, cReady idle_wAt (by decide +kernel) _ _, by decide +kernel, by decide +kernel, by decide +kernel, by decide +kernel,
    rfl, cReady idle_wAt (by decide +kernel) _ _, cReady idle_wAt rfl _ _, by decide +kernel, by decide +kernel, by decide +kernel,
    by decide +kernel⟩
/-- A slot that stands at the address of a clause, with n loads outstanding. -/
def wFetch (pc : CAddr) (n : Nat) : Wave :=
  let v := wv.setSlot .A { wv.slot .A with pc := pc, clause := none }
  { v with mem := { v.mem with nLd := n } }
/-- Code at 0x1000: a header and a word. -/
def codeSt (h : Nat) (v : Wave) : State :=
  { mst v with mem := pokeAll (mst v).mem (cellsAt 0x2008 (bytesOfNat 8 0x2019) ++ cellsAt 0x3000 (bytesOfNat 4 h ++ bytesOfNat 4 0)) }
/-- The header as read, with the words behind it: LW 7 and SW 7, or LW 0, or N 0. -/
def clauseRead (h : Nat) : Option (Header × List Word) :=
  let s := codeSt h (wFetch 0x1000 1)
  match s.codeBytes (wFetch 0x1000 1) .A 0x1000 4 with
  | (.ok b, s1) =>
    let h := unpackHeader (bytesWord b)
    match (s1.codeBytes (wFetch 0x1000 1) .A 0x1000 (4 * (1 + h.n.toNat + h.xw.toNat))).1 with
    | .ok all => if all.take 4 = b then some (h, wordsOfBytes (h.n.toNat + h.xw.toNat) (all.drop 4)) else none
    | .error _ => none
  | (.error _, _) => none
theorem test_meets_ClauseFetches :
    (∀ (pc : CAddr) h n, let v := wFetch pc n;
      (codeSt h v).wave? 0 = some v ∧ (v.slot .A).phase = .run ∧ v.mem.miss = [] ∧ (v.slot .A).clause = none ∧
      (v.slot .A).firmware = false ∧ v.id.held = false ∧ v.id.march = false ∧ (v.slot .A).join ≠ some (v.slot .A).pc) ∧
    clauseRead 0x103F0000 = some (⟨1, 0, 0, 7, 7, false, 0, false, 0⟩, [0]) ∧
    clauseRead 0x10070000 = some (⟨1, 0, 0, 0, 7, false, 0, false, 0⟩, [0]) ∧
    (∀ lw, LegalClause ⟨1, 0, 0, lw, 7, false, 0, false, 0⟩ [0] [(0, [])]) ∧
    clauseRead 0x003F0000 = some (⟨0, 0, 0, 7, 7, false, 0, false, 0⟩, []) ∧
    (((st wv).wave? 0).isSome = true ∧ ((wv.slot .A).clause.any fun c => ({ c with waiting := true } : Clause).waiting) = true) := by
  refine ⟨fun _ _ _ => ⟨rfl, rfl, rfl, rfl, rfl, rfl, rfl, by simp [wFetch, Wave.setSlot, Wave.slot, wv, testWave]⟩,
    by decide +kernel, by decide +kernel, fun lw => ⟨rfl, ⟨rfl, ?_⟩, ?_⟩, by decide +kernel, rfl, rfl⟩
  · intro i hi
    rw [List.mem_singleton.mp hi]
    rfl
  · intro h
    cases h
/-- The end of a loop's last clause, with its count at 1 or above, in all of its lanes, in some, or in none. -/
def wBack (m : Mask) (n : Word) : Wave :=
  let v := wv.setSlot .A { wv.slot .A with pos := 1, mask := m }
  { v with ctl := { v.ctl with frames := [.loop allLanes 2 8 0x300 1], ls := [(0, 0)], le := [(0, 0)], lc := [(0, n)] } }
theorem test_meets_BackEdges :
    (∀ m n, let v := wBack m n;
      (st v).wave? 0 = some v ∧ (v.slot .A).phase = .run ∧ v.mem.miss = [] ∧
      (v.slot .A).clause = some (testClause .v [0]) ∧ (testClause .v [0]).items.length ≤ (v.slot .A).pos ∧ (v.slot .A).cont = none ∧
      (v.slot .A).yieldDue = false ∧ v.ctl.frames = .loop allLanes 2 8 0x300 1 :: [] ∧
      mgetD v.ctl.le (v.depth - 1) 0 = (testClause .v [0]).hpc ∧ (st v).listMiss v = none ∧ (v.slot .A).mask = m ∧
      mgetD v.ctl.lc (v.depth - 1) 0 = n) ∧ allLanes ≠ 0 ∧ oneLane 3 ≠ allLanes ∧ oneLane 3 &&& allLanes ≠ 0 :=
  ⟨fun _ _ => ⟨rfl, rfl, rfl, rfl, Nat.le_refl 1, rfl, rfl, rfl, rfl, rfl, rfl, rfl⟩, by decide +kernel, by decide +kernel,
    by decide +kernel⟩
/-- A wave that has exited; one whose section has stayed open. -/
def wDone : Wave := { wv with ctl := {} }
theorem test_meets_WavesEnd :
    ((st wDone).wave? 0 = some wDone ∧ wDone.exited = true ∧ wDone.quiet = true ∧ wDone.id.march = false ∧ wDone.copy.pending = [] ∧
      (∀ b ∈ wDone.copy.batches, b.left = 0) ∧ (∀ q ∈ ((st wDone).core wDone.core).cmds, q.wave ≠ 0) ∧ wDone.feed.held = [] ∧
      ((st wDone).core wDone.core).claims = []) ∧
    let v := { wv with feed := { wv.feed with deferred := some 5, section_ := 1 } }
    let s := (st v).setDie 0 { clk := 5 + 2 ^ 20 }
    s.wave? 0 = some v ∧ s.liveCtx v.id.ctx = some cx ∧ v.feed.deferred = some 5 ∧ v.feed.section_ ≠ 0 ∧
      5 + 2 ^ 20 ≤ (s.die v.id.die).clk :=
  ⟨by decide +kernel, rfl, rfl, rfl, by decide, by decide +kernel⟩

/-- A load of one word in lane 3 from line 0x3000, not yet performed. -/
def anAcc : LaneAcc := { lane := 3, va := 0x1000, keys := [0x3000, 0x3001, 0x3002, 0x3003], label := 1, cached := false }
def aLoad : Load :=
  { id := 4, kind := .ld 2, regs := [5], isO := false, lanes := oneLane 3, todo := oneLane 3, accs := [anAcc], la := 0, at_ := 0,
    acq := 2, pol := 0, args := [], got := [], desc := [], index := [] }
def anAtomic (silent pad : Bool) : StoreE :=
  { wave := 0, ctx := 0, group := 3, kind := .atomic 0 [(anAcc, 1)], lines := [], pad := pad, silent := silent }
def aWrite (pad : Bool) : StoreE :=
  { wave := 0, ctx := 0, group := 3, kind := .write (cellsAt 0x3000 [1, 2, 3, 4]), lines := [], pad := pad, silent := false }
def wLd : Wave := { wv with mem := { wv.mem with loads := [aLoad], nLd := 1, nextId := 5 } }
def ldSt (path : List StoreE) : State := (st wLd).setCore 0 { path := path }
theorem test_meets_LoadsLand :
    ((ldSt []).wave? 0 = some wLd ∧ wLd.mem.loads.find? (fun l => l.id = 4) = some aLoad) ∧
    ((ldSt [anAtomic false false]).performUpTo 0 wLd aLoad allLanes).isNone = true ∧
    (((ldSt []).performUpTo 0 wLd aLoad allLanes).any fun s1 => (s1.wave? 0).any fun v1 =>
      (v1.mem.loads.find? (fun l => l.id = 4)).any fun l1 => !l1.isO && decide (l1.regs.Nodup) && decide (l1.kind = .ld 2) &&
        l1.laneDone 3 && mbit l1.todo 3) = true ∧
    (wLd.mem.loads = [aLoad] ∧ aLoad.kind = .ld 2 ∧ aLoad.regs.Nodup ∧ aLoad.accs = [anAcc] ∧ aLoad.got = [] ∧ anAcc.lane < 96 ∧
      aLoad.todo = oneLane anAcc.lane ∧ mbit allLanes anAcc.lane = true ∧ (ldSt []).atomicAhead wLd 4 anAcc.keys = false ∧
      aLoad.pol ≠ 2 ∧ anAcc.cached = false ∧ aLoad.kind ≠ .ld 4) ∧
    (let a := { anAcc with keys := (List.range 16).map (0x3000 + ·) }
      let l := { aLoad with kind := .ld 4, regs := [4, 5, 6, 7], accs := [a] }
      l.regs.Nodup ∧ a.keys.length = 16 ∧ a.va.toNat % 16 = 0 ∧ (ldSt []).atomicAhead wLd 4 a.keys = false) := by decide +kernel
/-- The queue of a wave, and the write path of its core; the periods' flits of a context that may send one in each. -/
def wQ (q : List StoreE) : Wave := { wv with mem := { wv.mem with queue := q, nSt := 1, nUa := 1, nextId := 5 } }
def qSt (q path : List StoreE) : State := (st (wQ q)).setCore 0 { path := path }
def sentSt (n : Nat) : State :=
  (qSt [aWrite false] []).setDie 0 { flits := [(0, 0, 0, n), (0, 0, 1, 1), (0, 0, 2, 1), (0, 0, 3, 1)] }
    |>.setReg 0 (oSched 0 0x08) 1
theorem test_meets_StoresAndAtomicsPerform :
    ((sentSt 1).stampFor 0 0 0 = none ∧ (sentSt 0).stampFor 0 0 0 = some 0 ∧ (sentSt 1).wave? 0 = some (wQ [aWrite false]) ∧
      (sentSt 0).wave? 0 = some (wQ [aWrite false]) ∧ (aWrite false).hint = none ∧ (aWrite false).pad = false) ∧
    ((qSt [aWrite false] []).wave? 0 = some (wQ [aWrite false]) ∧ (qSt [aWrite true] []).wave? 0 = some (wQ [aWrite true]) ∧
      (∀ l ∈ (wQ [aWrite true]).mem.loads, l.id < (aWrite true).group → l.open_ = []) ∧ (aWrite true).isAtomic = false) ∧
    (((qSt [] [aWrite false]).core 0).path[0]? = some (aWrite false) ∧ (qSt [] [aWrite false]).wave? (aWrite false).wave = some (wQ []) ∧
      (wQ []).core = 0 ∧ ∀ o ∈ ((qSt [] [aWrite false]).core 0).path.take 1, o.hint = none) ∧
    (let accs := [(anAcc, 1), ({ anAcc with lane := 4, keys := [0x3004] }, 2)];
      picked (oneLane 3) accs ≠ [] ∧ unpicked (oneLane 3) accs ≠ [] ∧
      ∀ a ∈ picked (oneLane 3) accs, ∀ b ∈ unpicked (oneLane 3) accs, ∀ k ∈ a.1.keys, k ∉ b.1.keys) ∧
    (((qSt [] [anAtomic true false]).core (wQ []).core).path[0]? = some (anAtomic true false) ∧
      ((qSt [] [anAtomic false false]).core (wQ []).core).path[0]? = some (anAtomic false false)) ∧
    ((qSt [anAtomic true true] []).wave? 0 = some (wQ [anAtomic true true]) ∧ (anAtomic true true).pad = true) := by decide +kernel
/-- A copy job of the wave from a vault of core 0 to its own, to its pad, or to memory. -/
def aJob (ssp dsp : Nat) (run : Option Bytes) (bv : Bool) : CopyJob :=
  { id := 2, wave := 0, ctx := 0, task := 0, block := 0, src := 0x1000, dst := 0x1010, ssp := ssp, dsp := dsp, scoreOrRank := 0,
    dcoreOrRank := 0, len := 8, bv := bv, bar := 0x100, pol := 0, running := run, left := [(0, 8)], cause := 0, addr := 0,
    barLine := false, missed := none }
def jobSt (j : CopyJob) (valid : List Nat) : State :=
  { (mst wv).setCore 0 { jobs := [j] } with blocks := [(0, { testBlock with valid := valid })] }
def eight : Bytes := [1, 2, 3, 4, 5, 6, 7, 8]
theorem test_meets_CopyJobs :
    (∀ a b r bv l, ((jobSt (aJob a b r bv) l).core 0).jobs.find? (fun j => j.id = 2) = some (aJob a b r bv)) ∧
    ((∀ e ∈ ((jobSt (aJob 0 3 none false) []).core 0).jobs, e.id < 2 → e.ctx = 0 → e.overlaps (aJob 0 3 none false) = false) ∧
      (jobSt (aJob 0 3 none false) []).jobReady (aJob 0 3 none false) = true ∧
      ((jobSt (aJob 0 3 none false) []).spaceRead (aJob 0 3 none false) 0 0 8).1.2.isNone = true) ∧
    (let j := { aJob 0 3 none false with src := 0x5000 };
      ((jobSt j []).spaceRead j 0 0 8).1.2.any (fun f => match f.1 with
        | .fault _ _ => true
        | _ => false) = true) ∧
    (unitsOk (aJob 3 0 (some eight) false) 0 4 = true ∧ 0 + 4 ≤ eight.length ∧
      (let j := aJob 3 0 (some eight) false
        let page := (jobSt j []).runsChk ⟨0, 0, false, 2⟩ .wr j.dst (j.upTo j.dst (0 + 4))
        page.1 = none ∧ (page.2.rangeCopy ⟨0, 0, false, 2⟩ .wr (0x1010 + BitVec.ofNat 64 0) 4).1.2 = none)) ∧
    (mget (jobSt (aJob 3 1 (some eight) true) [0x100]).blocks 0 = some { testBlock with valid := [0x100] } ∧
      ({ testBlock with valid := [0x100] } : Block).isValid 0x100 = true ∧ testBlock.isValid 0x100 = false) ∧
    (let j := { aJob 3 3 (some eight) false with left := [] };
      j.left = [] ∧ (jobSt j []).wave? j.wave = some wv ∧ wv.id.block = j.block) := by
  refine ⟨fun _ _ _ _ _ => rfl, ?_⟩
  decide +kernel

/-- A matrix command of the wave, and a core whose sequencer holds it alone. -/
def aMatCmd (kind : MatKind) (am : Nat) (started : Bool) : MatCmd :=
  { uid := 7, wave := 0, id := 9, preds := [5], kind := kind, am := am, slot := 4, p0 := 8, p0uid := some 6, started := started,
    placed := started, took := [], left := 11, fault := 0, missed := none }
def wCmd (qa qz : Nat) : Wave := { wv with mat := { wv.mat with qa := List.replicate qa [], qz := List.replicate qz [] } }
def matCmdSt (m : MatCmd) (acc : Map AccSlot) (qa qz : Nat) : State :=
  { (mst (wCmd qa qz)).setCore 0 { cmds := [m], acc := acc } with dies := [(0, { clk := 2 ^ 20 })] }
def aMac (k : Nat) (fromPad : Bool) (apad : Nat) : MatKind := .mac apad 0 k fromPad .fp16 .fp16 0 0 none none
def anAcc4 (owner : Nat) : Map AccSlot := [(4, ⟨owner, 8, 6, List.replicate 1024 0⟩)]
theorem test_meets_MatrixCommandsRun_start :
    (∀ k a st acc n z, ((matCmdSt (aMatCmd k a st) acc n z).core 0).cmds.find? (fun m => m.uid = 7) = some (aMatCmd k a st)) ∧
    (∀ k a acc n z, ∀ q ∈ ((matCmdSt (aMatCmd k a false) acc n z).core 0).cmds, q.uid ∉ (aMatCmd k a false).preds) ∧
    (∀ k a acc n z, ∀ q ∈ ((matCmdSt (aMatCmd k a false) acc n z).core 0).cmds, q.wave = (aMatCmd k a false).wave → q.uid < 7 → q.started = true) ∧
    -- a range out of bounds; then none: a B-store copy, a slot to take, an owned one, the one of a named command
    (let f := fun k a acc => (matCmdSt (aMatCmd k a false) acc 0 0).rangeFault (aMatCmd k a false);
      f (aMac 1 true 65536) 0 [] = 1 ∧ f (.ldb 0 0 64) 0 [] = 0 ∧ f .zero 1 [] = 0 ∧ f .zero 0 (anAcc4 0) = 0 ∧ f .drain 2 (anAcc4 0) = 0) ∧
    -- no free slot, and one; a slot that is another's, is free to work on, is busy; the slot the named command used, and none
    (let full : Map AccSlot := (List.range 64).map fun n => (n, ⟨3, 8, 6, []⟩);
      (∀ n, n < 64 → mget full n ≠ none) ∧ mget (anAcc4 0) 5 = none) ∧
    ((anAcc4 3).all (fun e => e.2.owner ≠ 0) = true ∧ ((matCmdSt (aMatCmd .zero 0 false) (anAcc4 0) 0 0).core 0).slotBusy 4 = false ∧
      ((matCmdSt (aMatCmd .zero 0 true) (anAcc4 0) 0 0).core 0).slotBusy 4 = true ∧
      (mget (anAcc4 0) 4 = some ⟨0, 8, 6, List.replicate 1024 0⟩ ∧ (aMatCmd .drain 2 false).p0uid = some 6 ∧
        ∀ e ∈ anAcc4 0, e.2.lastUid = 6 → e.1 = 4) ∧
      ([] : List (Nat × AccSlot)).all (fun e => e.2.owner = 0) = true) := by
  refine ⟨fun _ _ _ _ _ _ => rfl, fun _ _ _ _ _ q hq => ?_, fun _ _ _ _ _ q hq _ h => ?_, by decide +kernel, by decide +kernel,
    by decide +kernel⟩
  · rw [List.mem_singleton.mp hq]
    simp [aMatCmd]
  · rw [List.mem_singleton.mp hq] at h
    exact absurd h (by simp [aMatCmd])
theorem test_meets_MatrixCommandsRun_retire :
    (∀ k acc n z, (matCmdSt (aMatCmd k 0 true) acc n z).wave? (aMatCmd k 0 true).wave = some (wCmd n z) ∧ (aMatCmd k 0 true).started = true ∧
      (aMatCmd k 0 true).placed = true) ∧
    (∀ k, mget ((matCmdSt (aMatCmd k 0 true) (anAcc4 0) 3 2).core 0).acc (aMatCmd k 0 true).slot = some ⟨0, 8, 6, List.replicate 1024 0⟩) ∧
    (min (aMatCmd .drain 0 true).left (12 - (wCmd 0 2).mat.qz.length) = 10) ∧
    (let s := matCmdSt (aMatCmd (.ldb 0x1000 0 64) 0 true) [] 0 0;
      (s.rangeOf ⟨0, 0, false, 2⟩ .rd 0x1000 64).1.2 = none ∧ (s.rangeOf ⟨0, 0, false, 2⟩ .rd 0x1000 64).2.wave? 0 = some (wCmd 0 0)) ∧
    (mget (matCmdSt (aMatCmd (aMac 1 false 0) 0 true) (anAcc4 0) 3 0).blocks 0 = some testBlock ∧
      ∀ q ∈ ((matCmdSt (aMatCmd (aMac 1 false 0) 0 true) (anAcc4 0) 3 0).core 0).cmds, q.wave = 0 → q.uid < 7 → q.kind.fromQa = false) ∧
    (((aMatCmd (aMac 1 false 0) 0 true).took ++ (wCmd 3 0).mat.qa.take 3).length < 16 * 1 ∧
      16 * 1 ≤ ((aMatCmd (aMac 1 false 0) 0 true).took ++ (wCmd 16 0).mat.qa.take 16).length) ∧
    (((matCmdSt (aMatCmd .rel 0 true) [] 0 0).core 0).cmds = aMatCmd .rel 0 true :: [] ∧
      ((matCmdSt (aMatCmd .rel 0 true) [] 0 0).core 0).matClk + 2 ^ 20 ≤ ((matCmdSt (aMatCmd .rel 0 true) [] 0 0).die (0 / 40)).clk ∧
      (wCmd 0 0).ctl.a.takesNow = false ∧ (wCmd 0 0).ctl.b.takesNow = false ∧ (wCmd 0 0).ctl.a.wait ≠ some .sleep ∧
      (wCmd 0 0).ctl.b.wait ≠ some .sleep) := by
  refine ⟨fun _ _ _ _ => ⟨rfl, rfl, rfl⟩, fun _ => rfl, by decide +kernel, by decide +kernel, ⟨rfl, by decide +kernel⟩, by decide +kernel,
    rfl, by decide +kernel⟩

/-- The wave's cluster is leaving, with some of its waves captured; its latch holds a region. -/
def wOut (clk : Nat) : Wave :=
  { wv with leaving := true, regnClk := clk, latch := some ⟨.A, wv.regs, wv.ctl, wv.feed, wv.trap⟩,
            id := { wv.id with kern := { testKernel with mailboxes := false } } }
def outSt (captured : Option (List Nat)) (clk : Nat) (two : Bool) : State :=
  { (st (wOut clk)).setCore 0 {} with
    waves := if two then [(0, wOut clk), (1, wOut clk)] else [(0, wOut clk)], dies := [(0, { clk := 2 ^ 16 })]
    sched := { State.reset.sched with leaving := match captured with
      | some l => [⟨0, 0, l, [], 0⟩]
      | none => [] } }
theorem test_meets_PreemptionAndCapture :
    ((∀ l ∈ (outSt none 0 true).sched.leaving, l.cluster ≠ 0) ∧ (outSt none 0 true).clusterBlocks 0 = (0, testBlock) :: []) ∧
    (∀ c clk, (outSt c clk true).wave? 0 = some (wOut clk) ∧ (outSt c clk true).clusterOf (wOut clk) = some 0 ∧
      ((outSt c clk true).core (wOut clk).core).claims = []) ∧
    ((outSt none 0 true).frozen (wOut 0) = false ∧ (outSt (some []) 0 true).frozen (wOut 0) = true ∧ (wOut 0).drained = true ∧
      ({ wOut 0 with mem := { nLd := 1 } } : Wave).drained = false) ∧
    ((∀ l ∈ (outSt (some []) 1 true).sched.leaving, l.cluster = 0 → 0 ∉ l.captured) ∧
      (∃ e ∈ (outSt (some []) 1 true).clusterWaves 0, e.1 ≠ 0 ∧
        ∀ l ∈ (outSt (some []) 1 true).sched.leaving, l.cluster = 0 → e.1 ∉ l.captured)) ∧
    (((outSt (some []) 1 true).die 0).clk < (wOut 1).regnClk + 2 ^ 16 ∧ (wOut 0).regnClk + 2 ^ 16 ≤ ((outSt (some []) 0 true).die 0).clk) ∧
    ((outSt (some [0]) 0 false).frozen (wOut 0) = true ∧
      (outSt (some [0]) 0 false).sched.leaving.find? (fun l => l.cluster = 0) = some ⟨0, 0, [0], [], 0⟩ ∧
      (outSt (some [0]) 0 false).clusterWaves 0 = [(0, wOut 0)] ∧ (outSt (some [0]) 0 false).enginesDone 0 = true) := by
  refine ⟨⟨by decide +kernel, rfl⟩, ?_, by decide +kernel, ⟨by decide +kernel, (1, wOut 1), by decide +kernel, by decide +kernel,
    by decide +kernel⟩, by decide +kernel, by decide +kernel⟩
  intro c clk
  exact ⟨rfl, rfl, rfl⟩
/-- The image of a cluster of one wave and one block, and a core that has its carve. -/
def anImage : Image :=
  { ctx := 0, cluster := 0, task := 0, moved := false, blocks := [(0, { testBlock with carve := 1, padAll := 64 })], waves := [(0, wv)],
    pads := [(0, List.replicate 64 1)], vaults := [], accs := [], cmds := [] }
def imageSt (ctxs : Map Ctx) : State :=
  { ({ State.reset with agenda := [], ctxs := ctxs } : State).setCore 0
      { carve := 1, records := [⟨0, 0, 3, 4, 0, 0⟩] } with
    dies := [(0, {})], sched := { State.reset.sched with images := [(0, anImage)] } }
theorem test_meets_ClustersReturn :
    (∀ c, (imageSt c).sched.images.find? (fun e => e.2.cluster = 0) = some (0, anImage)) ∧
    (imageSt []).liveCtx 0 = none ∧ (imageSt [(0, cx)]).liveCtx 0 = some cx ∧
    (imageSt [(0, cx)]).wave? 0 = none ∧ (∀ e ∈ (imageSt [(0, cx)]).waves, e.1 / 12 = 0 / 12 → e.2.id.ctx = 0) ∧
    (imageSt [(0, cx)]).takesBack anImage 0 (0 / 96) { testBlock with carve := 1, padAll := 64 } = some 0 ∧
    (List.replicate 64 (1 : Byte)).length = 64 ∧ (wv.slot .A).only ≠ some 0 ∧ (wv.slot .B).only ≠ some 0 ∧
    ((imageSt [(0, cx)]).core (0 / 96)).records.find? (fun r => r.slot = 0 % 96 && r.ctx = 0 && r.windex = 0) =
      some ⟨0, 0, 3, 4, 0, 0⟩ ∧
    (({ imageSt [(0, cx)] with waves := [(0, wv)] } : State).seats anImage).isNone = true := by
  refine ⟨fun _ => rfl, ?_⟩
  decide +kernel
/-- Page 2 of context 0 lies in frame 3 of die 0, under a leaf with SHARE set; the context's home is die 1. -/
def pageSt (i : PageInfo) (c : Ctx) : State :=
  { mst wv with
    time := 3000000, ctxs := [(0, c)], mem := pokeAll (mst wv).mem (cellsAt 0x1010 (bytesOfNat 8 0x000100000000311D))
    vm := { (mst wv).vm with pages := [i] }, regs := (mst wv).regs ++ [(regKey 0 (oMod 0x00), 2), (regKey 0 (oMod 0x04), 1000), (regKey 0 (oMod 0x0C), 1000)] }
def anInfo (n pin : Nat) (h : Option (Nat × BitVec 128)) : PageInfo := ⟨0, 2, List.replicate n 2500000, [2400000, 2600000], pin, h⟩
def cxAway : Ctx := { cx with home := 1, pool := [2 ^ 37 + 4096], dom := some 5, dkey := 9 }
/-- The reply ring of function 0 at 0x8000 of the host: one record, for request 7 of die 0. -/
def replySt (status rid gen : Nat) (v : Wave) : State :=
  { st v with
    mem := pokeAll [] (cellsAt (hostKey 0x8000) (bytesOfNat 16 (status + gen * 2 ^ 32 + rid * 2 ^ 48)))
    regs := [(regKey 0 (oPage 0 0x18), 0x8000), (regKey 0 (oPage 0 0x20), 16), (regKey 0 (oPage 0 0x24), 1)]
    dies := [(0, { reqs := [⟨7, 0, 2, 0, 0, true⟩] })] }
/-- A wave whose slot A waits for page 2. -/
def wPage : Wave := wv.setSlot .A { wv.slot .A with wait := some .page, asked := some (2, 0) }
theorem test_meets_PagesAnswerAndMove_replies :
    (∀ r q g v, (replySt r q g v).trust.boot_step = 6) ∧
    (let s := replySt 0 7 0 wPage;
      ringLen (s.reg 0 (oPage 0 0x20)) ≠ 0 ∧ s.reg 0 (oPage 0 0x28) ≠ s.reg 0 (oPage 0 0x24) ∧
      (let n := s.peekN (hostKey (s.reg 0 (oPage 0 0x18) + 16 * (s.reg 0 (oPage 0 0x28) % ringLen (s.reg 0 (oPage 0 0x20))))) 16;
        fieldOf n 47 46 = 0 ∧ fieldOf n 21 12 = 0 ∧ fieldOf n 63 48 = 7 ∧ fieldOf n 39 32 = 0 ∧ fieldOf n 1 0 = 0) ∧
      (s.die 0).reqs.find? (fun r => r.rid = 7 && r.ctx = 0) = some ⟨7, 0, 2, 0, 0, true⟩ ∧ s.liveCtx 0 = some cx ∧
      (mgetD s.ctxGen 0 0).toNat = 0 ∧ s.crowded 0 = false ∧
      (∀ e ∈ s.waves, e.2.mem.miss = [] ∧ e.2.trap.asked = none ∧ e.2.trap.queue = [] ∧ e.2.trap.running = none) ∧
      s.wave? 0 = some wPage ∧ (wPage.slot .A).wait = some .page ∧ (wPage.slot .A).asked = some (2, 0)) ∧
    ((replySt 0 8 0 wPage).die 0).reqs.find? (fun r => r.rid = 8 && r.ctx = 0) = none ∧
    (mgetD (replySt 0 7 1 wPage).ctxGen 0 0).toNat ≠ 1 ∧
    fieldOf ((replySt 1 7 0 wPage).peekN (hostKey 0x8000) 16) 1 0 ≠ 0 := by
  refine ⟨fun _ _ _ _ => rfl, ?_⟩
  decide +kernel
theorem test_meets_PagesAnswerAndMove_moves :
    (let s := pageSt (anInfo 256 0 none) cxAway;
      s.liveCtx 0 = some cxAway ∧ s.s2leaf 0 (2 * 4096) = .leaf 0x000100000000311D 0 0x1010 ∧ 2 % 512 ^ 0 = 0 ∧
      s.info 0 2 = anInfo 256 0 none ∧
      256 ≤ ((s.info 0 2).times.filter fun t => decide (s.time < t + 1000000)).length ∧ eBit 0x000100000000311D 1 = false ∧
      eBit 0x000100000000311D 9 = false ∧ eBit 0x000100000000311D 11 = false ∧ dieOfFrame (eDev 0x000100000000311D) ≠ cxAway.home ∧
      (∀ k, k < 512 ^ 0 → s.frameBusy (eDev 0x000100000000311D / 4096 + k) = false) ∧
      s.copyFails (s.s2key 0 0x000100000000311D 12 (2 * 4096)) (4096 * 512 ^ 0) (eKid 0x000100000000311D) = none ∧
      cxAway.runOn (some cxAway.home) (512 ^ 0) = some (2 ^ 37 + 4096) ∧ 0x1010 + 8 ≤ 2 ^ 37 + 4096 ∧
      (∀ p ∈ eDev 0x000100000000311D :: cxAway.pool, s.spent (p / 4096) = false) ∧
      max 1 (s.reg 0 (oMod 0x00)) ≤ (s.recentMoves (s.info 0 2).migrations).length) ∧
    (let s := pageSt (anInfo 255 0 none) cxAway;
      ((s.info 0 2).times.filter fun t => decide (s.time < t + 1000000)).length < 256) ∧
    (let s := pageSt (anInfo 0 3000000 none) cxAway;
      (s.info 0 2).pinUntil ≠ 0 ∧ (s.info 0 2).pinUntil ≤ s.time) ∧
    (let s := pageSt (anInfo 0 3000001 none) cxAway;
      s.time < (s.info 0 2).pinUntil) := by decide +kernel
/-- A directory bucket with an entry of the page's hash and bytes; one that is full. -/
def anEntryOf (h : BitVec 128) (ref frame : Nat) : DayEntry := ⟨h, ref, 5, frame, false, 0, false⟩
def shareSt (i : PageInfo) (l : List DayEntry) : State :=
  { pageSt i cxAway with dies := [(0, { day := [(0, l)] })], vm := { (pageSt i cxAway).vm with lastWrite := [(3, 1000)] } }
theorem test_meets_PagesAreShared :
    (∀ i l, (shareSt i l).liveCtx 0 = some cxAway ∧ cxAway.dom = some 5) ∧
    (let s := shareSt (anInfo 0 0 (some (2000001, 0))) [anEntryOf 0 1 3];
      let e : DWord := 0x000100000000311D;
      s.pageLeaf 0 2 = some e ∧ s.smallLeaf 0 2 = some (e, 0x1010) ∧
      -- alike: unwritten for the quiet time of 1 ms
      (eBit e 0 = true ∧ eBit e 8 = true ∧ eBit e 9 = false ∧ eBit e 11 = false ∧
        1000 * s.reg 0 (oMod 0x0C) ≠ 0 ∧ mgetD s.vm.lastWrite 3 0 + 1000 * s.reg 0 (oMod 0x0C) ≤ s.time) ∧
      s.pageFails 0 2 e = false ∧ (s.info 0 2).hashed = some (2000001, 0) ∧ s.frameBusy (eDev e / 4096) = false ∧
      s.outOfTurn 0 (dieOfFrame (eDev e)) = false ∧ mgetD s.vm.lastWrite 3 0 < 2000001 ∧ s.bucket 0 = [anEntryOf 0 1 3] ∧
      (∀ p ∈ eDev e :: cxAway.pool, s.spent (p / 4096) = false)) ∧
    (let s := (shareSt (anInfo 0 0 (some (1000, 0))) []).setReg 0 (oMod 0x0C) 0;
      1000 ≤ mgetD s.vm.lastWrite 3 0 ∧ 1000 * s.reg 0 (oMod 0x0C) = 0 ∧ cxAway.sealed = false) ∧
    -- a merge of die 0 after one of die 1 in the same clk
    (((shareSt (anInfo 0 0 (some (2000001, 0))) []).noteOp 0 1).outOfTurn 0 0 = true) ∧
    (∃ b, bucketPut [] ⟨0, 1, 5, 3, false, 0, false⟩ false = some b) ∧
    bucketPut (List.replicate 8 (anEntryOf 1 1 9)) ⟨0, 1, 5, 3, false, 0, false⟩ false = none := by
  refine ⟨fun _ _ => ⟨rfl, rfl⟩, by decide +kernel, by decide +kernel, by decide +kernel, ⟨_, rfl⟩, by decide +kernel⟩
theorem peek_add (s : State) (k a b : Nat) : s.peek k (a + b) = s.peek k a ++ s.peek (k + a) b := by
  induction a generalizing k with
  | zero => simp [State.peek]
  | succ a ih =>
    rw [show a + 1 + b = (a + b) + 1 by omega]
    simp [State.peek, ih, Nat.add_assoc, Nat.add_comm 1 a]
theorem page_is (s : State) (e : DWord) (k n : Nat) (hn : n = 1024)
    (h : ∀ i ∈ [0, 1, 2, 3], s.s2key 0 e 12 (2 * 4096 + 1024 * i) = k + n * i) : s.peek k (n + n + n + n) = s.pageBytes 0 2 e := by
  have hr : List.range 4 = [0, 1, 2, 3] := rfl
  rw [State.pageBytes, hr]
  simp only [List.flatMap_cons, List.flatMap_nil, h 0 (by simp), h 1 (by simp), h 2 (by simp), h 3 (by simp)]
  rw [← hn]
  simp only [peek_add, List.append_nil, List.append_assoc]
  rw [show k + n * 0 = k by omega, show k + n * 1 = k + n by omega, show k + n * 2 = k + (n + n) by omega,
    show k + n * 3 = k + (n + n + n) by omega]
/-- The entry's frame holds the page's bytes, and it may or may not count one reference more. -/
theorem test_meets_PagesAreShared_like :
    let s := shareSt (anInfo 0 0 (some (2000, 0))) [];
    let like := fun (g : DayEntry) => g.ref ≠ 0 && g.hash = 0 && g.dom = 5 && s.peek (s.frameKey g.frame) (1024 + 1024 + 1024 + 1024) = s.pageBytes 0 2 0x000100000000311D
    ∀ ref, ref ≠ 0 → [anEntryOf 0 ref 3].findIdx? like = some 0 := by
  intro s like ref h
  have hb : s.peek (s.frameKey 3) (1024 + 1024 + 1024 + 1024) = s.pageBytes 0 2 0x000100000000311D :=
    page_is s _ _ 1024 rfl (by decide +kernel)
  simp only [List.findIdx?_cons, like, anEntryOf, hb]
  simp [h]
/-- A frame that is its own page table at every level: each of its entries names it. -/
def selfTable (n : Nat) : List Host.Cell := (List.range n).flatMap fun i => [(0x1000 + 8 * i, 0x01), (0x1001 + 8 * i, 0x10)]
theorem mget_append {α : Type} (a b : Map α) (k : Nat) : mget (a ++ b) k = (mget a k).or (mget b k) := by
  induction a with
  | nil => rfl
  | cons c a ih =>
    obtain ⟨j, x⟩ := c
    by_cases h : j = k <;> simp [mget, h, ih]
theorem mget_selfTable (n i : Nat) (hi : i < n) :
    mget (selfTable n) (0x1000 + 8 * i) = some 0x01 ∧ mget (selfTable n) (0x1001 + 8 * i) = some 0x10 ∧
    ∀ j, 2 ≤ j → j < 8 → mget (selfTable n) (0x1000 + 8 * i + j) = none := by
  have none_ : ∀ n k, (∀ i, i < n → k ≠ 0x1000 + 8 * i ∧ k ≠ 0x1001 + 8 * i) → mget (selfTable n) k = none := by
    intro n k
    induction n with
    | zero => intro _; rfl
    | succ n ih =>
      intro h
      have := h n (by omega)
      rw [selfTable, List.range_succ, List.flatMap_append, mget_append]
      rw [show (List.range n).flatMap _ = selfTable n from rfl, ih fun i hi => h i (by omega)]
      simp [mget, this.1.symm, this.2.symm]
  refine ⟨?_, ?_, fun j h2 h8 => none_ _ _ fun m _ => by omega⟩
  all_goals
    induction n with
    | zero => omega
    | succ n ih =>
      rw [selfTable, List.range_succ, List.flatMap_append, mget_append]
      rw [show (List.range n).flatMap _ = selfTable n from rfl]
      by_cases h : i < n
      · rw [ih h]; rfl
      · obtain rfl : i = n := by omega
        rw [none_ _ _ fun m _ => by omega]
        simp [mget]
def runOf (n : Nat) : List Nat := (List.range n).map fun i => 2 ^ 21 + 4096 * i
def promoSt (n : Nat) : State :=
  { st wv with
    mem := selfTable n, regs := [(regKey 0 (oCtx 0 8), 0x1000)]
    ctxs := [(0, { cx with pool := runOf n })] }
theorem promo_entry (n i : Nat) (hi : i < n) : (promoSt n).peekN (devKey (0x1000 + 8 * i)) 8 = 0x1001 := by
  obtain ⟨h0, h1, hn⟩ := mget_selfTable n i hi
  have b (k : Nat) : memByte (promoSt n).mem k = (mget (selfTable n) k).getD 0 := rfl
  simp only [State.peekN, State.peek, devKey, natOfBytes, b]
  have a (j : Nat) (h2 : 2 ≤ j) (h8 : j < 8) (k : Nat) (hk : k = 4096 + 8 * i + j) : mget (selfTable n) k = none := by
    rw [hk]
    exact hn j h2 h8
  rw [h0, show 4096 + 8 * i + 1 = 4097 + 8 * i by omega, h1, a 2 (by omega) (by omega) _ (by omega),
    a 3 (by omega) (by omega) _ (by omega), a 4 (by omega) (by omega) _ (by omega), a 5 (by omega) (by omega) _ (by omega),
    a 6 (by omega) (by omega) _ (by omega), a 7 (by omega) (by omega) _ (by omega)]
  rfl
theorem promo_leaf (n i : Nat) (hi : i < n) (h512 : i < 512) : (promoSt n).smallLeaf 0 i = some (0x1001, 0x1000 + 8 * i) := by
  have r : (promoSt n).s2root 0 = 0x1000 := rfl
  have w3 : walkIx (i * 4096) 3 = 0 := by simp [walkIx]; omega
  have w2 : walkIx (i * 4096) 2 = 0 := by simp [walkIx]; omega
  have w1 : walkIx (i * 4096) 1 = 0 := by simp [walkIx]; omega
  have w0 : walkIx (i * 4096) 0 = i := by simp [walkIx]; omega
  have e0 := promo_entry n 0 (by omega)
  have ei := promo_entry n i hi
  have d : eDev (BitVec.ofNat 64 4097) = 4096 := by decide +kernel
  have o : eOut (BitVec.ofNat 64 4097) = 4096 := by decide +kernel
  have t7 : Nat.testBit 4097 7 = false := by decide
  have t6 : Nat.testBit 4097 6 = false := by decide
  have t5 : Nat.testBit 4097 5 = false := by decide
  simp [State.smallLeaf, State.s2leaf, State.s2walk, r, w3, w2, w1, w0, e0, ei, d, o, eBit, t7, t6, t5]
theorem promo_leaves (n : Nat) (h : 512 ≤ n) :
    (List.range 512).filterMap (fun i => ((promoSt n).smallLeaf 0 (512 * 0 + i)).map (·.1)) = (List.range 512).map fun _ => 0x1001 := by
  rw [← List.filterMap_eq_map]
  refine List.filterMap_congr fun i hi => ?_
  have := List.mem_range.mp hi
  rw [Nat.mul_zero, Nat.zero_add, promo_leaf n i (by omega) this]
  rfl
theorem run_found (d n m : Nat) (hd : dieOfFrame 2097152 = d) (hn : n = 511) (hm : m = n + 1) (c : Ctx) (hc : c.pool = runOf m) :
    c.runOn (some d) m = some 2097152 := by
  have hp : c.pool = 2097152 :: (List.range n).map fun i => 2097152 + 4096 * (i + 1) := by
    rw [hc, hm, runOf, List.range_succ_eq_map]
    simp [Function.comp_def]
  have hi : ∀ i < m, 2097152 + 4096 * i ∈ c.pool := fun i hi => by
    rw [hc]
    exact List.mem_map.mpr ⟨i, List.mem_range.mpr hi, rfl⟩
  have hf : c.pool.filter (fun p => decide (dieOfFrame p = d) && decide (p % (4096 * m) = 0) &&
      (List.range m).all fun i => c.pool.contains (p + 4096 * i)) = [2097152] := by
    generalize hl : c.pool = l at hi ⊢
    rw [hp] at hl
    refine (congrArg (List.filter _) hl.symm).trans ?_
    rw [List.filter_cons_of_pos, List.filter_eq_nil_iff.mpr fun p hp => ?_]
    · obtain ⟨i, hi, rfl⟩ := List.mem_map.mp hp
      have := List.mem_range.mp hi
      have : (2097152 + 4096 * (i + 1)) % (4096 * m) ≠ 0 := by subst hn hm; omega
      simp [this]
    · rw [Bool.and_eq_true, Bool.and_eq_true]
      refine ⟨⟨decide_eq_true hd, by rw [hm, hn]; decide⟩, List.all_eq_true.mpr fun i h => ?_⟩
      exact List.contains_iff_mem.mpr (hi i (List.mem_range.mp h))
  unfold Ctx.runOn
  dsimp only
  rw [hf]
  rfl
theorem promo_from (s : State) (ctx range d m : Nat) (hm : m = 511)
    (h : (List.range 512).filterMap (fun i => (s.smallLeaf ctx (512 * range + i)).map (·.1)) = (List.range 512).map fun _ => 0x1001)
    (hd : promoOk d 0x1001 = true) : s.promoLeaves ctx range d = some ((List.range 512).map fun _ => 0x1001) := by
  have hl : (List.range 512).map (fun _ => (0x1001 : DWord)) = 0x1001 :: (List.range m).map fun _ => 0x1001 := by
    rw [show 512 = m + 1 by omega, List.range_succ_eq_map, List.map_cons, List.map_map]
    rfl
  have hok : promoOk d (4097#64) = true := hd
  unfold State.promoLeaves
  rw [h, hl]
  dsimp only
  rw [if_pos]
  refine ⟨by rw [List.length_cons, List.length_map, List.length_range, hm], ?_⟩
  simp [hok]
theorem test_meets_PagesAnswerAndMove_promotion :
    (promoSt 512).liveCtx 0 = some { cx with pool := runOf 512 } ∧
    (promoSt 512).smallLeaf 0 0 = some (0x1001, 0x1000) ∧
    (promoSt 512).promoLeaves 0 (0 / 512) (dieOfFrame (eDev 0x1001)) = some ((List.range 512).map fun _ => 0x1001) ∧
    ({ cx with pool := runOf 512 } : Ctx).runOn (some (dieOfFrame (eDev 0x1001))) 512 = some 2097152 ∧
    ∀ q ∈ (List.range 512).map (fun _ => (0x1001 : DWord)), 
      (promoSt 512).frameBusy (eDev q / 4096) = false ∧ (promoSt 512).copyFails (devKey (eDev q)) 4096 (eKid q) = none := by
  have hp (n : Nat) : ({ cx with pool := runOf n } : Ctx).pool = runOf n := rfl
  have hc (n : Nat) : (promoSt n).liveCtx 0 = some { cx with pool := runOf n } := rfl
  refine ⟨hc 512, promo_leaf 512 0 (by omega) (by omega), ?_, run_found _ 511 512 (by decide +kernel) rfl rfl _ (hp 512), ?_⟩
  · exact promo_from _ _ _ _ 511 rfl (promo_leaves 512 (Nat.le_refl _)) (by decide +kernel)
  · intro q hq
    obtain ⟨_, _, rfl⟩ := List.mem_map.mp hq
    decide +kernel
/-- A task of context 0 of one block of one wave, whose kernel is at 0x1000 and whose wave's area is at 0x3000. -/
def aCard (cls : Nat) (tiles : List (DWord × Nat)) : Card :=
  { cardOf (List.replicate 128 0) with kernel := 0x1000, cls := cls, tiles := tiles, privsz := 2, priv := 0x3000 }
def aTask (z : Card) (q : TaskSt) : Task := { ctx := 0, launch := 3, card := z, st := q }
/-- Memory: a kernel header at 0x1000, a tile record at 0x1100, and the area's two pages; one core of a die is usable and
reports its room. -/
def schedSt (tasks : Map Task) (queue : List Pending) (header full : Nat) : State :=
  { mst wv with
    time := 5000, waves := [], blocks := [], ctxs := [(0, { cx with credit := 10 })]
    mem := pokeAll (mst wv).mem (cellsAt 0x2018 (bytesOfNat 8 0x2011 ++ bytesOfNat 8 0x2011) ++
      cellsAt 0x3000 (bytesOfNat 16 (header + 2 ^ 40 + 64 * 2 ^ 64 + 8 * 2 ^ 96)) ++ cellsAt 0x3100 [BitVec.ofNat 8 full])
    sched := { State.reset.sched with tasks := tasks }
    dies := [(0, { queue := queue, report := ⟨96, 512, [(0, 96, 512)]⟩ })] }
def sent (cls : Nat) (tiles : List (DWord × Nat)) (q : TaskSt) (header full : Nat) : State :=
  schedSt [(0, aTask (aCard cls tiles) q)] [] header full
theorem test_meets_TasksAreSent_dispatch :
    (∀ c l e h f, (sent c l (.eligible e) h f).task? 0 = some (aTask (aCard c l) (.eligible e))) ∧
    (∀ c l e, (aTask (aCard c l) (.eligible e)).st = .eligible e ∧ (aTask (aCard c l) (.eligible e)).status = none) ∧
    (let t := aTask (aCard 0 [(0x1100, 1)]) (.eligible 1);
      let s := sent 0 [(0x1100, 1)] (.eligible 1) 0x4B475341 0;
      s.first 0 t = true ∧ s.sendable t = true ∧ (s.recordsBad 0 (tilesUp t.card.tiles)).1 = none ∧
      ((s.recordsBad 0 (tilesUp t.card.tiles)).2.reserve 0 (tilesUp t.card.tiles)).1 = true ∧
      (s.recordsBad 0 (tilesUp t.card.tiles)).2.recordKey 0 0x1100 = some 0x3100 ∧
      (match ((s.recordsBad 0 (tilesUp t.card.tiles)).2.access
          ((s.recordsBad 0 (tilesUp t.card.tiles)).2.beacon 0) .wr false 0 0x1100 64).1 with
        | .ok a => a.keys.headD 0
        | _ => 0) = 0x3100 ∧
      modeMet 1 ((s.recordsBad 0 (tilesUp t.card.tiles)).2.peekN 0x3100 64) = true) ∧
    (let t := aTask (aCard 4 [(0x1100, 2)]) (.eligible 1);
      let s := sent 4 [(0x1100, 2)] (.eligible 1) 0x4B475341 1;
      s.first 0 t = true ∧ s.sendable t = true ∧ (s.recordsBad 0 (tilesUp t.card.tiles)).1 = none ∧
      modeMet 2 ((s.recordsBad 0 (tilesUp t.card.tiles)).2.peekN 0x3100 64) = true ∧
      recRdr ((s.recordsBad 0 (tilesUp t.card.tiles)).2.peekN 0x3100 64) ≠ 255) ∧
    (let t := aTask (aCard 0 [(0x1100, 1)]) (.eligible 1);
      let s := sent 0 [(0x1100, 1)] (.eligible 1) 0x4B475341 1;
      (s.recordsBad 0 (tilesUp t.card.tiles)).1 = none ∧
      ((s.recordsBad 0 (tilesUp t.card.tiles)).2.reserve 0 (tilesUp t.card.tiles)).1 = false) := by
  refine ⟨fun _ _ _ _ _ => rfl, fun _ _ _ => ⟨rfl, rfl⟩, ?_⟩
  decide +kernel
theorem test_meets_TasksAreSent_batch :
    (let t := aTask (aCard 0 []) .dispatched;
      let s := sent 0 [] .dispatched 0x4B475341 0;
      s.task? 0 = some t ∧ t.card.cls = 0 ∧ (mget s.ctxs 0).map (fun c => c.credit) = some 10 ∧ s.batchDie t = some 0 ∧
      s.batchSize t 0 = 1 ∧ s.time / 512 - s.sched.period ≠ 0) ∧
    ({ cx with credit := 0 } : Ctx).credit ≤ 0 := by decide +kernel
/-- The line of the write. -/
def aLine : LineRef := ⟨0xC0, 1, false⟩
theorem test_meets_BuoysTrade :
    (let s := schedSt [(0, aTask (aCard 0 []) .dispatched)] [⟨0, 0, 0, 0⟩] 0x4B475341 0;
      let idle := { s with dies := [(0, { report := ⟨16, 0, []⟩ }), (1, {})] };
      (s.die 0).usable = true ∧ (s.die 0).queue ≠ [] ∧
      (idle.die 0).asked = none ∧ (idle.die 0).queue = [] ∧ (idle.die 0).idleSince + 2000 ≤ idle.time ∧ 16 ≤ (idle.die 0).report.slots ∧
      (idle.die 1).usable = true) ∧
    (let s := schedSt [(0, aTask (aCard 0 []) .dispatched)] [] 0x4B475341 0;
      let s := { s with dies := [(0, { asked := some (1, 16) }), (1, { queue := [⟨0, 0, 0, 0⟩] })] };
      (s.die 0).asked = some (1, 16) ∧ (s.donate 0 (s.die 1).queue 16).1 ≠ []) ∧
    -- a request's turn to be sent again: not yet, accepted for its age or a free place, and refused again
    (let e : StoreE := { aWrite false with lines := [aLine], hint := some 1024 };
      let s := fun (now share : Nat) =>
        { ((State.reset.setCore 0 { path := [{ aWrite false with lines := [aLine] }, e] }).setReg 0 (oSched 0 0x0C) share) with time := now };
      (((s 0 1).core (1 / 2 ^ 16)).path[1 % 2 ^ 16]? = some e ∧ e.hint = some 1024 ∧ (s 0 1).time < 1024) ∧
      (1024 ≤ (s 1024 1).time ∧ e.stamp + 2 ≤ (s 1024 1).time / 512 ∧
        ∀ q ∈ ((s 1024 1).core 0).path.take 1, q.hint.isSome = false)) ∧
    (let e : StoreE := { aWrite false with lines := [aLine], hint := some 8 };
      let cap := fun (n : Nat) => if 1 ≤ n ∧ n ≤ 64 then n else 64;
      let s := fun (share : Nat) =>
        { ((State.reset.setCore 0 { path := [{ aWrite false with lines := [aLine] }, e] }).setReg 0 (oSched 0 0x0C) share) with time := 8 };
      8 ≤ (s 1).time ∧ ¬ e.stamp + 2 ≤ (s 1).time / 512 ∧ e.slices ≠ [] ∧
      (∃ l ∈ e.slices, cap ((s 1).reg 0 (oSched 0 0x0C)) ≤ (s 1).queuedAt 0 l) ∧
      ¬ ∃ l ∈ e.slices, cap ((s 2).reg 0 (oSched 0 0x0C)) ≤ (s 2).queuedAt 0 l) := by decide +kernel
/-- A cluster of the task in the queue of die 0. -/
def placeSt (z : Card) (header : Nat) : State := schedSt [(0, aTask z .dispatched)] [⟨4, 0, 0, 0⟩] header 0
def gotBad (r : Got (Kernel × Map DWord)) : Option Nat := match r with
  | .bad c => some c
  | _ => none
def gotOk (r : Got (Kernel × Map DWord)) : Option Kernel := match r with
  | .ok k => some k.1
  | _ => none
/-- What the Buoy has read for it. -/
def plan (z : Card) (header : Nat) : Got (Kernel × Map DWord) × State := (placeSt z header).readAll ⟨0, 0, true, 2⟩ (aTask z .dispatched) 0
theorem test_meets_BlocksArePlaced_reads :
    ((placeSt (aCard 0 []) 0x4B475341).die 0).queue[0]? = some ⟨4, 0, 0, 0⟩ ∧
    (placeSt (aCard 0 []) 0x4B475341).task? 0 = some (aTask (aCard 0 []) .dispatched) ∧
    ((placeSt (aCard 0 []) 0x4B475341).liveCtx 0).isSome = true ∧ (aCard 0 []).blocks = 1 ∧ (aCard 0 []).waves = [0].length ∧
    gotBad (plan (aCard 0 []) 0x4B475340).1 = some 0 ∧
    (gotOk (plan (aCard 0 []) 0x4B475341).1).map (fun k => (k.granules, k.padBytes)) = some (1, 0) := by decide +kernel
theorem test_meets_BlocksArePlaced_fits :
    ((plan (aCard 0 []) 0x4B475341).2.coresOf 0).find? (fun q => ((plan (aCard 0 []) 0x4B475341).2.fitsCore q 0 0 1 1 0 0 0).isSome) =
      some 0 ∧
    (plan (aCard 0 []) 0x4B475341).2.fitsCore 0 0 0 1 1 0 0 0 = some (0, [0]) ∧
    ((placeSt (aCard 0 []) 0x4B475341).coresOf 0).all (fun q => ((placeSt (aCard 0 []) 0x4B475341).fitsCore q 0 0 1 1 1 0 0).isNone) =
      true := by
  decide +kernel
def carveSt : State := placeSt { aCard 0 [] with carve := 1 } 0x4B475341
theorem test_meets_BlocksArePlaced_carve :
    (carveSt.die 0).queue = ⟨4, 0, 0, 0⟩ :: [] ∧ 0 + 2000 ≤ carveSt.time ∧
    (List.range 40).all (fun c => (carveSt.core c).carveTo = none) = true ∧ 0 ∈ carveSt.coresOf 0 ∧
    (carveSt.coresOf 0).all (fun c => (carveSt.core c).carve ≠ 1 && decide ((carveSt.wavesOn 0).length ≤ (carveSt.wavesOn c).length)) =
      true := by decide +kernel
def growSt (l : Map Block) : State :=
  { (placeSt (aCard 0 []) 0x4B475341).setCore 0 { carve := 2, carveTo := some (1, 4) } with blocks := l }
theorem test_meets_BlocksArePlaced_change :
    (∀ l, ((growSt l).core 0).carveTo = some (1, 4)) ∧ 1 ≤ ((growSt []).core 0).carve ∧ (∀ b ∈ (growSt []).blocksOn 0, b.padOfs + b.padAll ≤ 1 * 65536) ∧
    ((growSt [(0, { testBlock with padOfs := 65536 })]).blocksOn 0).any (fun b => 1 * 65536 < b.padOfs + b.padAll) = true :=
  ⟨fun _ => rfl, by decide +kernel, by decide +kernel, by decide +kernel⟩
/-- A gang task whose members number n. -/
def gangSt (n time : Nat) (gangs : List (Nat × Nat × List Nat)) : State :=
  let s := schedSt [(0, aTask { aCard 1 [] with gang := true, gangId := 7, tick := 6000, gangMembers := n } .dispatched)] [] 0x4B475341 0
  { s with time := time, sched := { s.sched with gangs := gangs } }
/-- A task whose work is done, with a tile record and a completion record. -/
def doneSt (z : Card) : State := schedSt [(0, { aTask z .dispatched with sent := 1, jobsEnded := [0], ended := some 4000 })] [] 0x4B475341 0
theorem test_meets_GangsAndTaskEnds_gangs :
    (gangSt 1 3999 []).gangTick 7 = some 6000 ∧ (gangSt 1 3999 []).time + 2000 < 6000 ∧ 6000 ≤ (gangSt 1 4000 []).time + 2000 ∧
    (gangSt 1 4000 []).sched.gangs.find? (fun g => g.1 = 7 && g.2.1 = 6000) = none ∧ 6000 ≤ (gangSt 1 6000 [(7, 6000, [0])]).time ∧
    (((gangSt 1 6000 [(7, 6000, [0])]).gangOf 7 6000).all fun e => [0].contains e.1 && e.2.card.gangMembers = 1) = true ∧
    ((gangSt 2 6000 []).gangOf 7 6000).map (fun e => e.1) = [0] ∧ (gangSt 2 6000 []).cores.all (fun c => c.2.claims = []) = true := by
  decide +kernel
def doneTask (z : Card) : Task := { aTask z .dispatched with sent := 1, jobsEnded := [0], ended := some 4000 }
theorem test_meets_GangsAndTaskEnds_plain :
    (doneSt (aCard 0 [])).task? 0 = some (doneTask (aCard 0 [])) ∧ ((doneSt (aCard 0 [])).liveCtx 0).isSome = true ∧
    (doneTask (aCard 0 [])).frame = none ∧ (doneSt (aCard 0 [])).taskBusy 0 (doneTask (aCard 0 [])) = false ∧
    (doneTask (aCard 0 [])).card.tiles = [] ∧ (doneTask (aCard 0 [])).card.compl = 0 ∧ (doneTask (aCard 0 [])).status = none ∧
    (doneTask (aCard 0 [])).ended ≠ none ∧ (doneSt (aCard 0 [])).writesLeft 0 = false ∧
    (doneSt (aCard 0 [])).taskBusy 0 { doneTask (aCard 0 []) with ended := none } = false ∧
    ((doneSt (aCard 0 [])).setCore 0 { path := [{ aWrite false with wave := noWave }] }).writesLeft 0 = true ∧
    (sent 0 [] .dispatched 0x4B475341 0).taskBusy 0 (aTask (aCard 0 []) .dispatched) = true := by decide +kernel
/-- With a completion record at 0x1200. -/
def complCard : Card := { aCard 0 [] with compl := 0x1200 }
def complSt : State := (doneSt complCard).setTask 0 { doneTask complCard with status := some (1, 0), missed := none }
theorem test_meets_GangsAndTaskEnds_record :
    (complSt.rangeOf (complSt.beacon 0) .wr complCard.compl 16).1.2.isNone = true := by decide +kernel
/-- The tile's accesses, one after the other. -/
def tileReach (s : State) : Option (Nat × Bool) :=
  match s.access (s.beacon 0) .rd false 0 0x1100 64 with
  | (.ok _, s1) => match s1.access (s.beacon 0) .wr false 0 0x1100 64 with
    | (.ok b, s2) => some (b.keys.headD 0, decide ((s2.access (s2.beacon 0) .wr false 0 0x1100 64).1 = .ok b))
    | _ => none
  | _ => none
theorem test_meets_GangsAndTaskEnds_tile : tileReach (doneSt (aCard 0 [(0x1100, 1)])) = some (0x3100, true) := by decide +kernel
/-- A render target of two pixels at 0x1300, described at 0x1240; a task of one job with a record at 0x1200. -/
def tgtDesc : Nat := 0x1300 + 1 * 2 ^ 64 + 64 * 2 ^ 96
def jobState (cls : Nat) (record : Nat) : State :=
  let s := schedSt [(0, aTask { aCard cls [] with kernel := 0x1200 } .dispatched)] [] 0x4B475341 0
  { s with mem := pokeAll s.mem (cellsAt 0x3200 (bytesOfNat 64 record) ++ cellsAt 0x3240 (bytesOfNat 64 tgtDesc) ++
      cellsAt 0x3280 (bytesOfNat 64 (0x1240 + 2 * 2 ^ 272))), regs := s.regs ++ [(regKey 0 (oCtx 0 0x30), 0x1280)] }
def jobOf (cls : Nat) : Task := aTask { aCard cls [] with kernel := 0x1200 } .dispatched
def readBytes (s : State) (va : DWord) (n : Nat) : Option (Bytes × State) :=
  match s.buoyRead (engineAt 0 0) va n with
  | (.ok b, s1) => some (b, s1)
  | _ => none
theorem test_meets_EngineJobs_tasks :
    (jobState 1 0).jobTask 0 0 1 = some (jobOf 1) ∧ (jobState 2 0).jobTask 0 0 2 = some (jobOf 2) ∧
    (jobState 3 0).jobTask 0 0 3 = some (jobOf 3) ∧ (jobState 4 0).jobTask 0 0 4 = some (jobOf 4) ∧
    (∀ d ∈ (jobState 2 0).gfx.draws, ¬ (d.task = 0 ∧ d.job = some 0)) ∧
    (match ((jobState 1 0).buoyRead (engineAt 0 0) 0x5000 32).1 with
      | .bad c => c
      | _ => 0) ≠ 0 := by decide +kernel
/-- A clear of a target, of one described by reserved words, and of an address that is not aligned. -/
def clearRead (record : Nat) : Option (Option Target) :=
  (readBytes (jobState 1 record) 0x1200 32).bind fun r =>
    (readBytes r.2 (BitVec.ofNat 64 (cardAt r.1 0 8)) 64).map fun d => (targetOf (BitVec.ofNat 64 (cardAt r.1 0 8)) d.1).bind fun q =>
      if (d.2.pixelMiss (engineAt 0 0) .wr ((rectPixels q 0 0 (cardAt r.1 12 2) (cardAt r.1 14 2)).map fun p => pixelVa q p.1 p.2)) = none
      then some q else none
theorem test_meets_EngineJobs_clear :
    clearRead (0x1240 + 2 * 2 ^ 96 + 1 * 2 ^ 112) = some (some ⟨0x1240, 0x1300, 2, 1, 64, 0, 0, 0⟩) ∧ clearRead 0x1200 = some none ∧
    (0x1248 : DWord).toNat % 64 ≠ 0 := by decide +kernel
/-- A draw of no splats of draw 9, its raster-state entry and target. -/
def splatRead (record : Nat) : Option (Nat × DWord × Option Target) :=
  (readBytes (jobState 2 record) 0x1200 32).bind fun r => (readBytes r.2 0x1280 64).bind fun e =>
    (rasterOf e.1).bind fun q => (readBytes e.2 q.2 64).bind fun d => (readBytes d.2 0 0).map fun _ =>
      (natOfBytes r.1, q.2, targetOf q.2 d.1)
theorem test_meets_EngineJobs_splat :
    splatRead (9 * 2 ^ 128) = some (9 * 2 ^ 128, 0x1240, some ⟨0x1240, 0x1300, 2, 1, 64, 0, 0, 0⟩) ∧
    fieldOf (9 * 2 ^ 128) 255 160 = 0 ∧ fieldOf (9 * 2 ^ 128) 127 104 = 0 ∧ fieldOf (2 ^ 160) 255 160 ≠ 0 ∧
    (BitVec.ofNat 64 ((jobState 2 0).reg 0 (oCtx 0 0x30) / 64 * 64 + 64 * fieldOf (9 * 2 ^ 128) 103 96)) = 0x1280 := by decide +kernel
/-- A copy of 8 bytes in memory, one to the vault of core 1, which the context holds, and ones that may not run. -/
def copyRead (w2 : DWord) (held : Bool) : Nat :=
  let s := (jobState 3 0).setCore 1 { vault := if held then [(0, 0, 64, 0)] else [] }
  let a : CpyArgs := ⟨0x1300, 0, w2, 0⟩
  if s.copyBad (jobOf 3) a = 0 then
    (if ((s.spaceRead (classCopy (jobOf 3) 0 0 a) 0 0 8).1.2).isNone then 0 else 1)
  else s.copyBad (jobOf 3) a
theorem test_meets_EngineJobs_copy :
    copyRead (8 + 0 * 2 ^ 40) true = 0 ∧ copyRead (8 + 3 * 2 ^ 36 + 1 * 2 ^ 50) true = 0 ∧ copyRead (8 + 3 * 2 ^ 36 + 1 * 2 ^ 50) false = 7 ∧
    copyRead 0 true = 3 ∧ (classCopy (jobOf 3) 0 0 ⟨0x1300, 0, 8 + 3 * 2 ^ 36 + 1 * 2 ^ 50, 0⟩).dsp = 3 ∧
    (((jobState 3 0).rangeOf (engineAt 0 0) .wr 0x1300 8).1.2).isNone = true := by decide +kernel
/-- An encode of the two pixels. -/
theorem test_meets_EngineJobs_encode :
    ((readBytes (jobState 4 (tgtDesc * 2 ^ 64)) 0x1200 64).bind fun r => (encodeTarget ((jobOf 4).record 0 64) (natOfBytes r.1)).bind fun q =>
      (readBytes r.2 q.base (q.width * pixBytes q.format)).map fun _ => (q.height, q.width)) = some (1, 2) ∧
    encodeTarget 0x1200 1 = none := by decide +kernel

def aTarget : Target := ⟨0x1240, 0x1300, 2, 1, 64, 0, 0, 0⟩
def aRaster : Raster :=
  { spillSz := 0, spill := 0, lblend := 0, pcarve := 0, pprivsz := 2, pargn := 0, ppriv := 0x3000, pargs := 0, pkern := 0x1000, tgt := aTarget }
def aPrim : Prim := { ctx := 0, task := 0, die := 0, rs := aRaster, words := List.replicate 7 0, seq := 5, order := 3, quads := some [(0, 0)] }
def aPath (segs : List Seg) (cover : Option (List (Nat × Nat × Nat))) : PathItem :=
  { ctx := 0, task := 0, tgt := aTarget, segs := segs, eo := true, seq := 5, order := 3, cover := cover }
def aCommit : Commit :=
  { ctx := 0, task := 0, die := 0, tgt := aTarget, mode := 1, px := 1, py := 0, seq := 5, rgba := [0, 0, 0, 0x3F800000], order := 3, wave := 0 }
def aSplat : SplatItem :=
  { ctx := 0, task := 0, rs := aRaster, words := [0x3F000000, 0x3F000000, 0x3F800000, 0, 0x3F800000, 0, 0, 0, 0x3F000000], depth := 1,
    seq := 9 * 2 ^ 32, order := 3, job := none }
def aDraw : Draw := { ctx := 0, task := 0, rs := aRaster, number := 9, done := [], job := none, order := 3 }
def gfxSt (g : Gfx) : State := { schedSt [(0, aTask (aCard 0 []) .dispatched)] [] 0x4B475341 0 with gfx := g }
def aSquare : List Seg := [.move 0 0, .line 512 0, .line 512 256, .line 0 256, .line 0 0]
def aTicket : List (Nat × Nat × Nat × DWord × Nat × Nat) := [(0, 1, 0, 4, 0, 0)]
theorem test_meets_PixelsAndLantern_launch :
    let s := gfxSt { prims := [aPrim] };
      s.task? 0 = some (aTask (aCard 0 []) .dispatched) ∧ s.gfx.prims.find? (fun p => p.task = 0 && p.die = 0) = some aPrim ∧
      (s.liveCtx 0).isSome = true ∧ packQuads aPrim s.gfx.prims [] = [(3, (0, 0))] ∧
      (match s.readKernel ⟨0, 0, true, 2⟩ aRaster.pkern with
        | (.ok k, s1) => if 0 ∈ s1.coresOf 0 ∧ 1 ∈ s1.coresOf 0 ∧ (s1.fitsCore 1 0 0 1 k.granules k.padBytes 0 0).isSome = true
          then s1.fitsCore 0 0 0 1 k.granules k.padBytes 0 0 else none
        | _ => none) = some (0, [0]) := by decide +kernel
theorem test_meets_PixelsAndLantern_reads :
    (match (gfxSt { prims := [aPrim] }).readKernel ⟨0, 0, true, 2⟩ aRaster.pkern with
      | (.ok _, s1) => gotOk (s1.readPixel ⟨0, 0, true, 2⟩ aRaster 0 0).1
      | _ => none).isSome = true := by decide +kernel
theorem test_meets_PixelsAndLantern_paths :
    (∀ p, p = aPath [] none ∨ p = aPath aSquare none ∨ p = aPath aSquare (some [(1, 0, 256)]) →
      (gfxSt { paths := [p] }).gfx.paths.find? (fun p => p.order = 3) = some p) ∧
    (aPath [] none).fill = [] ∧ (aPath aSquare none).fill ≠ [] := by
  refine ⟨?_, by decide +kernel, by decide +kernel⟩
  rintro p (rfl | rfl | rfl) <;> rfl
def pixelOk (s : State) : Bool :=
  (s.pixelMiss (engineAt 0 0) .wr [pixelVa aTarget 1 0]).isNone && match (s.access (engineAt 0 0) .wr false 0 (pixelVa aTarget 1 0) (pixBytes 0)).1 with
    | .ok _ => true
    | _ => false
theorem test_meets_PixelsAndLantern_commits :
    (let s := gfxSt { commits := [aCommit] };
      s.gfx.commits.find? (fun c => c.order = 3) = some aCommit ∧ s.mayCommit 0 0x1240 1 0 5 (some 3) = true ∧ pixelOk s = true) ∧
    (gfxSt { commits := [aCommit], tickets := aTicket }).mayCommit 0 0x1240 1 0 5 (some 3) = false ∧
    (let s := gfxSt { paths := [aPath aSquare (some [(1, 0, 256)])] };
      (∀ c ∈ s.gfx.commits, c.order ≠ 3) ∧
      [(1, 0, 256)].find? (fun c => s.mayCommit 0 0x1240 c.1 c.2.1 5 (some 3)) = some (1, 0, 256) ∧ (mget s.ctxs 0).isSome = true ∧
      s.pixelDie 0 0 (pixelVa aTarget 1 0) = 0 ∧ pixelOk s = true) ∧
    (gfxSt { paths := [aPath aSquare (some [(1, 0, 256)])], tickets := aTicket }).mayCommit 0 0x1240 1 0 5 (some 3) = false := by
  decide +kernel
theorem test_meets_PixelsAndLantern_draws :
    (let s := gfxSt { draws := [aDraw], splats := [aSplat] };
      s.gfx.draws[0]? = some aDraw ∧ s.drawDue aDraw 0 0 = true ∧
      (∀ p ∈ tilePixels aTarget 0 0, s.mayCommit 0 0x1240 p.1 p.2 (drawSeq aDraw) (some aDraw.order) = true) ∧
      s.pixelMiss (engineAt 0 0) .wr ((tilePixels aTarget 0 0).map fun p => pixelVa aTarget p.1 p.2) = none ∧
      (s.gfx.spills.filter fun p => p.ofThe aDraw && p.tx = 0 && p.ty = 0).flatMap (·.runs) = [] ∧
      (tilesOf aTarget).all (fun q => q = (0, 0)) = true) ∧
    (let s := gfxSt { draws := [aDraw], splats := [aSplat], tickets := aTicket };
      (tilePixels aTarget 0 0).any (fun p => !s.mayCommit 0 0x1240 p.1 p.2 (drawSeq aDraw) none) = true) ∧
    (let s := { gfxSt { draws := [aDraw] } with waves := [(0, wv)] };
      s.drawDue aDraw 0 0 = false ∧ s.horizonsAt 0 (drawSeq aDraw) = false) := by decide +kernel
/-- A command of 64 bytes: operation, context, sequence number, CPL, ARG. -/
def cmd (op ctx seq cpl arg : Nat) : Bytes := bytesOfNat 64 (op + ctx * 2 ^ 16 + seq * 2 ^ 64 + cpl * 2 ^ 128 + arg * 2 ^ 192)
/-- A function's ring at 0x8000 of the host with that command at its head, in a state; q is the function as it stands. -/
def ringOn (s : State) (f : Nat) (q : Fn) (b : Bytes) : State :=
  { s with
    mem := pokeAll s.mem (cellsAt (hostKey 0x8000) b)
    regs := s.regs ++ [(regKey f (oFn 0x40), 0x8000), (regKey f (oFn 0x48), 6), (regKey f (oFn 0x4C), 1), (regKey f (oFn 0x18), 5)]
    fns := mput s.fns f q }
/-- One that has been taken: its own effect is due. -/
def takenOn (s : State) (b : Bytes) : State := ringOn s 0 { taken := some 3 } b
def gives (s : State) (f : Nat) : Bool :=
  decide (f < 513 ∧ s.cmdLen f ≠ 0 ∧ (s.fn f).ringHalt = 0 ∧ (s.fn f).rotations = []) && s.portOpen &&
    !behind (s.reg f (oFn 0x4C)) (s.cmdHead f)
theorem ringGives {s : State} {f} (h : gives s f = true) : RingGives s f (s.headBytes f) := by
  simp only [gives, Bool.and_eq_true, decide_eq_true_eq, Bool.not_eq_true'] at h
  exact ⟨h.1.1.1, h.1.2, h.1.1.2.1, h.1.1.2.2.1, h.1.1.2.2.2, h.2, rfl⟩
def commanded (s : State) (f op : Nat) : Bool :=
  gives s f && (s.fn f).taken.isSome && decide (cmdOp (s.headBytes f) = op ∧ cmdCpl (s.headBytes f) % 16 = 0) &&
    !(accepted s f).refused f (s.headBytes f) && !(accepted s f).malformed (s.headBytes f)
theorem commands {s : State} {f op} (h : commanded s f op = true) : Commands s f op (s.headBytes f) := by
  simp only [commanded, Bool.and_eq_true, decide_eq_true_eq, Bool.not_eq_true'] at h
  obtain ⟨⟨⟨⟨h1, h2⟩, h3⟩, h4⟩, h5⟩ := h
  exact ⟨ringGives h1, h3.1, fun e => by simp [e] at h2, fun e => by simp [e] at h2, h3.2, h4, h5⟩

theorem test_meets_RingChecks_stop :
    State.reset.portOpen = false ∧ ((st wv).fn 0).rotations = [] ∧ (st wv).cmdLen 0 = 0 ∧
    ((ringOn (st wv) 0 { ringHalt := 2 } []).fn 0).ringHalt ≠ 0 ∧
    behind ((ringOn (st wv) 0 {} []).reg 0 (oFn 0x4C)) 1 = true := by decide +kernel
/-- Commands of other sequence numbers, of none that is left, and without a key. -/
theorem test_meets_RingChecks_sequence :
    (∀ n ∈ [4, 5, 6, 2 ^ 48], gives (ringOn (st wv) 1 {} (cmd 1 0 n 0 0)) 1 = true) ∧
    (∀ n ∈ [4, 5, 6, 2 ^ 48], cmdSeq ((ringOn (st wv) 1 {} (cmd 1 0 n 0 0)).headBytes 1) = n) ∧
    ((ringOn (st wv) 1 {} (cmd 1 0 5 0 0)).reg 1 (oFn 0x18)) = 5 ∧
    ¬ MacFits (ringOn (st wv) 1 {} (cmd 1 0 5 0 0)) 1 ((ringOn (st wv) 1 {} (cmd 1 0 5 0 0)).headBytes 1) ∧
    (let s := { ringOn (st wv) 1 {} (cmd 1 0 (2 ^ 48) 0 0) with regs := (st wv).regs ++
        [(regKey 1 (oFn 0x40), 0x8000), (regKey 1 (oFn 0x48), 6), (regKey 1 (oFn 0x4C), 1), (regKey 1 (oFn 0x18), 2 ^ 48)] };
      gives s 1 = true ∧ cmdSeq (s.headBytes 1) = s.reg 1 (oFn 0x18)) ∧
    cmdOp ((ringOn (st wv) 1 {} (cmd 1 0 5 0 0)).headBytes 1) = 1 := by
  refine ⟨by decide +kernel, by decide +kernel, by decide +kernel, ?_, by decide +kernel, by decide +kernel⟩
  rintro ⟨k, hk, _⟩
  exact absurd (show ((ringOn (st wv) 1 {} (cmd 1 0 5 0 0)).fn 1).key = some k from hk) (by
    rw [show ((ringOn (st wv) 1 {} (cmd 1 0 5 0 0)).fn 1).key = none by decide +kernel]; simp)
theorem test_meets_RingChecks_form :
    (let s := ringOn (st wv) 1 { taken := some 3 } (cmd 1 0 5 8 0);
      gives s 1 = true ∧ (s.fn 1).taken ≠ none ∧ cmdCpl (s.headBytes 1) % 16 ≠ 0) ∧
    (let s := ringOn (st wv) 1 { taken := some 3 } (cmd 3 0 5 0x9010 0);
      gives s 1 = true ∧ cmdCpl (s.headBytes 1) % 16 = 0 ∧ (accepted s 1).cardLost 1 (s.headBytes 1) = false ∧
      (accepted s 1).refused 1 (s.headBytes 1) = true) ∧
    -- a launch that waited for its card's page, and whose context the reply has ended
    (let s := ringOn { st wv with ctxs := [(0, { cx with terminated := true, termCause := 0x06 })] } 0
        { taken := some 3, asked := some (1, 0) } (cmd 1 0 5 0x9010 0x1000);
      gives s 0 = true ∧ cmdCpl (s.headBytes 0) % 16 = 0 ∧ (accepted s 0).cardLost 0 (s.headBytes 0) = true) ∧
    (let s := takenOn (st wv) (cmd 12 7 5 0 0);
      gives s 0 = true ∧ cmdCpl (s.headBytes 0) = 0 ∧ (accepted s 0).refused 0 (s.headBytes 0) = false ∧
      (accepted s 0).malformed (s.headBytes 0) = true) := by decide +kernel
/-- The host's launches: the card at an address of the context is read; an engine that is off and a queue of no length. -/
def launchSt (logged : Bool) (va : Nat) (off none_ : Bool) : State :=
  takenOn { lst with regs := (if off = true then [(regKey 0 (oSched 0 0x10), 0)] else []) ++
    (if none_ = true then [(regKey 0 (oSched 0 0), 0)] else []) ++ lst.regs }
    (cmd (if logged = true then 2 else 1) 0 5 0x9010 va)
def launched (logged : Bool) (va : Nat) (off none_ : Bool) : Option (Nat × Bool) :=
  let s0 := launchSt logged va off none_
  let s := accepted s0 0
  let r := s.readVirt (s.beacon 0) (BitVec.ofNat 64 va) 128
  if !(commanded s0 0 (if logged = true then 2 else 1) && decide (argF (s0.headBytes 0) 63 0 = va)) then none
  else match r.1 with
    | .ok card => some (r.2.cardStatus 0 card, (mget r.2.ctxs 0).isSome)
    | .error (.fault c _, _) => some (100 + c, false)
    | .error _ => none
theorem test_meets_HostLaunches :
    launched true 0x1000 false false = some (0, true) ∧ launched false 0x1000 false false = some (0, true) ∧
    launched true 0x1000 false true = some (1, true) ∧ launched false 0x1080 false false = some (2, true) ∧
    launched true 0x1000 true false = some (3, true) ∧ launched false (2 ^ 60) false false = some (105, false) ∧
    commanded (launchSt true 0x1001 false false) 0 2 = true ∧ argF ((launchSt true 0x1001 false false).headBytes 0) 63 0 = 0x1001 := by
  decide +kernel
/-- S2INV of function 0; CREATE on die 1, and on the emptiest die where none has a free slot; DESTROY of context 0. -/
def lostSt (s : State) (d : Nat) : State := { s with dies := [(d, { (s.die d) with lost := true })] }
theorem test_meets_ContextCommands :
    commanded (takenOn (st wv) (cmd 8 0 5 0 0x1000)) 0 8 = true ∧
    (let s := takenOn (st wv) (cmd 9 0 5 0 (2 ^ 10 + 2 ^ 25 + 7 * 2 ^ 13));
      commanded s 0 9 = true ∧ argF (s.headBytes 0) 12 12 = 0 ∧ argF (s.headBytes 0) 11 10 = 1 ∧ argF (s.headBytes 0) 25 25 = 1 ∧
      argF (s.headBytes 0) 24 13 = 7 ∧ ((accepted s 0).newCtx 0 1 (some 7)).map (fun r => r.1) = some 1) ∧
    (let s := takenOn (lostSt (st wv) 1) (cmd 9 0 5 0 (2 ^ 10));
      commanded s 0 9 = true ∧ argF (s.headBytes 0) 12 12 = 0 ∧ argF (s.headBytes 0) 11 10 = 1 ∧
      ((accepted s 0).newCtx 0 1 none).isNone = true) ∧
    (let s := takenOn (st wv) (cmd 10 0 5 0 0);
      commanded s 0 10 = true ∧ (accepted s 0).liveCtx (cmdCtx (s.headBytes 0)) = some cx) := by decide +kernel
/-- GRANT: a range off 2 MiB, one across two dies, one granted already, and one that is free. -/
theorem test_meets_MemoryCommands_grant :
    (let s := takenOn (mst wv) (cmd 11 0 5 0 (2 ^ 64 + 0x1000));
      commanded s 0 11 = true ∧ argF (s.headBytes 0) 38 0 % 2 ^ 21 ≠ 0) ∧
    (let s := takenOn (mst wv) (cmd 11 0 5 0 (2 * 2 ^ 64 + (2 ^ 37 - 2 ^ 21)));
      commanded s 0 11 = true ∧ argF (s.headBytes 0) 38 0 / 2 ^ 37 ≠
        (argF (s.headBytes 0) 38 0 + argF (s.headBytes 0) 95 64 * 2 ^ 21 - 1) / 2 ^ 37) ∧
    (let s := takenOn (mst wv) (cmd 11 0 5 0 (2 ^ 64));
      commanded s 0 11 = true ∧ argF (s.headBytes 0) 38 0 = 0 ∧ argF (s.headBytes 0) 95 64 = 1 ∧
      (accepted s 0).grantable 0 = false) ∧
    (let s := { takenOn (mst wv) (cmd 11 0 5 0 (3 * 2 ^ 96 + 2 ^ 64 + 2 ^ 21)) with
        regs := (takenOn (mst wv) []).regs ++ [(regKey 0 (oMod 0x50), 16)] };
      commanded s 0 11 = true ∧ argF (s.headBytes 0) 38 0 = 2 ^ 21 ∧ argF (s.headBytes 0) 95 64 = 1 ∧
      argF (s.headBytes 0) 105 96 = 3 ∧ (accepted s 0).grantable 1 = true) := by decide +kernel
/-- POOLADD: a range off 4096 bytes, frames that nobody was granted, and frames of the function. -/
def granted : State := { st wv with vm := { State.reset.vm with grants := [(1, 0)] } }
theorem test_meets_MemoryCommands_pool :
    (let s := takenOn granted (cmd 12 0 5 0 (2 ^ 64 + 0x200800));
      commanded s 0 12 = true ∧ argF (s.headBytes 0) 38 0 % 4096 ≠ 0 ∧ (mget (accepted s 0).ctxs (cmdCtx (s.headBytes 0))).isSome = true) ∧
    (let s := takenOn granted (cmd 12 0 5 0 (2 ^ 64 + 0x400000));
      commanded s 0 12 = true ∧ argF (s.headBytes 0) 38 0 = 0x400000 ∧ argF (s.headBytes 0) 95 64 = 1 ∧
      (accepted s 0).poolable 0 0x400000 1 = false) ∧
    (let s := takenOn granted (cmd 12 0 5 0 (2 ^ 64 + 0x200000));
      commanded s 0 12 = true ∧ argF (s.headBytes 0) 38 0 = 0x200000 ∧ argF (s.headBytes 0) 95 64 = 1 ∧
      (accepted s 0).poolable 0 0x200000 1 = true) := by decide +kernel
/-- SEAL of a context with a wave, of one in no domain, and of one without work or pages. -/
def sealOn (waves : Map Wave) (dom : Option Nat) : State :=
  takenOn { st wv with waves := waves, blocks := [], ctxs := [(0, { cx with dom := dom })] } (cmd 3 0 5 0 0)
theorem test_meets_SealAndFork_seal :
    (commanded (sealOn [(0, wv)] (some 5)) 0 3 = true ∧ (accepted (sealOn [(0, wv)] (some 5)) 0).hasAny 0 = true) ∧
    commanded (sealOn [] none) 0 3 = true ∧
    (let s := sealOn [] (some 5);
      commanded s 0 3 = true ∧ ((accepted s 0).liveCtx (cmdCtx (s.headBytes 0))).bind (fun c => c.dom) = some 5 ∧
      (accepted s 0).hasAny 0 = false ∧ ((accepted s 0).reg 0 (oMod 0x20)).testBit 0 = false) := by decide +kernel
theorem test_meets_SealAndFork_split :
    (accepted (sealOn [] (some 5)) 0).splitLeaves 0 = some (accepted (sealOn [] (some 5)) 0) ∧
    ((accepted (sealOn [] (some 5)) 0).leaves 0).filter (fun l => !eBit l.e 11) = [] := ⟨rfl, rfl⟩
/-- FORK's block at 0x9000 of the host: template 0, function 0, die 1, tables at 0x4000 and 0x200000, one pool frame. -/
def forkBlock : Bytes := bytesOfNat 64 (2 ^ 32 + 0x4000 * 2 ^ 64 + 0x5000 * 2 ^ 128 + 0x20000000 * 2 ^ 192 + 8 * 2 ^ 256 +
  (2 ^ 37 + 0x200000) * 2 ^ 288 + 2 ^ 352)
def forkOn (gone sl : Bool) (at_ : Nat) : State :=
  let s := if gone = true then lostSt (st wv) 1 else st wv
  takenOn { s with
    waves := [], blocks := [], ctxs := [(0, { cx with sealed := sl })], mem := pokeAll s.mem (cellsAt (hostKey 0x9000) forkBlock)
    vm := { s.vm with grants := [(2 ^ 16 + 1, 0)] } } (cmd 4 0 5 0 at_)
theorem test_meets_SealAndFork_fork :
    (let s := forkOn false true 0x9000;
      let g := cardAt ((accepted s 0).peek (hostKey 0x9000) 64);
      commanded s 0 4 = true ∧ argF (s.headBytes 0) 63 0 = 0x9000 ∧
      mget (accepted s 0).ctxs (g 0 2) = some { cx with sealed := true } ∧ g 2 2 ≤ 512 ∧ g 4 1 = 1 ∧ g 5 3 = 0 ∧
      natOfBytes (((accepted s 0).peek (hostKey 0x9000) 64).drop 0x30) = 0 ∧ g 8 8 = 0x4000 ∧ g 0x10 8 = 0x5000 ∧
      g 0x18 8 = 0x20000000 ∧ g 0x20 4 = 8 ∧ g 0x24 8 = 2 ^ 37 + 0x200000 ∧ g 0x2C 4 = 1 ∧
      g 4 1 = (g 0x24 8 + g 0x2C 4 * 4096 - 1) / 2 ^ 37 ∧ (accepted s 0).poolable (g 2 2) (g 0x24 8) (g 0x2C 4) = true) ∧
    commanded (forkOn false false 0x9000) 0 4 = true ∧ commanded (forkOn false true 0x9001) 0 4 = true := by decide +kernel
theorem test_meets_SealAndFork_made :
    ((accepted (forkOn false true 0x9000) 0).forkFrom 0 0 1 none 0x4000 0x5000 0x20000000 8 (2 ^ 37 + 0x200000) 1).isSome = true ∧
    commanded (forkOn true true 0x9000) 0 4 = true ∧
    ((accepted (forkOn true true 0x9000) 0).forkFrom 0 0 1 none 0x4000 0x5000 0x20000000 8 (2 ^ 37 + 0x200000) 1).isNone = true := by
  decide +kernel
/-- One leaf of context 0, of 4 KiB or of 2 MiB, below tables at 0x1000, 0x2000, 0x4000 and 0x5000; mode bit 0 of TOURN as given. -/
def leafSt (big on : Bool) : State :=
  let s := st wv
  takenOn { s with
    waves := [], blocks := [], ctxs := [(0, { cx with dom := some 5 })]
    mem := pokeAll [] (cellsAt 0x1000 (bytesOfNat 2 0x2001) ++ cellsAt 0x2000 (bytesOfNat 2 0x4001) ++
      cellsAt 0x4000 (if big = true then bytesOfNat 8 0x000100000020009D else bytesOfNat 2 0x5001) ++
      (if big = true then [] else cellsAt 0x5000 (bytesOfNat 8 0x000100000000301D)))
    regs := [(regKey 0 (oCtx 0 8), 0x1000), (regKey 0 (oMod 0x20), on.toNat)] } (cmd 3 0 5 0 0)
theorem mget_absent (m : List Host.Cell) (k : Nat) (h : ∀ c ∈ m, c.1 ≠ k) : mget m k = none := by
  induction m with
  | nil => rfl
  | cons c m ih =>
    simp only [mget]
    rw [if_neg (h c (by simp)), ih fun d hd => h d (by simp [hd])]
theorem peekN_zero (s : State) (k n : Nat) (h : ∀ c ∈ s.mem, c.1 < k ∨ k + n ≤ c.1) : s.peekN k n = 0 := by
  unfold State.peekN
  induction n generalizing k with
  | zero => rfl
  | succ n ih =>
    have hm : memByte s.mem k = 0 := by
      simp [memByte, mgetD, mget_absent s.mem k fun c hc => by have := h c hc; omega]
    simp [State.peek, natOfBytes, hm, ih (k + 1) fun c hc => by have := h c hc; omega]
/-- Entries of a table behind its first. -/
theorem entry_zero (s : State) (t i : Nat) (h : ∀ c ∈ s.mem, c.1 < t + 8 ∨ t + 4096 ≤ c.1) (h1 : i < 511) :
    s.entryAt (t + 8 * (i + 1)) = 0 := by
  have := peekN_zero s (devKey (t + 8 * (i + 1))) 8 fun c hc => by
    have := h c hc
    simp only [devKey]
    omega
  simp [State.entryAt, this]
theorem leaves_above (s : State) (lvl t b : Nat) (h : ∀ c ∈ s.mem, c.1 < t + 8 ∨ t + 4096 ≤ c.1) :
    s.leavesIn (lvl + 1) t b = (let e := s.entryAt t
      if !eBit e 0 then [] else if lvl = 0 ∧ eBit e 7 then [⟨b, e, 1, t⟩] else s.leavesIn lvl (eDev e) b) := by
  rw [State.leavesIn, show List.range 512 = 0 :: (List.range 511).map (· + 1) by rw [← List.range_succ_eq_map]]
  rw [List.flatMap_cons, List.flatMap_eq_nil_iff.mpr]
  · simp
  · intro i hi
    obtain ⟨j, hj, rfl⟩ := List.mem_map.mp hi
    simp [entry_zero s t j h (List.mem_range.mp hj), eBit]
theorem leaves_down (s : State) (lvl t b u : Nat) (h : (s.mem.all fun c => decide (c.1 < t + 8 ∨ t + 4096 ≤ c.1)) = true)
    (he : (eBit (s.entryAt t) 0 && !(lvl = 0 && eBit (s.entryAt t) 7) && decide (eDev (s.entryAt t) = u)) = true) :
    s.leavesIn (lvl + 1) t b = s.leavesIn lvl u b := by
  simp only [Bool.and_eq_true, decide_eq_true_eq, Bool.not_eq_true', Bool.and_eq_false_iff, decide_eq_false_iff_not] at he
  rw [leaves_above s lvl t b (by simpa using h)]
  simp only [he.1.1, he.2, Bool.not_true, Bool.false_eq_true, if_false]
  rw [if_neg]
  rintro ⟨h0, h7⟩
  rcases he.1.2 with q | q
  · exact q h0
  · simp [h7] at q
theorem leaves_last (s : State) (t b : Nat) (h : (s.mem.all fun c => decide (c.1 < t + 8 ∨ t + 4096 ≤ c.1)) = true)
    (he : eBit (s.entryAt t) 0 = true) : s.leavesIn 0 t b = [⟨b, s.entryAt t, 0, t⟩] := by
  rw [State.leavesIn, show List.range 512 = 0 :: (List.range 511).map (· + 1) by rw [← List.range_succ_eq_map]]
  rw [List.filterMap_cons_some (b := ⟨b, s.entryAt t, 0, t⟩) (by simp [he]), List.filterMap_eq_nil_iff.mpr]
  intro i hi
  obtain ⟨j, hj, rfl⟩ := List.mem_map.mp hi
  simp [entry_zero s t j (by simpa using h) (List.mem_range.mp hj), eBit]
def aLarge : Leaf := ⟨0, 0x000100000020009D, 1, 0x4000⟩
def aSmall : Leaf := ⟨0, 0x000100000000301D, 0, 0x5000⟩
theorem leaves_large : (accepted (leafSt true false) 0).leaves 0 = [aLarge] := by
  rw [State.leaves, if_neg (by decide +kernel), show (accepted (leafSt true false) 0).s2root 0 = 0x1000 by decide +kernel]
  rw [leaves_down _ _ _ _ 0x2000 (by decide +kernel) (by decide +kernel), leaves_down _ _ _ _ 0x4000 (by decide +kernel) (by decide +kernel)]
  rw [leaves_above _ _ _ _ (by simpa using (show ((accepted (leafSt true false) 0).mem.all fun c =>
    decide (c.1 < 0x4000 + 8 ∨ 0x4000 + 4096 ≤ c.1)) = true by decide +kernel))]
  rw [show (accepted (leafSt true false) 0).entryAt 0x4000 = 0x000100000020009D by decide +kernel]
  rfl
theorem leaves_small : (accepted (leafSt false true) 0).leaves 0 = [aSmall] := by
  rw [State.leaves, if_neg (by decide +kernel), show (accepted (leafSt false true) 0).s2root 0 = 0x1000 by decide +kernel]
  rw [leaves_down _ _ _ _ 0x2000 (by decide +kernel) (by decide +kernel), leaves_down _ _ _ _ 0x4000 (by decide +kernel) (by decide +kernel),
    leaves_down _ _ _ _ 0x5000 (by decide +kernel) (by decide +kernel), leaves_last _ _ _ (by decide +kernel) (by decide +kernel)]
  rw [show (accepted (leafSt false true) 0).entryAt 0x5000 = 0x000100000000301D by decide +kernel]
  rfl
theorem test_meets_SealAndFork_large :
    commanded (leafSt true false) 0 3 = true ∧ (accepted (leafSt true false) 0).hasAny 0 = false ∧
    (accepted (leafSt true false) 0).splitLeaves 0 = none := by
  refine ⟨by decide +kernel, by decide +kernel, ?_⟩
  rw [State.splitLeaves, leaves_large]
  rw [show [aLarge].filter (fun l => l.lvl = 1) = [aLarge] by decide]
  simp only [List.foldl_cons, List.foldl_nil, Option.bind_some, State.splitLeaf]
  rw [show ((mget (accepted (leafSt true false) 0).ctxs 0).bind fun c => c.anyRun 1) = none by decide +kernel]
/-- A page of 4 KiB: backed or not by a spill table, busy or not, sealed. -/
theorem test_meets_SealAndFork_small :
    commanded (leafSt false true) 0 3 = true ∧ ((accepted (leafSt false true) 0).reg 0 (oMod 0x20)).testBit 0 = true ∧
    ((accepted (leafSt false false) 0).reg 0 (oMod 0x20)).testBit 0 = false ∧
    (accepted (leafSt false true) 0).splitLeaves 0 = some (accepted (leafSt false true) 0) ∧
    (accepted (leafSt false true) 0).leaves 0 = [aSmall] ∧
    aSmall.frames.all (fun p => !(accepted (leafSt false true) 0).frameBusy p) = true ∧
    (accepted (leafSt false true) 0).smallLeaf 0 aSmall.page = some (0x000100000000301D, 0x5000) ∧
    mget (accepted (leafSt false true) 0).ctxs 0 = some { cx with dom := some 5 } ∧ eBit aSmall.e 9 = false ∧ eBit aSmall.e 11 = false ∧
    ∀ h, ∀ g ∈ (accepted (leafSt false true) 0).bucket h, g.ref = 0 := by
  refine ⟨by decide +kernel, by decide +kernel, by decide +kernel, ?_, leaves_small, by decide +kernel, by decide +kernel,
    by decide +kernel, by decide, by decide, fun h g hg => nomatch (show g ∈ [] from hg)⟩
  rw [State.splitLeaves, leaves_small]
  rfl
/-- A command on context 0 whose home is die 1, with a wave of it or none, and a step copy under way or none. -/
def sessOn (op arg : Nat) (waves : Map Wave) (run : Option (Nat × List Nat)) : State :=
  let s := takenOn { st wv with waves := waves, blocks := [], ctxs := [(0, { cx with home := 1 })] } (cmd op 0 5 0x9010 arg)
  { s with trust := { s.trust with stepRun := run } }
def sessCmd (s : State) (op : Nat) : Bool :=
  commanded s 0 op && decide (cmdCtx (s.headBytes 0) = 0 ∧ (accepted s 0).liveCtx 0 = some { cx with home := 1 })
theorem test_meets_SessionCommands_migrate :
    (sessCmd (sessOn 5 2 [] (some (1, []))) 5 = true ∧ (accepted (sessOn 5 2 [] (some (1, []))) 0).trust.stepRun ≠ none) ∧
    (sessCmd (sessOn 5 1 [] none) 5 = true ∧ argF ((sessOn 5 1 [] none).headBytes 0) 1 0 = 1) ∧
    (sessCmd (sessOn 5 2 [] none) 5 = true ∧ argF ((sessOn 5 2 [] none).headBytes 0) 1 0 = 2 ∧
      (accepted (sessOn 5 2 [] none) 0).slotFree 2 = true ∧ (accepted (sessOn 5 2 [] none) 0).waves = [] ∧
      (accepted (sessOn 5 2 [] none) 0).blocks = [] ∧ (accepted (sessOn 5 2 [] none) 0).trust.stepRun = none) ∧
    (sessCmd (sessOn 5 2 [(0, wv)] none) 5 = true ∧ (accepted (sessOn 5 2 [(0, wv)] none) 0).wave? 0 = some wv ∧ wv.id.ctx = 0) ∧
    (sessCmd (lostSt (sessOn 5 2 [] none) 2) 5 = true ∧ (accepted (lostSt (sessOn 5 2 [] none) 2) 0).slotFree 2 = false) := by
  decide +kernel
theorem test_meets_SessionCommands_snapshot :
    (sessCmd (sessOn 6 0 [(0, wv)] none) 6 = true ∧ (accepted (sessOn 6 0 [(0, wv)] none) 0).wave? 0 = some wv) ∧
    (sessCmd (sessOn 6 0x20000 [] none) 6 = true ∧ argF ((sessOn 6 0x20000 [] none).headBytes 0) 63 0 ≠ 0 ∧
      (accepted (sessOn 6 0x20000 [] none) 0).waves = []) ∧
    sessCmd (sessOn 6 0 [] none) 6 = true := by decide +kernel
def aSnap (cpl : DWord) : Snap := ⟨4, 0, 0, 7, 0x20000, 0, 5, cpl, cx, [], [], [], false⟩
def copySt (cpl : DWord) : State := { st wv with trust := { (st wv).trust with snaps := [aSnap cpl] } }
theorem test_meets_SessionCommands_copies :
    ((copySt 0x9010).trust.snaps.find? fun n => n.ix = 4 && !n.hostDone) = some (aSnap 0x9010) ∧ (aSnap 0x9010).cpl.toNat % 16 = 0 ∧
    (aSnap 0).cpl = 0 ∧ commanded (takenOn (st wv) (cmd 7 0 5 0 0x30000)) 0 7 = true := by
  refine ⟨rfl, by decide, rfl, by decide +kernel⟩
/-- A state in which a function stands as given. -/
def fnOn (f : Nat) (q : Fn) : State := (st wv).setFn f q
theorem test_meets_Interfaces :
    (∀ q, (fnOn 512 q).portOpen = true ∧ (fnOn 512 q).fn 512 = q) ∧
    (let q : Fn := { tdisp := .locked, digest := some ((st wv).lockDigest 512) };
      q.tdisp = .locked ∧ (fnOn 512 q).trust.ide = [] ∧ q.digest = some ((fnOn 512 q).lockDigest 512)) ∧
    (let q : Fn := { tdisp := .run };
      q.digest ≠ some ((fnOn 512 q).lockDigest 512)) ∧
    (∃ e ∈ ({ fnOn 512 { tdisp := .locked } with trust := { (st wv).trust with ide := [(7, 512, 9)] } } : State).trust.ide, e.2.1 = 512) ∧
    ((fnOn 512 { tdisp := .error }).fn 512).tdisp = .error ∧ ((fnOn 512 {}).fn 512).tdisp = .unlocked ∧
    -- a walk that starts a pass, and one whose turn another interface has
    ((fnOn 512 { tdisp := .run }).trust.pass = [] ∧
      ((List.range 513).filter fun g => ((fnOn 512 { tdisp := .run }).fn g).tdisp.isLocked).head? = some 512 ∧
      ((List.range 513).filter fun g => ((fnOn 0 { tdisp := .run }).fn g).tdisp.isLocked).head? ≠ some 512) := by
  refine ⟨fun q => ⟨rfl, rfl⟩, ⟨rfl, rfl, rfl⟩, ?_, by decide +kernel, rfl, rfl, rfl, by decide +kernel, by decide +kernel⟩
  intro q h
  cases h
/-- A session, one with mutual authentication, and a ring with a head before and at an index. -/
def inSession (both : Bool) : State :=
  { (st wv).setFn 0 { session := true, mutualSession := both } with
    trust := { (st wv).trust with logKeys := [(3, 9)] }, regs := [(regKey 512 (oFn 0x50), 4)] }
theorem test_meets_SessionsAndKeys :
    State.reset.portOpen = false ∧ (fnOn 0 {}).portOpen = true ∧ ((fnOn 0 {}).fn 0).session = false ∧
    (∀ b, (inSession b).portOpen = true ∧ ((inSession b).fn 0).session = true ∧ ((inSession b).fn 512).rotations = [] ∧
      ((inSession b).fn 0).mutualSession = b) ∧
    behind 5 ((inSession true).cmdHead 512) = false ∧ ((inSession true).fn 512).ringHalt = 0 ∧
    behind 4 ((inSession true).cmdHead 512) = true ∧
    (((inSession true).setFn 512 { ringHalt := 2 }).fn 512).ringHalt ≠ 0 ∧
    (mget (inSession true).trust.logKeys 3).isSome = true ∧ mget (inSession true).trust.logKeys 4 = none := by
  refine ⟨by decide +kernel, by decide +kernel, by decide +kernel, by decide +kernel, by decide +kernel, by decide +kernel,
    by decide +kernel, by decide +kernel, by decide +kernel, by decide +kernel⟩
def signedSt (n : Nat) (d : BitVec 384) : State :=
  { st wv with trust := { (st wv).trust with lms := n, boot := some d } }
theorem test_meets_Attestation :
    (∀ n d, (signedSt n d).portOpen = true ∧ (signedSt n d).trust.lms = n ∧ (signedSt n d).trust.boot = some d) ∧
    (1048575 < 2 ^ 20 ∧ 2 ^ 20 ≤ 1048576) := ⟨fun _ _ => ⟨rfl, rfl, rfl⟩, by decide⟩
/-- A bring-up that has stopped at step 1. -/
theorem test_meets_SessionsAndKeys_down :
    let s : State := { st wv with trust := { (st wv).trust with boot_step := 1 } }
    s.trust.boot_step = 1 ∧ State.reset.spdmDown = false := by decide +kernel
/-- A change of mode that falls due at 900. -/
def switchSt (time : Nat) (v : Word) (regs : List (Nat × DWord)) (ctxs : Map Ctx) : State :=
  { st wv with time := time, ctxs := ctxs, regs := regs, trust := { (st wv).trust with tournAt := [(900, v)] } }
def aDie (t l : Bool) : State := { st wv with dies := [(3, { trip := t, lost := l })] }
theorem test_meets_ClocksAndMonitors :
    (∀ t v r c, (switchSt t v r c).trust.tournAt = [(900, v)]) ∧ (switchSt 899 5 [] []).time < 900 ∧
    900 ≤ (switchSt 900 5 [] [(1023, cx)]).time ∧ (∀ e ∈ (switchSt 900 5 [] [(1023, cx)]).ctxs, e.1 < 1024) ∧
    (switchSt 900 5 [(regKey 0 (oLog 1023 0), 0x8000)] [(1023, cx)]).reg 0 (oLog 1023 0x00) ≠ 0 ∧
    (∀ t l, ((aDie t l).die 3).trip = t ∧ ((aDie t l).die 3).lost = l ∧ (aDie t l).portOpen = true) ∧
    (∀ e ∈ (aDie true false).ctxs, e.1 < 1024) ∧
    -- a reading at the trip threshold, and none
    (let hot := fun (s : State) => (List.range 64).any fun n =>
        decide ((BitVec.ofNat 32 (s.reg 0 (oMon 3 0x104))).toInt ≤ (BitVec.ofNat 16 (s.reg 0 (oMon 3 (4 * n)))).toInt);
      hot { aDie false false with regs := [(regKey 0 (oMon 3 0x104), 100), (regKey 0 (oMon 3 8), 100)] } = true ∧
      hot { aDie false false with regs := [(regKey 0 (oMon 3 0x104), 100)] } = false) ∧
    (aDie false false).inForce = 0 ∧
    ({ aDie false false with regs := [(regKey 0 (oMod 0x24), 0x2222)] } : State).inForce ≠ 0 := by
  refine ⟨fun _ _ _ _ => rfl, by decide, by decide, by decide +kernel, by decide +kernel, fun _ _ => ⟨rfl, rfl, rfl⟩,
    by decide +kernel, by decide +kernel, by decide +kernel, by decide +kernel⟩
/-- Registers of a function that are read-only, locked, written and cleared by writing 1. -/
theorem test_meets_RegisterWrites :
    (regInfo 512 (oFn 0x0C)).map (fun i => (i.access, i.wide)) = some (.ro, false) ∧
    (regInfo 512 (oFn 0x48)).map (fun i => (i.access, i.wide)) = some (.rl, false) ∧
    (regInfo 512 (oFn 0x4C)).map (fun i => (i.access, i.wide)) = some (.rw, false) ∧
    (regInfo 512 (oFn 0x10)).map (fun i => (i.access, i.wide)) = some (.w1c, false) ∧
    (regInfo 512 (oFn 0x40)).map (fun i => i.wide) = some true ∧ regInfo 512 (oFn 0x40 + 4) = none ∧ oFn 0x40 % 8 = 0 ∧
    coveredBy 512 0x1FFFFC = none ∧ (fnOn 512 {}).reg 512 (oFn 0x10) < 2 ^ 32 ∧
    (∀ x, (fnOn 512 { tdisp := x }).portOpen = true ∧ ((fnOn 512 { tdisp := x }).fn 512).tdisp = x) ∧
    (∀ x, (fnOn 0 { tdisp := x }).portOpen = true ∧ ((fnOn 0 { tdisp := x }).fn 0).tdisp = x) ∧ State.reset.portOpen = false ∧
    (fnOn 0 {}).reg 0 (oMod 0x20) = 0 ∧ (fnOn 0 {}).reg 0 (oMod 0x28) < 16 ∧ (∀ d, d < 4 → ((fnOn 0 {}).die d).reqs = []) := by
  refine ⟨by decide +kernel, by decide +kernel, by decide +kernel, by decide +kernel, by decide +kernel, by decide +kernel,
    by decide +kernel, by decide +kernel, by decide +kernel, fun x => ⟨rfl, rfl⟩, fun x => ⟨rfl, rfl⟩, by decide +kernel, by decide +kernel, by decide +kernel, by decide +kernel⟩
def aFlit (q a : BitVec 10) (nak good : Bool) : Flit := ⟨List.replicate 56 0, q, 0, a, nak, good, true⟩
def anSent (q : BitVec 10) (n t : Nat) : LinkFlit := ⟨aFlit q 0 false true, t, n, if n = 0 then none else some t⟩
def linkOn (l : Link) : State := { State.reset with time := 5000, links := [(6, l)] }
theorem test_meets_Flits_send :
    (∀ l, (linkOn l).link 6 = l) ∧ ({ up := false } : Link).up = false ∧
    256 ≤ ({ window := List.replicate 256 (anSent 0 0 0) } : Link).window.length ∧
    ({ window := List.replicate 255 (anSent 0 0 0) } : Link).window.length < 256 ∧ (List.replicate 56 (0 : Byte)).length = 56 := by
  refine ⟨fun _ => rfl, rfl, (List.length_replicate (n := 256)).ge, (List.length_replicate (n := 255)).trans_lt (by decide),
    List.length_replicate⟩
theorem test_meets_Flits_receive :
    (∀ q, (aFlit q 0 false true).good = true ∧ (aFlit q 0 false false).good = false ∧ (aFlit q 0 false true).payload.length = 56 ∧
      (aFlit q 0 false true).nak = false ∧ (aFlit q 0 false true).seq = q) ∧
    -- the first flit of a group, whose tag stands for the group, and a later one of a group that has failed
    (({ up := true } : Link).rx = 0 ∧ (aFlit 0 0 false true).tag = true ∧ ({ up := true, rx := 3, groupOk := false } : Link).rx ≠ 0) ∧
    (let l : Link := { up := true, expect := 1023 };
      l.up = true ∧ l.heldFlits = [] ∧ l.expect = 1023) ∧
    (let l : Link := { up := true, expect := 1023, heldFlits := [aFlit 0 0 false true] };
      l.heldFlits = [aFlit 0 0 false true] ∧ (aFlit 0 0 false true).seq = l.expect + 1 ∧
      (∀ g ∈ l.heldFlits, g.seq ≠ (1 : BitVec 10) ∧ g.seq ≠ l.expect) ∧
      0 < ((1 : BitVec 10) - l.expect).toNat ∧ ((1 : BitVec 10) - l.expect).toNat < 256 ∧
      (∃ g ∈ l.heldFlits, g.seq = (0 : BitVec 10)) ∧
      0 < ((254 : BitVec 10) - l.expect).toNat ∧ ((254 : BitVec 10) - l.expect).toNat < 256 ∧
      256 ≤ ((255 : BitVec 10) - l.expect).toNat) := by
  refine ⟨fun q => ⟨rfl, rfl, by simp [aFlit], rfl, rfl⟩, ⟨rfl, rfl, by decide⟩, ⟨rfl, rfl, rfl⟩, rfl, rfl, ?_, by decide, by decide,
    ⟨_, List.mem_singleton.mpr rfl, rfl⟩, by decide, by decide, by decide⟩
  intro g hg
  rw [List.mem_singleton.mp hg]
  exact ⟨by decide, by decide⟩
/-- A window with flit 5: never sent again, sent again at clk t, and after fifteen more sends. -/
def winOn (n t : Nat) : Link := { up := true, window := [anSent 5 n t] }
theorem test_meets_Flits_again :
    (∀ n t, (winOn n t).up = true ∧ ((winOn n t).window.filter fun e => decide (512 ≤ ((5 : BitVec 10) - 1 - e.flit.seq).toNat)) = [anSent 5 n t] ∧
      (((winOn n t).window.filter fun e => decide (512 ≤ ((5 : BitVec 10) - 1 - e.flit.seq).toNat)).find? fun e => e.flit.seq = 5) =
        some (anSent 5 n t) ∧ (winOn n t).window = anSent 5 n t :: [] ∧ (anSent 5 n t).resends = n ∧ (anSent 5 n t).sentAt = t) ∧
    (((winOn 0 0).window.filter fun e => decide (512 ≤ ((6 : BitVec 10) - 1 - e.flit.seq).toNat)).find? fun e => e.flit.seq = 6) = none ∧
    (linkOn (winOn 1 5000)).time = 5000 ∧ 5000 ≤ 4000 + 1000 ∧ 3999 + 1000 < 5000 ∧
    (let s := (linkOn (winOn 1 7)).setDie (linkDie 6) { clk := 7 };
      (anSent 5 1 7).resentAt = some (s.die (linkDie 6)).clk ∧ (anSent 5 1 6).resentAt ≠ some (s.die (linkDie 6)).clk) := by
  refine ⟨fun _ _ => ⟨rfl, rfl, rfl, rfl, rfl, rfl⟩, by decide, rfl, by decide, by decide, by decide +kernel⟩
theorem test_meets_LinksTrain_master (o : Int) :
    let l : Link := { up := true, master := some 0 }
    6 ≤ 6 ∧ (linkOn l).link 6 = l ∧ (linkOn l).grandmaster = 0 ∧ (⟨0, o⟩ : PtpNote).master = 0 := by
  refine ⟨by decide, rfl, ?_, rfl⟩
  show (if true && decide (0 < Config.clockId.toNat) then 0 else Config.clockId) = (0 : DWord)
  by_cases h : 0 < Config.clockId.toNat
  · simp [h]
  · rw [if_neg (by simp [h])]
    exact BitVec.eq_of_toNat_eq (by simp at h ⊢; omega)
theorem test_meets_LinksTrain :
    ((linkOn { up := true }).link 6).up = true ∧ ((linkOn { up := false }).link 6).up = false ∧
    ({ st wv with links := [(13, { up := false }), (5, { up := false })] } : State).trust.boot_step = 6 ∧
    (({ st wv with links := [(13, { up := false }), (5, { up := false })] } : State).link 13).up = false ∧
    (({ st wv with links := [(13, { up := false }), (5, { up := false })] } : State).link 5).up = false ∧
    (∃ d, d ∈ bridgeDies 5 ∧ ((lostSt (st wv) 3).die d).lost = true) ∧ (∀ d ∈ bridgeDies 5, ((st wv).die d).lost = false) := by
  refine ⟨rfl, rfl, rfl, rfl, rfl, ⟨3, by decide, rfl⟩, ?_⟩
  decide +kernel
/-- The host at address 0x3000: a translation in use gives its page host bias, its line is dirty; a line that has failed. -/
def hostAt (bias : Bool) (bad : Map Nat) (soft : List Nat) : State :=
  let s := st wv
  { s with
    dies := if bias = true then [(0, { tlb := [⟨0, 0, 0x1000, 0x1D, 12, 0x000100000000341D, 12⟩] })] else []
    vm := { s.vm with dirty := [(0xC0, [7])], bad := bad, soft := soft } }
theorem test_meets_HostAccesses :
    (∀ h b l, (hostAt h b l).portOpen = true) ∧ namesByte (2 ^ 37 - 1) = false ∧ namesByte 0x3000 = true ∧
    (hostAt false [(0xC0, 0)] []).redirect 0x3000 = 0x3000 ∧ mget (hostAt false [(0xC0, 0)] []).vm.bad (lineOf 0x3000) ≠ none ∧
    0x3000 ∈ (hostAt false [] [0x3000]).vm.soft ∧
    (¬ (((hostAt true [] []).die (dieOf ((hostAt true [] []).redirect 0x3000))).lost = true ∨
      mget (hostAt true [] []).vm.bad (lineOf ((hostAt true [] []).redirect 0x3000)) ≠ none)) ∧
    (hostAt false [] []).biasAt 0x3000 = false ∧ (hostAt true [] []).biasAt 0x3000 = true ∧
    (hostAt false [] []).hostPage 0x3000 = none := by
  refine ⟨fun _ _ _ => rfl, by decide +kernel, by decide +kernel, by decide +kernel, by decide +kernel, by decide +kernel,
    by decide +kernel, by decide +kernel, by decide +kernel, by decide +kernel⟩
/-- A step copy is due on die 1; context 0 is homed there, with a wave or without. -/
def stepSt (time : Nat) (waves : Map Wave) (run : Option (Nat × List Nat)) (on : Bool) : State :=
  let s := st wv
  { s with
    time := time, waves := waves, blocks := [], ctxs := [(0, { cx with home := 1 })], regs := [(regKey 0 (oMod 0x20), on.toNat), (regKey 0 (oMod 0x30), 100)]
    trust := { s.trust with stepRun := run } }
theorem test_meets_StepCopies :
    (∀ t v r o, (stepSt t v r o).portOpen = true ∧ (stepSt t v r o).trust.stepRun = r ∧
      (stepSt t v r o).ctxs = [(0, { cx with home := 1 })] ∧ (stepSt t v r o).waves = v) ∧
    (stepSt 0 [] none false).tourney = false ∧ (stepSt 0 [] none true).tourney = true ∧
    (stepSt 99999999 [] none true).time < (stepSt 99999999 [] none true).trust.stepAt +
      max 100 (min 60000 ((stepSt 99999999 [] none true).reg 0 (oMod 0x30))) * 1000000 ∧
    (stepSt 100000000 [] none true).trust.stepAt + max 100 (min 60000 ((stepSt 100000000 [] none true).reg 0 (oMod 0x30))) * 1000000 ≤
      (stepSt 100000000 [] none true).time ∧
    (stepSt 0 [] none true).stepDies = [0, 1, 2, 3] ∧ (stepSt 100000000 [(0, wv)] none true).wave? 0 = some wv ∧ wv.id.ctx = 0 ∧
    (1 ∉ [0] ∧ 4 + 1 ∈ [1, 5] ∧ 1 ∈ [1] ∧ 4 + 1 ∉ [1] ∧ (∃ d ∈ [0, 1, 2, 3], d ≠ 1 ∧ 4 + d ∉ [1]) ∧
      ∀ d ∈ [0, 1, 2, 3], d ≠ 1 → 4 + d ∈ [1, 0, 4, 2, 6, 3, 7]) := by
  refine ⟨fun _ _ _ _ => ⟨rfl, rfl, rfl, rfl⟩, ?_⟩
  decide +kernel
theorem test_meets_DiesAreLost :
    State.reset.portOpen = false ∧ (st wv).portOpen = true ∧ ((st wv).die 1).usable = true ∧ ((st wv).die 1).lost = false ∧
    ((lostSt (st wv) 1).die 1).lost = true ∧ 2 ≤ (st wv).stepDies.length ∧
    (∀ h, ({ cx with home := h } : Ctx).terminated = false) ∧ ({ st wv with ctxs := [(0, { cx with home := 1 })] } : State).ctxs =
      [(0, { cx with home := 1 })] ∧ (∀ e ∈ (st wv).trust.buddies, ∀ k ∈ e.2.2.2, k.ctx ≠ 0) := by
  refine ⟨by decide +kernel, by decide +kernel, by decide +kernel, by decide +kernel, by decide +kernel, by decide +kernel,
    fun _ => rfl, rfl, ?_⟩
  intro e he
  cases he
/-- A wave with a trap table whose entry for cause 0x0F is given, in user or supervisor mode, with a handler running or not;
its private area begins at 0, so that its trap frame lies in the mapped page. -/
def wTrap (entry : Nat) (sup : Bool) (run : Option TrapRun) : Wave :=
  let v := wv.setSlot .A { wv.slot .A with sup := sup }
  { v with id := { v.id with kern := { v.id.kern with handlers := List.replicate 15 0 ++ [entry] } }, trap := { v.trap with running := run } }
theorem idle_wTrap {e p r} : idle (wTrap e p r) := ⟨by rfl, by rfl, by rfl, rfl⟩
def aRun : TrapRun :=
  { req := ⟨.A, allLanes, 0x0F, 0, 8, 0, 7, false⟩, slot := { wv.slot .A with phase := .trap }, o := [(0, List.replicate 96 5)], depth := 0
    frames := [], firmware := false, bytes := [] }
theorem test_meets_TrapEntry :
    Issues (mst notLast) 0 .A notLast ∧ CReady notLast .A true [] [] ∧ (notLast.slot .A).isLast = false ∧
    (∀ e p r, Issues (mst (wTrap e p r)) 0 .A (wTrap e p r) ∧ CReady (wTrap e p r) .A true [] [] ∧ (wTrap e p r).id.march = false ∧
      ((mst (wTrap e p r)).liveCtx (wTrap e p r).id.ctx).isSome = true ∧ ((wTrap e p r).slot .A).isLast = true ∧
      ((wTrap e p r).slot .A).sup = p ∧ (wTrap e p r).trap.running = r ∧ (wTrap e p r).trap.queue = [] ∧
      (wTrap e p r).id.kern.handlers.getD 0x0F 0 = e) ∧
    (let v := wTrap 0x40 false none;
      let u := v.setSlot .A { v.slot .A with phase := .trap, wait := none };
      let s1 := (mst v).setWave 0 { u with trap := { v.trap with queue := [⟨.A, (v.slot .A).mask, 0x0F, 0, (v.slot .A).at_, 0, 7, false⟩] } };
      (s1.rangeOf v.self .wr (v.id.priv + 0x1800) 256).1.2.isNone = true) :=
  ⟨⟨rfl, rfl⟩, ready_notLast, rfl, fun _ _ _ => ⟨⟨rfl, rfl⟩, cReady idle_wTrap rfl _ _, rfl, rfl, rfl, rfl, rfl, rfl, rfl⟩,
    by decide +kernel⟩
/-- The frame's part from 0x44 on that SRET reads. -/
def frameRead : Bool :=
  let v := wTrap 0 true (some aRun)
  match ((mst v).setWave 0 { v with ctl := { (v.countIssue .A).ctl with last := .A } }).selfRead v (v.id.priv + 0x1800 + 0x44) 0x5C with
  | (.ok b, _) => decide (b.length = 0x5C)
  | _ => false
theorem test_meets_TrapReturn :
    (∀ p r, Issues (mst (wTrap 0 p r)) 0 .A (wTrap 0 p r) ∧ CReady (wTrap 0 p r) .A true [] [] ∧ ((wTrap 0 p r).slot .A).sup = p ∧
      ((wTrap 0 p r).slot .A).isLast = true ∧ (wTrap 0 p r).trap.running = r) ∧
    ((mst (wTrap 0 true none)).liveCtx (wTrap 0 true none).id.ctx).isSome = true ∧ aRun.req.slot = .A ∧
    (let v := wTrap 0 true (some aRun);
      (v.slot .A).mask = aRun.req.lanes &&& v.ctl.live ∧ v.ctl.spilled.length + v.ctl.recon.length ≤ aRun.depth ∧
      ((mst v).selfMiss v 0x1800 256).isNone = true ∧ v.trap.queue = [] ∧ v.mem.miss = [] ∧ aRun.req.part = false ∧
      aRun.slot.sup = false ∧ (∀ f ∈ belowTrap v.ctl.frames, f.mask ≠ 0) ∧ allLanes ≠ 0 ∧
      aRun.slot.clause ≠ none ∧ ¬ (aRun.req.subcause = 1 ∧ aRun.req.cause = 0x09) ∧ aRun.slot.only ≠ some 0) ∧
    (∀ l, l < 96 → mbit allLanes l = (mbit (wTrap 0 true (some aRun)).ctl.live l &&
      (mbit aRun.req.lanes l || mbit aRun.slot.mask l))) ∧ frameRead = true ∧
    (let v := wOne (wTrap 0 true (some aRun)) 5;
      (v.slot .A).mask ≠ aRun.req.lanes &&& v.ctl.live) ∧
    aRun.depth < ([] : List Nat).length + [anEntry].length :=
  ⟨fun _ _ => ⟨⟨rfl, rfl⟩, cReady idle_wTrap rfl _ _, rfl, rfl, rfl⟩, rfl, rfl, by decide +kernel, by decide +kernel, by decide +kernel,
    by decide +kernel, by decide +kernel⟩

/-! ### Encodings, steps, reset -/

theorem test_meets_ScalarAndControlRoundTrip :
    (Instr.exit.cls = some .c ∧ Instr.exit.wf = true) ∧ (Instr.sadd ⟨false, .s 4, .s 4, .imm 0x40⟩).cls = some .u ∧ (Instr.sadd ⟨false, .s 4, .s 4, .imm 0x40⟩).wf = true := by decide
theorem test_meets_VectorAndMemoryRoundTrip :
    (Instr.cpy 16 0).cls = some .m ∧ (Instr.cpy 16 0).wf = true ∧ (Instr.iadd ⟨false, .v 159, .b0, .imm 7⟩).cls = some .v ∧
    (Instr.iadd ⟨false, .v 159, .b0, .imm 7⟩).wf = true := by decide
/-- A slot's turn comes, with a clause of these words, one that waits, or none; and an event. -/
def turnSt (v : Wave) : State := { st v with cur := none, agenda := [⟨5, .slot 0 .A⟩] }
def wWords (cl : Cls) (ws : List Word) : Wave := testWave (testClause cl ws)
def wNone (c : Option Clause) : Wave := wv.setSlot .A { wv.slot .A with clause := c }
def turnOk (v : Wave) : Bool :=
  let s1 := ({ turnSt v with agenda := [] } : State).pass 5
  decide (s1.wave? 0 = some v) && !v.id.held && !s1.frozen v && v.canRun .A && !v.turnBlocked .A && decide ((v.slot .A).wait = none) &&
    !(v.slot .A).firmware
theorem test_meets_StepsRunTheirInstruction :
    (∀ v, (turnSt v).agenda = ⟨5, .slot 0 .A⟩ :: []) ∧ turnOk (wNone none) = true ∧ ((wNone none).slot .A).clause = none ∧
    (let c := { testClause .v [0] with waiting := true };
      turnOk (wNone (some c)) = true ∧ ((wNone (some c)).slot .A).clause = some c) ∧
    (∀ ws ∈ [[0x10000000], [0x00000000], [0xFF000000]], (wWords .c ws).windowShut .A = false ∧
      (wWords .c ws).trap.overwrite = none ∧ (wWords .c ws).trap.watchdog = false) ∧
    turnOk (wWords .c [0x10000000]) = true ∧ turnOk (wWords .c [0xFF000000]) = true ∧
    ((wWords .c [0xFF000000]).slot .A).clause.map (fun c => c.items[0]?) = some (some (0xFF000000, [])) ∧
    decode (Cls.ofCode Cls.c.code) 0x10000000 [] = .ok .exit ∧ decode (Cls.ofCode Cls.c.code) 0xFF000000 [] = .error .unassigned ∧
    Instr.coldReset.cls = none ∧ Instr.ofTurn .coldReset = false ∧
    ({ State.reset with agenda := [⟨0, .event .coldReset⟩] } : State).agenda = ⟨0, .event .coldReset⟩ :: [] := by
  refine ⟨fun _ => rfl, by decide +kernel, rfl, by decide +kernel, by decide +kernel, by decide +kernel, by decide +kernel, rfl,
    rfl, rfl, rfl, rfl, rfl⟩
/-- A slot's turn comes at a KLOP with SUB 8, an SCMP with SUB 10, and an SBFE with SUB 2 (R156, R157). -/
theorem test_codes_at_turn : ∀ n ∈ [(0x0485010A, 0x00080000), (0x1E85010A, 0x000A0000), (0x3E85010A, 0x00020000)],
    TurnAt (turnSt (wWords .u [n.1, n.2])) 0 .A .u n.1 [n.2] (({ turnSt (wWords .u [n.1, n.2]) with agenda := [] } : State).pass 5) := by
  intro n hn
  refine ⟨⟨_, _, rfl, rfl⟩, wWords .u [n.1, n.2], testClause .u [n.1, n.2], ?_⟩
  simp only [List.mem_cons, List.not_mem_nil, or_false] at hn
  rcases hn with rfl | rfl | rfl <;>
  exact ⟨by decide +kernel, rfl, rfl, rfl, by decide +kernel, by decide +kernel⟩
theorem test_codes_refused :
    decode .u 0x0485010A [0x00080000] = .error .illegal ∧ decode .u 0x1E85010A [0x000A0000] = .error .illegal ∧
    decode .u 0x3E85010A [0x00020000] = .error .illegal ∧
    decode .u 0x0485010A [0x00070000] = .ok (.klop ⟨false, .k 5, .s 1, .s 10⟩ 7) ∧
    decode .u 0x3E85010A [0x00010000] = .ok (.sbfe ⟨false, .k 5, .s 1, .s 10⟩ true) := by decide
theorem test_meets_MemoryStaysCanonical :
    memWf (turnSt wv).mem = true ∧ ∃ t, step ({ turnSt wv with agenda := [⟨5, .event .tournSwitch⟩] } : State) = .next t :=
  ⟨rfl, _, rfl⟩
/-! ### Ill-formed terms, and words that are refused -/

theorem test_wf_fields :
    (Instr.fma3 ⟨false, .v 0, .v 0, .v 0⟩ ⟨0, false, false, false, false, false⟩ false (.imm 1)).wf = false ∧
    (Instr.dot4i ⟨false, .v 0, .v 0, .v 0⟩ false (.imm 1)).wf = false ∧ (Instr.dot4u ⟨false, .v 0, .v 0, .v 0⟩ false (.imm 1)).wf = false ∧
    (Instr.dot2h ⟨false, .v 0, .v 0, .v 0⟩ ⟨0, false, false, false, false, false⟩ false (.imm 1)).wf = false ∧
    (Instr.dot2b ⟨false, .v 0, .v 0, .v 0⟩ ⟨0, false, false, false, false, false⟩ false (.imm 1)).wf = false ∧
    (Instr.imad3 ⟨false, .v 0, .v 0, .v 0⟩ false false (.imm 1)).wf = false ∧
    (Instr.ltab ⟨false, .v 0, .v 0, .v 0⟩ 0 (.imm 1)).wf = false ∧ (Instr.bfi ⟨false, .v 0, .v 0, .v 0⟩ (.imm 1)).wf = false ∧
    (Instr.smad ⟨false, .s 0, .s 0, .s 0⟩ (.imm 1)).wf = false ∧ (Instr.sbfi ⟨false, .s 0, .s 0, .s 0⟩ (.imm 1)).wf = false ∧
    (Instr.sffma ⟨false, .s 0, .s 0, .s 0⟩ ⟨0, false, false, false, false, false⟩ false (.imm 1)).wf = false ∧
    (Instr.cvt ⟨false, .v 0, .v 0⟩ 0 false .se8 .fp32).wf = false ∧ (Instr.cvt ⟨false, .v 0, .v 0⟩ 0 false .fp32 .se3).wf = false ∧
    (Instr.scvt ⟨false, .s 0, .s 0⟩ 0 false .e4m3 .fp32).wf = false ∧ (Instr.scvt ⟨false, .s 0, .s 0⟩ 0 false .fp32 .i8).wf = false ∧
    (Instr.red ⟨false, .v 0, .v 0⟩ 0 0 1).wf = false ∧ (Instr.scan ⟨false, .v 0, .v 0⟩ 0 10 1).wf = false := by decide
theorem test_wf_memory :
    (Instr.ld false (.v 1) ⟨0, .const 0, 0, 0⟩ 0 3 0 0).wf = false ∧ (Instr.ld false (.o 0) ⟨0, .const 0, 0, 0⟩ 0 4 0 0).wf = false ∧
    (Instr.ldp false (.v 2) ⟨0, .const 0, 0, 0⟩ 0 4 false).wf = false ∧ (Instr.st false (.v 1) ⟨0, .const 0, 0, 0⟩ 3 0 0).wf = false ∧
    (Instr.stp false (.imm 1) ⟨0, .const 0, 0, 0⟩ 4 false).wf = false ∧ (Instr.sld false 1 0 0 0 4 0 0).wf = false ∧
    (Instr.sst false 1 0 0 4 0 0).wf = false ∧ (Instr.atom false 12 (.ret (.v 2) 0) ⟨0, .const 0, 0, 0⟩ 0).wf = false ∧
    (Instr.atomp false 1 (.ret (.o 0) 0) ⟨0, .const 0, 0, 0⟩).wf = false ∧ (Instr.atom false 11 (.s 0) ⟨0, .const 0, 0, 0⟩ 0).wf = false ∧
    (Instr.tex false 0 1 0 0 0 0 0).wf = false ∧ (Instr.tld false 2 0 0 0 0 0).wf = false ∧ (Instr.tq false 3 none 0 0 0 0).wf = false ∧
    (Instr.blnd false 0 1 0).wf = false ∧ (Instr.cpy 2 0).wf = false := by decide
theorem test_wf_engines :
    (Instr.mmaMac ⟨255, 0, 0, 0, 0⟩ 0).wf = false ∧ (Instr.mmaZero ⟨1, 0, 0, 1, 1⟩).wf = false ∧
    (Instr.mmaDrain ⟨1, 0, 0, 1, 0⟩).wf = false ∧ (Instr.mldb ⟨1, 0, 0, 0, 0⟩ 1).wf = false ∧ (Instr.mldb ⟨1, 0, 0, 0, 1⟩ 0).wf = false ∧
    (Instr.mrel ⟨1, 0, 0, 1, 0⟩).wf = false ∧ (Instr.pemit false 0 (.v 0) 0).wf = false ∧ (Instr.splat false 0 (.v 0) 0).wf = false := by decide
theorem test_wf_events :
    (Instr.clauseFetch 15360 .A).wf = false ∧ (Instr.storeAck 160 0).wf = false ∧ (Instr.pageReply 513).wf = false ∧
    (Instr.pageHash 1024 0).wf = false ∧ (Instr.buoyReport 4).wf = false ∧ (Instr.pixelWaveLaunch 0 0 40).wf = false ∧
    (Instr.frame 513).wf = false ∧ (Instr.flitReceive 14 ⟨[], 0, 0, 0, false, true, true⟩).wf = false ∧
    (Instr.registerWrite 0 0 2 0).wf = false ∧ (Instr.hostAccess 0 [0, 0] 1).wf = false ∧ (Instr.logKeyRequest 1024).wf = false ∧
    (Instr.donationAnswer 0 4).wf = false := by decide
/-- Words that are no instruction: an operation code without a row, a field with a value it does not have, an operand
that may not stand there, and a word cut short (R105, R111, R113, R201). -/
theorem test_words_refused :
    decode .c 0xFF000000 [] = .error .unassigned ∧ decode .v 0x70B10A0B [] = .error (.operand .none) ∧
    decodeWords .v [] = .error .truncated ∧
    decode .u 0x1604A0A0 [0x00020000] = .error .illegal := by
  decide
/-! ### Values the spec works out -/

/-- The wave after one instruction, and a lane of one of its registers. -/
def after (i : Instr) (v : Wave) : Option Wave := match exec i (st v) with
  | .next t => t.wave? 0
  | _ => none
def laneOf (i : Instr) (v : Wave) (n l : Nat) : Option Word := (after i v).map fun u => laneAt (u.vreg n) l
/-- Lane 5 of v0 holds a value. -/
def wLane (d : Word) : Wave := { wv with regs := { wv.regs with v := [(0, List.replicate 5 0 ++ [d])] } }
/-- R178: 0xFFFF_FFFF is below 0 as a signed value and not as an unsigned one. -/
theorem test_R178 :
    (after (.icmp ⟨false, 9, .imm 0xFFFFFFFF, .const 0⟩ 2) wv).map (fun u => mbit (u.preg 9) 5) = some true ∧
    (after (.ucmp ⟨false, 9, .imm 0xFFFFFFFF, .const 0⟩ 2) wv).map (fun u => mbit (u.preg 9) 5) = some false := by decide +kernel
/-- R180's LTAB.tab=mux, R181's BFE.s, R169's FFRACT of −2^−30. -/
theorem test_R180 :
    laneOf (.ltab ⟨false, .v 0, .imm 0xFF, .imm 0xF0F⟩ 0xD8 (.v 0)) (wLane 0x3333) 0 5 = some 0x330F ∧
    laneOf (.bfe ⟨false, .v 0, .imm 0xF0000000, .imm 0x81C⟩ true) wv 0 5 = some 0xFFFFFFFF := by decide +kernel
theorem test_R169 : laneOf (.ffract ⟨false, .v 0, .imm 0xB0800000⟩ false false) wv 0 5 = some 0x3F7FFFFF := by decide +kernel
/-- R155: SMULH of −2^63 by itself; R157: SBFE.s with a field of 8 bits and of 4. -/
theorem test_R155 :
    (after (.smulh ⟨false, .s 0, .s 0, .s 0⟩ false) (wS [0x8000000000000000])).map (fun u => u.sreg 0) = some 0x4000000000000000 ∧
    (after (.sbfe ⟨false, .s 1, .s 0, .imm 0x814⟩ true) (wS [0xF00000])).map (fun u => u.sreg 1) = some 15 ∧
    (after (.sbfe ⟨false, .s 1, .s 0, .imm 0x414⟩ true) (wS [0xF00000])).map (fun u => u.sreg 1) = some (-1) := by decide +kernel
/-- R171's HADD2 of 65,504 and 1.0 by 1.0 and 1.0. -/
theorem test_R171 : laneOf (.hadd2 ⟨false, .v 0, .imm 0x3C007BFF, .imm 0x3C003C00⟩ ⟨0, false, ⟨false, false, false, false⟩⟩) wv 0 5 =
    some 0x40007BFF := by decide +kernel
/-- FFMA on subnormals (the second of "Worked arithmetic"'s rows): a tie to the even value, with NX and UF. -/
theorem test_R168 :
    let i : Instr := .ffma ⟨false, .v 0, .imm 1, .imm 0x3F000000⟩ ⟨0, false, ⟨false, false, false, false⟩⟩ false;
    laneOf i (wLane 1) 0 5 = some 2 ∧ (after i (wLane 1)).map (fun u => u.regs.flags.toNat) = some 0x18 := by decide +kernel
/-- R398 and R402: reports of a failing row of the register file enter the repair table with their physical row. -/
theorem test_R398 :
    (({} : Pair).reported 0xC141A388).repair = [0xC146A388] := by decide +kernel
/-- A step runs the word that withFetchWord places: IADD v10, 1, 1 (R106, R113). -/
theorem test_fetched_step :
    (match step (State.reset.withFetchWord 32 0x700AB1B1) with
      | .next t => (t.wave? 0).map fun (u : Wave) => laneAt (u.vreg 10) 95
      | _ => none) = some 2 := by decide +kernel

end Sys2Proof.Tests
end

/-! # The scalar integer and bit instructions (R154 to R157)

Their 64-bit results, as facts of every width where the fact has one; the long words of the U class, whose operation SUB
selects; and the turn of a slot whose word is refused. -/

namespace Sys2Proof.Machine
open Sys2Proof.Says

/-! ### The statements' forms -/

theorem scal1_of (i : U1 → Instr) (f g : DWord → Res DWord) (h : ∀ j s, exec (i j) s = s.runU1 j f)
    (e : ∀ a, f a = g a) : Scal1 i g := by
  obtain rfl : f = g := funext e
  exact fun j => uRuns_of (i j) j.g j.d [j.a] _ (h j)
theorem scal2_of (i : U2 → Instr) (f g : DWord → DWord → Res DWord) (h : ∀ j s, exec (i j) s = s.runU2 j f)
    (e : ∀ a b, f a b = g a b) : Scal2 i g := by
  obtain rfl : f = g := funext₂ e
  exact fun j => uRuns_of (i j) j.g j.d [j.a, j.b] _ (h j)
theorem scal3_of (i : U2 → USrc → Instr) (f g : DWord → DWord → DWord → Res DWord)
    (h : ∀ j c s, exec (i j c) s = s.runU3 j c f) (e : ∀ a b c, f a b c = g a b c) : Scal3 i g := by
  obtain rfl : f = g := funext fun a => funext₂ (e a)
  exact fun j c => uRuns_of (i j c) j.g j.d [j.a, j.b, c] _ (h j c)
theorem pureRes_congr {α : Type} {a b : α} (h : a = b) : pureRes a = ⟨b, 0⟩ := by rw [h]; rfl

/-! ### Truth values (R156) -/

theorem klopBit_eq_booleanOp (op : BitVec 3) (a b : Bool) : klopBit op a b = booleanOp op a b := by
  revert op a b; decide
theorem cmpHolds_eq_scalarCompared (cond : Fin 10) (a b : DWord) :
    cmpHolds cond a.toInt b.toInt a.toNat b.toNat = scalarCompared cond a b := by
  fin_cases cond <;> simp [cmpHolds, scalarCompared, BitVec.toInt_inj]

/-! ### Arithmetic modulo a power of two (R155) -/

theorem sub_eq_ofInt {n : Nat} (a b : BitVec n) : a - b = BitVec.ofInt n ((a.toNat : Int) - b.toNat) := by
  apply BitVec.eq_of_toInt_eq
  rw [BitVec.toInt_sub, BitVec.toInt_ofInt, a.toInt_eq_toNat_bmod, b.toInt_eq_toNat_bmod, ← Int.sub_bmod]
theorem shiftLeft_eq_ofNat {n : Nat} (a : BitVec n) (k : Nat) : a <<< k = BitVec.ofNat n (a.toNat * 2 ^ k) :=
  BitVec.eq_of_toNat_eq (by simp [Nat.shiftLeft_eq])
theorem ushiftRight_eq_ofNat {n : Nat} (a : BitVec n) (k : Nat) : a >>> k = BitVec.ofNat n (a.toNat / 2 ^ k) := by
  rw [← Nat.shiftRight_eq_div_pow, ← BitVec.toNat_ushiftRight, BitVec.ofNat_toNat, BitVec.setWidth_eq]
theorem sshiftRight_eq_ofInt {n : Nat} (a : BitVec n) (k : Nat) :
    a.sshiftRight k = BitVec.ofInt n (a.toInt / 2 ^ k) := by
  rw [BitVec.sshiftRight, Int.shiftRight_eq_div_pow]; norm_cast
theorem min_toInt_eq_ofInt {n : Nat} (a b : BitVec n) :
    (if a.toInt ≤ b.toInt then a else b) = BitVec.ofInt n (min a.toInt b.toInt) := by
  rw [min_def]; split <;> rw [BitVec.ofInt_toInt]
theorem max_toInt_eq_ofInt {n : Nat} (a b : BitVec n) :
    (if a.toInt ≤ b.toInt then b else a) = BitVec.ofInt n (max a.toInt b.toInt) := by
  rw [max_def]; split <;> rw [BitVec.ofInt_toInt]
theorem min_toNat_eq_ofNat {n : Nat} (a b : BitVec n) :
    (if a.toNat ≤ b.toNat then a else b) = BitVec.ofNat n (min a.toNat b.toNat) := by
  rw [min_def]; split <;> rw [BitVec.ofNat_toNat, BitVec.setWidth_eq]
theorem max_toNat_eq_ofNat {n : Nat} (a b : BitVec n) :
    (if a.toNat ≤ b.toNat then b else a) = BitVec.ofNat n (max a.toNat b.toNat) := by
  rw [max_def]; split <;> rw [BitVec.ofNat_toNat, BitVec.setWidth_eq]

/-! ### Fields (R157) -/

/-- A field of at least one bit, read as two's complement. -/
theorem sextN_eq_toInt_extractLsb' {n : Nat} (a : BitVec n) (o wd : Nat) (h : wd ≠ 0) :
    sextN wd (a.toNat / 2 ^ o) = (a.extractLsb' o wd).toInt := by
  obtain ⟨k, rfl⟩ := Nat.exists_eq_succ_of_ne_zero h
  have h2 : 2 ^ (k + 1) = 2 * 2 ^ k := by rw [Nat.pow_succ, Nat.mul_comm]
  simp only [sextN, BitVec.toInt, BitVec.extractLsb'_toNat, Nat.shiftRight_eq_div_pow, Nat.succ_eq_add_one,
    Nat.add_sub_cancel, h2, Nat.mul_lt_mul_left Nat.zero_lt_two]
theorem bfeNat_signed_eq {n m : Nat} (a : BitVec n) (o wd : Nat) :
    BitVec.ofInt m (bfeNat a.toNat o wd true) = (a.extractLsb' o wd).signExtend m := by
  unfold bfeNat
  split
  next h => subst h; rw [BitVec.of_length_zero (x := a.extractLsb' o 0)]; rfl
  next h => rw [if_pos rfl, sextN_eq_toInt_extractLsb' a o wd h]; rfl
theorem bfeNat_unsigned_eq {n m : Nat} (a : BitVec n) (o wd : Nat) :
    BitVec.ofInt m (bfeNat a.toNat o wd false) = (a.extractLsb' o wd).setWidth m := by
  have hx : (a.extractLsb' o wd).setWidth m = BitVec.ofInt m ((a.toNat / 2 ^ o % 2 ^ wd : Nat) : Int) := by
    rw [BitVec.ofInt_natCast, ← Nat.shiftRight_eq_div_pow, ← BitVec.extractLsb'_toNat, BitVec.ofNat_toNat]
  rw [hx]
  unfold bfeNat
  split
  next h => subst h; simp [Nat.mod_one]
  next => rfl

/-- An insertion keeps the parts of a below and above the field around the low bits of b. -/
theorem bfiNat_eq (a b o wd : Nat) :
    bfiNat a b o wd = 2 ^ o * (2 ^ wd * (a / 2 ^ o / 2 ^ wd) + b % 2 ^ wd) + a % 2 ^ o := by
  have ho := Nat.div_add_mod a (2 ^ o)
  have hw := Nat.div_add_mod (a / 2 ^ o) (2 ^ wd)
  unfold bfiNat
  generalize a / 2 ^ o / 2 ^ wd = hi at *
  generalize a / 2 ^ o % 2 ^ wd = mid at *
  rw [← hw] at ho
  have e : a = 2 ^ o * (2 ^ wd * hi) + a % 2 ^ o + mid * 2 ^ o := by
    rw [Nat.mul_add] at ho; linarith
  generalize a % 2 ^ o = lo at *
  rw [e, Nat.add_sub_cancel]; ring
theorem testBit_bfiNat (a b o wd i : Nat) :
    (bfiNat a b o wd).testBit i = if o ≤ i ∧ i < o + wd then b.testBit (i - o) else a.testBit i := by
  rw [bfiNat_eq, Nat.testBit_two_pow_mul_add _ (Nat.mod_lt _ (Nat.two_pow_pos o)),
    Nat.testBit_two_pow_mul_add _ (Nat.mod_lt _ (Nat.two_pow_pos wd)), Nat.testBit_mod_two_pow, Nat.testBit_mod_two_pow]
  by_cases h1 : i < o
  · simp [h1, Nat.not_le.mpr h1]
  · by_cases h2 : i - o < wd
    · simp [h1, h2, show o ≤ i ∧ i < o + wd by omega]
    · simp only [h1, h2, if_false, if_neg (show ¬(o ≤ i ∧ i < o + wd) by omega), Nat.testBit_div_two_pow]
      congr 1; omega
theorem bfiNat_eq_of_bits {n : Nat} (a b r : BitVec n) (o wd : Nat)
    (h : ∀ i, i < n → r.getLsbD i = if o ≤ i ∧ i < o + wd then b.getLsbD (i - o) else a.getLsbD i) :
    BitVec.ofNat n (bfiNat a.toNat b.toNat o wd) = r := by
  apply BitVec.eq_of_getLsbD_eq
  intro i hi
  rw [h i hi, BitVec.getLsbD_ofNat, testBit_bfiNat]
  simp only [hi, decide_true, Bool.true_and, BitVec.testBit_toNat]

/-! ### Counts (R155) -/

theorem ones_eq_cpopNatRec {n : Nat} (a : BitVec n) (k : Nat) : ones k a.toNat = a.cpopNatRec k 0 := by
  simp only [ones, BitVec.testBit_toNat]
  induction k with
  | zero => rfl
  | succ k ih =>
    rw [BitVec.cpopNatRec_succ, BitVec.cpopNatRec_eq, ← ih, List.range_succ, List.filter_append, List.length_append]
    cases h : a.getLsbD k <;> simp [h]
theorem ofNat_ones_eq_cpop {n : Nat} (a : BitVec n) : BitVec.ofNat n (ones n a.toNat) = a.cpop := by
  rw [ones_eq_cpopNatRec, BitVec.cpop]
theorem clz_toNat_lt {n : Nat} {a : BitVec n} (h : a ≠ 0#n) : a.clz.toNat < n := by
  have := BitVec.clz_lt_iff_ne_zero.mpr h
  rwa [BitVec.lt_def, BitVec.natCast_eq_ofNat, BitVec.toNat_ofNat, Nat.mod_two_pow_self] at this
/-- The highest one bit stands below the leading zeros. -/
theorem log2_eq_sub_clz {n : Nat} {a : BitVec n} (h : a ≠ 0#n) : Nat.log2 a.toNat = n - 1 - a.clz.toNat := by
  have hc := clz_toNat_lt h
  rw [Nat.log2_eq_iff fun h0 => h (BitVec.eq_of_toNat_eq h0), show n - 1 - a.clz.toNat + 1 = n - a.clz.toNat by omega]
  exact ⟨BitVec.two_pow_sub_clz_le_toNat_of_ne_zero (by omega) h, BitVec.toNat_lt_two_pow_sub_clz⟩
theorem ofNat_leadZeros_eq_clz {n : Nat} (a : BitVec n) : BitVec.ofNat n (leadZeros n a.toNat) = a.clz := by
  unfold leadZeros
  split
  next h => exact (BitVec.clz_eq_iff_eq_zero.mpr (BitVec.eq_of_toNat_eq h)).symm
  next h =>
    have hz : a ≠ 0#n := fun e => h (by rw [e]; rfl)
    have hc := clz_toNat_lt hz
    rw [log2_eq_sub_clz hz, show n - 1 - (n - 1 - a.clz.toNat) = a.clz.toNat by omega, BitVec.ofNat_toNat,
      BitVec.setWidth_eq]

/-! ### The long words of the U class (R107, R117) -/

/-- The extension words of an operand code, and the immediate it reads: one word for the code 0xBF. -/
def extOf (c : BitVec 8) (x : Word) : List Word := if c = 0xBF then [x] else []
def immOf (c : BitVec 8) (x : Word) : Word := if c = 0xBF then x else 0
/-- The extension words of a U word that carries VX (R106). -/
def longExt (word ia ib vx : Word) : List Word := extOf (field word 8 8) ia ++ extOf (field word 0 8) ib ++ [vx]

theorem takeExt_extOf (c : BitVec 8) (x : Word) (r : List Word) (k : Word → List Word → Dec) :
    takeExt (c == 0xBF) (extOf c x ++ r) k = k (immOf c x) r := by
  unfold takeExt extOf immOf
  by_cases h : c = 0xBF
  · subst h; rfl
  · rw [beq_false_of_ne h, if_neg h, if_neg h]; rfl
/-- A word of an opcode that carries VX is decoded from its immediates and VX. -/
theorem decode_u_long (word ia ib vx : Word) (ha : assigned .u (field word 25 7).toNat = true)
    (hl : longU (field word 25 7).toNat = true) :
    decode .u word (longExt word ia ib vx) =
      decodeU (unpackV word) (immOf (field word 8 8) ia) (immOf (field word 0 8) ib) (unpackVX vx) := by
  simp only [decode, opOf, ha, Bool.not_true, Bool.false_eq_true, if_false, unpackV, longExt, List.append_assoc,
    takeExt_extOf, hl]
  rfl

theorem chk_eq_ok {b : Bool} {k : Dec} {i : Instr} : chk b k = .ok i ↔ b = true ∧ k = .ok i := by
  cases b <;> simp [chk]
theorem opd_eq_ok {α : Type} {nd : Sys2Proof.Need} {o : Option α} {k : α → Dec} {i : Instr} :
    opd nd o k = .ok i ↔ ∃ a, o = some a ∧ k a = .ok i := by
  cases o <;> simp [opd]
theorem decU2_ok {w : VW} {ia ib : Word} {k : U2 → Dec} {i : Instr} (h : decU2 w ia ib k = .ok i) :
    ∃ f, k f = .ok i := by
  simp only [decU2, opd_eq_ok] at h
  obtain ⟨d, -, a, -, b, -, hk⟩ := h
  exact ⟨_, hk⟩

/-- A word of two sources whose operation is selected by SUB, of which the values below n are listed (R156, R157). -/
def bySub (n : BitVec 4) (word ia ib vx : Word) (k : U2 → Dec) : Dec :=
  chk ((unpackVX vx).only { sub := true }) <| chk (field vx 16 4 < n) <|
    decU2 (unpackV word) (immOf (field word 8 8) ia) (immOf (field word 0 8) ib) k
theorem bySub_ok {n : BitVec 4} {word ia ib vx : Word} {k : U2 → Dec} {i : Instr}
    (h : bySub n word ia ib vx k = .ok i) : field vx 16 4 < n ∧ ∃ f, k f = .ok i := by
  simp only [bySub, chk_eq_ok, decide_eq_true_eq] at h
  exact ⟨h.2.1, decU2_ok h.2.2⟩
theorem bySub_unlisted {n : BitVec 4} {word ia ib vx : Word} {k : U2 → Dec} (h : n ≤ field vx 16 4) :
    bySub n word ia ib vx k = .error .illegal := by
  have hs : decide (field vx 16 4 < n) = false := decide_eq_false (BitVec.not_lt.mpr h)
  simp only [bySub, chk, hs, Bool.false_eq_true, if_false, ite_self]

theorem decode_klop {word : Word} (ia ib vx : Word) (h : field word 25 7 = 0x02) :
    decode .u word (longExt word ia ib vx) =
      bySub 8 word ia ib vx fun f => .ok (.klop f ((field vx 16 4).setWidth 3)) := by
  rw [decode_u_long _ _ _ _ (by rw [h]; rfl) (by rw [h]; rfl)]
  simp only [decodeU, unpackV, h]; rfl
theorem decode_scmp {word : Word} (ia ib vx : Word) (h : field word 25 7 = 0x0F) :
    decode .u word (longExt word ia ib vx) =
      bySub 10 word ia ib vx fun f => opd .none (fin10 (field vx 16 4).toNat) fun cond => .ok (.scmp f cond) := by
  rw [decode_u_long _ _ _ _ (by rw [h]; rfl) (by rw [h]; rfl)]
  simp only [decodeU, unpackV, h]; rfl
theorem decode_sbfe {word : Word} (ia ib vx : Word) (h : field word 25 7 = 0x1F) :
    decode .u word (longExt word ia ib vx) =
      bySub 2 word ia ib vx fun f => .ok (.sbfe f (field vx 16 4 == 1)) := by
  rw [decode_u_long _ _ _ _ (by rw [h]; rfl) (by rw [h]; rfl)]
  simp only [decodeU, unpackV, h]; rfl

/-! ### What SUB selects (R156, R157) -/

theorem klop_of_decode {word ia ib vx : Word} {i : Instr} (h : field word 25 7 = 0x02)
    (hd : decode .u word (longExt word ia ib vx) = .ok i) :
    ∃ f op, i = .klop f op ∧ op.toNat = (field vx 16 4).toNat := by
  rw [decode_klop _ _ _ h] at hd
  obtain ⟨hlt, f, hf⟩ := bySub_ok hd
  have h8 : (field vx 16 4).toNat < 2 ^ 3 := hlt
  cases hf
  exact ⟨f, _, rfl, by rw [BitVec.toNat_setWidth, Nat.mod_eq_of_lt h8]⟩
theorem scmp_of_decode {word ia ib vx : Word} {i : Instr} (h : field word 25 7 = 0x0F)
    (hd : decode .u word (longExt word ia ib vx) = .ok i) :
    ∃ f cond, i = .scmp f cond ∧ cond.val = (field vx 16 4).toNat := by
  rw [decode_scmp _ _ _ h] at hd
  obtain ⟨hlt, f, hf⟩ := bySub_ok hd
  have h10 : (field vx 16 4).toNat < 10 := hlt
  rw [fin10, finOf, dif_pos h10] at hf
  cases hf
  exact ⟨f, _, rfl, rfl⟩
theorem sbfe_of_decode {word ia ib vx : Word} {i : Instr} (h : field word 25 7 = 0x1F)
    (hd : decode .u word (longExt word ia ib vx) = .ok i) : ∃ f, i = .sbfe f ((field vx 16 4).toNat == 1) := by
  rw [decode_sbfe _ _ _ h] at hd
  obtain ⟨-, f, hf⟩ := bySub_ok hd
  cases hf
  exact ⟨f, congrArg _ (Bool.eq_iff_iff.mpr (by simp [← BitVec.toNat_inj]))⟩

/-! ### A turn at a word that is refused (R118) -/

/-- A slot at its turn issues the word it stands at, and no trap is pending before it. -/
theorem slotTurn_issueWord {s s1 : State} {w : Nat} {x : SlotId} {cl : Cls} {word : Word} {ext : List Word}
    (h : TurnAt s w x cl word ext s1) : ∃ v, v.windowShut x = false ∧ s1.pendingTrap w x v = none ∧
      s1.slotTurn w x = s1.issueWord w x v cl word ext := by
  obtain ⟨v, c, hw, hc, hcl, hwait, hitem, hheld, hfrozen, hrun, hblk, hnw, hfw, hshut, hpend⟩ := h.wave
  refine ⟨v, hshut, ?_, ?_⟩
  · unfold State.pendingTrap
    rcases hpend with hsup | ⟨ho, hd⟩
    · rw [if_pos hsup]
    · rw [ho, hd]; simp
  · simp [State.slotTurn, hw, hheld, hfrozen, hrun, hblk, hnw, hfw, State.runSlot, hc, hwait, hitem, hcl]
theorem step_slotTurn {s s1 : State} {w : Nat} {x : SlotId} {cl : Cls} {word : Word} {ext : List Word}
    (h : TurnAt s w x cl word ext s1) {t : State} (ht : s1.slotTurn w x = (none, t)) : step s = .next t := by
  obtain ⟨dt, rest, hag, rfl⟩ := h.due
  simp only [step, State.nextTurn, hag, State.doTurn, ht]
/-- A word with a broken field traps with 0x01 at its slot's turn. -/
theorem step_illegal {s s1 : State} {w : Nat} {x : SlotId} {cl : Cls} {word : Word} {ext : List Word}
    (h : TurnAt s w x cl word ext s1) (hd : decode cl word ext = .error .illegal) :
    step s = .next (s1.trapC w x 0x01) := by
  obtain ⟨v, hshut, hpend, hturn⟩ := slotTurn_issueWord h
  apply step_slotTurn h
  simp only [hturn, State.issueWord, hshut, Bool.false_eq_true, if_false, hd, hpend, rejectCause]

/-! ### The obligations -/

/-- Settles O6: each result is the model's own in the form R155 gives it, and SUB is checked before any operand. -/
theorem scalarIntegers : Obligations.ScalarIntegers := by
  refine ⟨scal1_of _ _ _ exec_smov fun _ => rfl, fun j nc k => uRuns_of _ _ _ _ _ (exec_ssel j nc k),
    fun op => scal2_of _ _ _ (exec_klop · op) fun a b => ?klop,
    scal2_of _ _ _ exec_sadd fun a b => pureRes_congr ?add,
    scal2_of _ _ _ exec_ssub fun a b => pureRes_congr (sub_eq_ofInt a b),
    scal2_of _ _ _ exec_smul fun a b => pureRes_congr ?mul,
    scal2_of _ _ _ (exec_smulh · false) fun a b => rfl, scal2_of _ _ _ (exec_smulh · true) fun a b => rfl,
    scal3_of _ _ _ exec_smad fun a b c => pureRes_congr ?mad,
    scal2_of _ _ _ (exec_smin · false) fun a b => pureRes_congr (min_toInt_eq_ofInt a b),
    scal2_of _ _ _ (exec_smin · true) fun a b => pureRes_congr (min_toNat_eq_ofNat a b),
    scal2_of _ _ _ (exec_smax · false) fun a b => pureRes_congr (max_toInt_eq_ofInt a b),
    scal2_of _ _ _ (exec_smax · true) fun a b => pureRes_congr (max_toNat_eq_ofNat a b),
    fun cond => scal2_of _ _ _ (exec_scmp · cond) fun a b => ?scmp,
    fun sh => scal2_of _ _ _ (exec_slea · sh) fun a b => pureRes_congr ?lea, fun word ia ib vx => ⟨?selected, ?refused⟩⟩
  case klop => rw [klopBit_eq_booleanOp]; rfl
  case scmp => rw [cmpHolds_eq_scalarCompared]; rfl
  case add => simp [BitVec.ofNat_add]
  case mul => simp [BitVec.ofNat_mul]
  case mad => simp [BitVec.ofNat_add, BitVec.ofNat_mul]
  case lea => simp [BitVec.ofNat_add, shiftLeft_eq_ofNat]
  case selected => exact fun i hd => ⟨fun h => klop_of_decode h hd, fun h => scmp_of_decode h hd⟩
  case refused =>
    rintro (⟨h, hs⟩ | ⟨h, hs⟩) s w x s1 ht
    · exact step_illegal ht ((decode_klop ia ib vx h).trans (bySub_unlisted hs))
    · exact step_illegal ht ((decode_scmp ia ib vx h).trans (bySub_unlisted hs))

/-- Settles O7: each result is the model's own in the form R155 and R157 give it, and SUB is checked before any
operand. -/
theorem scalarBits : Obligations.ScalarBits := by
  refine ⟨scal2_of _ _ _ exec_sand fun a b => rfl, scal2_of _ _ _ exec_sor fun a b => rfl,
    scal2_of _ _ _ exec_sxor fun a b => rfl,
    scal2_of _ _ _ exec_sshl fun a b => pureRes_congr (shiftLeft_eq_ofNat a _),
    scal2_of _ _ _ exec_sshr fun a b => pureRes_congr (ushiftRight_eq_ofNat a _),
    scal2_of _ _ _ exec_ssar fun a b => pureRes_congr (sshiftRight_eq_ofInt a _),
    scal2_of _ _ _ exec_srot fun a b => pureRes_congr ?rot,
    scal2_of _ _ _ (exec_sbfe · false) fun a b => pureRes_congr (bfeNat_unsigned_eq a _ _),
    scal2_of _ _ _ (exec_sbfe · true) fun a b => pureRes_congr (bfeNat_signed_eq a _ _),
    fun f hf => scal3_of _ _ _ exec_sbfi fun a b c => pureRes_congr (bfiNat_eq_of_bits a b _ _ _ (hf a b c)),
    scal1_of _ _ _ exec_spopc fun a => pureRes_congr (ofNat_ones_eq_cpop a),
    scal1_of _ _ _ exec_sclz fun a => pureRes_congr (ofNat_leadZeros_eq_clz a), fun word ia ib vx h => ⟨?selected, ?refused⟩⟩
  case rot => rw [BitVec.rotateLeft_mod_eq_rotateLeft, BitVec.rotateLeft_def]
  case selected => exact fun i hd => sbfe_of_decode h hd
  case refused => exact fun hs s w x s1 ht => step_illegal ht ((decode_sbfe ia ib vx h).trans (bySub_unlisted hs))

end Sys2Proof.Machine
